-- ==== Sys2Proof/Word.lean ====
section
/-! DEFINITION. The word types of the Decnex (02 R25, 03 R54). -/

namespace Sys2Proof

/-- A 64-bit word: an instruction word, an x register, an address. -/
abbrev Word := BitVec 64
/-- A 32-bit vector register. -/
abbrev W32 := BitVec 32
/-- A byte of memory. -/
abbrev Byte := BitVec 8
/-- The five sticky floating-point flags: bit 0 NV, 1 DZ, 2 OF, 3 UF, 4 NX (01 R15). -/
abbrev FpFlags := BitVec 5

end Sys2Proof
end

