-- ==== Sys2Proof/Config.lean ====
section
/-! DEFINITION. What an implementation of the Decnex fixes and the manual leaves open: constants with no body,
so that no proof can see their values (log 1). Each takes the model's counter of free values where every use
may give another value. -/

namespace Sys2Proof.Config

/-- Local cycles of a core that pass before a read of CYCLES (01 R16, R6). -/
opaque elapsed : Nat → Nat
/-- The cycle count stamped into an error record (18 R384). -/
opaque recordCycles : Nat → Word
/-- Byte `j` of the TD's image of unplaced teams that one save writes (15 R331: the format belongs to the device). -/
opaque tdImage : Nat → Nat → Byte
/-- A byte that a remote device or the host returns (18 R379, R374): what stands there is outside the machine. -/
opaque outsideByte : Nat → Byte
/-- A register value that nothing defines: SAVEBASE and PREEMPT of a restored thread (15 R334 saves neither). -/
opaque freeWord : Nat → Word
/-- How a boot stage that runs by itself ends: 0, or its failure code (18 R381). -/
opaque bootOutcome : Nat → Nat
/-- The firmware image a boot that runs by itself finds: its bytes, and how many follow the header (18 R382). -/
opaque firmwareByte : Nat → Byte
opaque firmwareLength : Nat
/-- Byte `j` of the SHA-512 of some bytes, and of the vendor-key digest in the device fuses (18 R382). -/
opaque sha512 : List Byte → Nat → Byte
opaque vendorDigest : Nat → Byte
/-- A public key, a signature and a message: the ECDSA signature over P-521 with SHA-512 verifies (18 R382). -/
opaque ecdsaVerifies : List Byte → List Byte → List Byte → Bool
/-- Byte `j` of the identity key's signature of a message; each signature may be another (18 R383). -/
opaque identitySignature : Nat → List Byte → Nat → Byte
/-- The base addresses and sizes firmware chooses for its reservation record (18 R395), as ten words. -/
opaque reservation : Nat → Word
/-- Byte `j` of the device's serial number and identity public key (18 R383). -/
opaque identityByte : Nat → Byte
/-- The byte that stands in a team's scratchpad or column extension at its placement (05 R121). -/
opaque scratchByte : Nat → Nat → Byte
/-- The value of element bits of a plane that an earlier read may or may not have seen (03 R67). -/
opaque planeBits : Nat → BitVec 16
/-- The L2 slice, 0 to 319, and the set of it that hold a line of compute HBM (07 R155: a hash). -/
opaque homeSlice : Nat → Nat
opaque homeSet : Nat → Nat
/-- Which of the lines with the highest plane index a full set evicts (07 R160). -/
opaque victim : Nat → Nat
/-- A special function's result where no enclosure of the model decides the rounding (04 R88). -/
opaque specialTie : BitVec 4 → Nat → Nat → Bool

end Sys2Proof.Config
end

