-- ==== Sys2Proof/Syntax.lean ====
section
/-! DEFINITION. The abstract syntax: the fields of a word as 02 R26 and R34 give them, the operands of the events
of the other agents, and one constructor of `Instr` per row of opcode_table.json, in the table's order. -/

namespace Sys2Proof

/-- The guard of a full word (02 R26, R27): GP bits 51:49 and GN bit 48. -/
structure Guard where
  gp : BitVec 3
  gn : Bool
deriving DecidableEq, Repr

/-- The canonical unguarded form, GP = 7 and GN = 0 (02 R27). -/
def Guard.always : Guard := ⟨7, false⟩

/-- The operand fields of a full word (02 R26): D 47:38, A 37:28, B 27:18, C 17:8, MOD 7:5, HA 4, HB 3, HC 2
(in the M class bit 2 is AM, 02 R29). The immediate of the I class is B and C together, and the displacement
of the J class is D, A, B and C together. -/
structure Fields where
  d : BitVec 10 := 0
  a : BitVec 10 := 0
  b : BitVec 10 := 0
  c : BitVec 10 := 0
  mod : BitVec 3 := 0
  ha : Bool := false
  hb : Bool := false
  hc : Bool := false
deriving DecidableEq, Repr

/-- One slot of a pair word (02 R34): SOP 30:25, D 24:15, A 14:5, HD 4, HA 3, G 2:0. -/
structure Slot where
  sop : BitVec 6
  d : BitVec 10
  a : BitVec 10
  hd : Bool
  ha : Bool
  g : BitVec 3
deriving DecidableEq, Repr

/-- A host initiator channel and whether the adapter marks it privileged (18 R372). -/
structure HostAgent where
  channel : BitVec 6
  priv : Bool
deriving DecidableEq, Repr

/-- The deposit window of a kind, as a host agent writes it (18 R374). -/
structure DepositWindow where
  agent : HostAgent
  kind : Nat
deriving DecidableEq, Repr

/-- The UALink request types of 18 R378 and R379, with the remote device's operands. -/
inductive RemoteReq
  /-- Read of `len` bytes at a physical address of this device. -/
  | read (addr len : Nat)
  /-- Write of the listed bytes: full with no enables given, else of the bytes whose enable is set. -/
  | write (addr : Nat) (data : List Byte) (enables : List Bool)
  /-- Atomic, returning or not: the operation code and type of 09 R201, operand and compare values. -/
  | atomic (returning : Bool) (op : BitVec 4) (ty : BitVec 3) (compare : Bool) (addr : Nat) (v cmp : Word)
  /-- A request type outside UALink 1.0's Read, Write and Atomic. -/
  | unsupported
deriving DecidableEq, Repr

/-- What a column limiter's sample holds (16 R345). -/
structure ColumnSample where
  tbase : BitVec 16
  tcore0 : BitVec 16
  tcore1 : BitVec 16
  tcache : BitVec 16
  draw : W32
  budget : W32
  share : W32
  dthr : W32
deriving DecidableEq, Repr

/-- The array units of retention (07 R163). -/
inductive ArrayUnit
  | scratchBanks (core group : Nat)
  | extension (core : Nat)
  | registerBank (core bank : Nat)
  | l2Slice (slice : Nat)
  | tileFile (cluster : Nat)
deriving DecidableEq, Repr

/-- Where an uncorrectable error can stand in the arrays that 07 R161 protects: a 64-bit granule of a scratchpad, a
column extension, a tile file, the L2 and compute HBM, or the Eland HBM, as location / 8; a vector register of a thread;
an x register of a team; a granule of a core's L1 line, as location / 8; a line of an instruction cache; a tuple in an
HMU store, by its deposit's place; and what the sampler or the Eland die holds for a queued command, by its number. -/
inductive ErrSite
  | granule (g : Nat)
  | vreg (team tid n : Nat)
  | xreg (team n : Nat)
  | l1 (core g : Nat)
  | icache (core pa : Nat)
  | tuple (dep : Nat)
  | engine (uid : Nat)
deriving DecidableEq, Repr

/-- A firmware image (18 R382): its header's bytes, and the bytes that follow. -/
structure FirmwareImage where
  header : List Byte
  body : List Byte
deriving DecidableEq, Repr

/-- The firmware reservation record (18 R395): region sizes and every range firmware fixes at START. -/
structure Reservation where
  launchSize : Nat
  launchBase : Nat
  faultSize : Nat
  faultBase : Nat
  pageSize : Nat
  pageBase : Nat
  poolBase : Nat
  poolSize : Nat
  ovfBase : Nat
  ovfSize : Nat
deriving DecidableEq, Repr

/-- Every step of the part, one constructor per row of opcode_table.json: first the words a thread executes, each with
its guard and fields, then the events of the other agents, each with the operands that timing decides. -/
inductive Instr
  /-- NOP (R98): No operation; only the guard is meaningful. -/
  | nop (g : Guard) (f : Fields)
  /-- BKPT (R318): Raises TRAP with SUB 0x80 plus the code, stopping the thread at its own word. -/
  | bkpt (g : Guard) (f : Fields)
  /-- TRAP (R318): Raises TRAP with SUB equal to the code, stopping the thread at its own word. -/
  | trap (g : Guard) (f : Fields)
  /-- ERET (R323): Leaves handler mode, restores STATUS.PRIV and resumes at TRAPPC. -/
  | eret (g : Guard) (f : Fields)
  /-- ERET_NEXT (R323): Leaves handler mode, restores STATUS.PRIV and resumes at next_word(TRAPPC). -/
  | eretNext (g : Guard) (f : Fields)
  /-- YIELD (R98): Has no architectural effect; the issue stage may prefer other threads for a time. -/
  | yield (g : Guard) (f : Fields)
  /-- MOVCR (R99): Copies a control register into a vector pair, a vector or an x register. -/
  | movcr (g : Guard) (f : Fields)
  /-- MOVRC (R99): Writes a control register from a register, following its field map (W1C for FPST, TSET for TDESC, value check for SKEW). -/
  | movrc (g : Guard) (f : Fields)
  /-- MOVSR (R100): Writes the selected system value (TID, TEAM, CORE and the rest) to a register. -/
  | movsr (g : Guard) (f : Fields)
  /-- CCTL_DINV (R205): Invalidates every L1 data line of the thread's core. -/
  | cctlDinv (g : Guard) (f : Fields)
  /-- CCTL_IINV (R205): Invalidates the instruction-cache copies of one line in every core of the device, then completes. -/
  | cctlIinv (g : Guard) (f : Fields)
  /-- CCTL_IALL (R205): Invalidates the instruction cache of the thread's core. -/
  | cctlIall (g : Guard) (f : Fields)
  /-- TLBI_VA (R207): Drops, from every translation cache of the device, the entries used to translate one 4 KiB page. -/
  | tlbiVa (g : Guard) (f : Fields)
  /-- TLBI_CTX (R207): Drops, from every translation cache, every entry of the issuing context's TROOT. -/
  | tlbiCtx (g : Guard) (f : Fields)
  /-- TLBI_ALL (R207): Drops every entry of every translation cache of the device. -/
  | tlbiAll (g : Guard) (f : Fields)
  /-- SAVE (R338): Begins pre-emption of a launch into the area at SAVEBASE and writes a status once it is SAVED or has ended. -/
  | save (g : Guard) (f : Fields)
  /-- REST (R338): Restores the launch saved at SAVEBASE and writes a status once every team is placed. -/
  | rest (g : Guard) (f : Fields)
  /-- IADD (R73): Integer add, optionally saturating. -/
  | iadd (g : Guard) (f : Fields)
  /-- ISUB (R73): Integer subtract, optionally saturating. -/
  | isub (g : Guard) (f : Fields)
  /-- IMUL (R73): Low w bits of the integer product. -/
  | imul (g : Guard) (f : Fields)
  /-- IMULH (R73): High half of the signed or natural integer product. -/
  | imulh (g : Guard) (f : Fields)
  /-- IMAD (R73): Low w bits of a times b plus c. -/
  | imad (g : Guard) (f : Fields)
  /-- IMADW (R74): Widening multiply-add into a 64-bit vector pair. -/
  | imadw (g : Guard) (f : Fields)
  /-- IADD64 (R74): 64-bit add of vector pairs. -/
  | iadd64 (g : Guard) (f : Fields)
  /-- ISUB64 (R74): 64-bit subtract of vector pairs. -/
  | isub64 (g : Guard) (f : Fields)
  /-- IMIN (R73): Signed or natural integer minimum. -/
  | imin (g : Guard) (f : Fields)
  /-- IMAX (R73): Signed or natural integer maximum. -/
  | imax (g : Guard) (f : Fields)
  /-- IABS (R73): Integer absolute value, optionally saturating. -/
  | iabs (g : Guard) (f : Fields)
  /-- INEG (R73): Integer negation, optionally saturating. -/
  | ineg (g : Guard) (f : Fields)
  /-- AND (R75): Bitwise AND. -/
  | and (g : Guard) (f : Fields)
  /-- OR (R75): Bitwise OR. -/
  | or (g : Guard) (f : Fields)
  /-- XOR (R75): Bitwise XOR. -/
  | xor (g : Guard) (f : Fields)
  /-- ANDN (R75): a AND NOT b. -/
  | andn (g : Guard) (f : Fields)
  /-- SHL (R75): Logical shift left by an unreduced count. -/
  | shl (g : Guard) (f : Fields)
  /-- SHR (R75): Logical shift right by an unreduced count. -/
  | shr (g : Guard) (f : Fields)
  /-- SAR (R75): Arithmetic shift right. -/
  | sar (g : Guard) (f : Fields)
  /-- SHF (R76): Funnel shift of b:a, left or right. -/
  | shf (g : Guard) (f : Fields)
  /-- BFE (R77): Bitfield extract with sign or zero extension. -/
  | bfe (g : Guard) (f : Fields)
  /-- BFI (R77): Bitfield insert. -/
  | bfi (g : Guard) (f : Fields)
  /-- POPC (R75): Population count. -/
  | popc (g : Guard) (f : Fields)
  /-- CLZ (R75): Count of leading zero bits. -/
  | clz (g : Guard) (f : Fields)
  /-- BREV (R75): Bit reversal. -/
  | brev (g : Guard) (f : Fields)
  /-- PRMT (R78): Byte permute with optional sign replication. -/
  | prmt (g : Guard) (f : Fields)
  /-- ICMP (R79): Integer compare, combined with a predicate into a predicate. -/
  | icmp (g : Guard) (f : Fields)
  /-- SEL (R80): Selects a or b by a predicate. -/
  | sel (g : Guard) (f : Fields)
  /-- PCOMB (R81): Combines three predicates through an 8-entry truth table. -/
  | pcomb (g : Guard) (f : Fields)
  /-- MOV (R80): Register move. -/
  | mov (g : Guard) (f : Fields)
  /-- PGET (R80): Copies p0–p6 into a vector register. -/
  | pget (g : Guard) (f : Fields)
  /-- PSET (R80): Sets the masked predicates from bits of a. -/
  | pset (g : Guard) (f : Fields)
  /-- X2V (R80): Moves the low or high half of an x register into a vector register. -/
  | x2v (g : Guard) (f : Fields)
  /-- V2X (R80): Moves a vector register or pair into an x register. -/
  | v2x (g : Guard) (f : Fields)
  /-- IADDI (R82): Add a signed 20-bit immediate. -/
  | iaddi (g : Guard) (f : Fields)
  /-- ANDI (R82): AND with an immediate. -/
  | andi (g : Guard) (f : Fields)
  /-- ORI (R82): OR with an immediate. -/
  | ori (g : Guard) (f : Fields)
  /-- XORI (R82): XOR with an immediate. -/
  | xori (g : Guard) (f : Fields)
  /-- SHLI (R82): Shift left by an immediate. -/
  | shli (g : Guard) (f : Fields)
  /-- SHRI (R82): Logical shift right by an immediate. -/
  | shri (g : Guard) (f : Fields)
  /-- SARI (R82): Arithmetic shift right by an immediate. -/
  | sari (g : Guard) (f : Fields)
  /-- MOVI (R82): Loads a sign-extended 20-bit immediate. -/
  | movi (g : Guard) (f : Fields)
  /-- LIMM (R83): Loads the 64-bit extension word into a vector pair, a vector or an x register. -/
  | limm (g : Guard) (f : Fields) (ext : Word)
  /-- ICMPI (R84): Compares against an immediate into a predicate. -/
  | icmpi (g : Guard) (f : Fields)
  /-- FADD (R85): Floating-point add. -/
  | fadd (g : Guard) (f : Fields)
  /-- FSUB (R85): Floating-point subtract. -/
  | fsub (g : Guard) (f : Fields)
  /-- FMUL (R85): Floating-point multiply. -/
  | fmul (g : Guard) (f : Fields)
  /-- FFMA (R85): Fused multiply-add, rounded once. -/
  | ffma (g : Guard) (f : Fields)
  /-- FMIN (R86): Floating-point minimum that returns an operand. -/
  | fmin (g : Guard) (f : Fields)
  /-- FMAX (R86): Floating-point maximum that returns an operand. -/
  | fmax (g : Guard) (f : Fields)
  /-- FCMP (R87): F32 compare, combined with a predicate into a predicate. -/
  | fcmp (g : Guard) (f : Fields)
  /-- FDIV (R85): Correctly rounded floating-point divide. -/
  | fdiv (g : Guard) (f : Fields)
  /-- FSQRT (R85): Correctly rounded square root. -/
  | fsqrt (g : Guard) (f : Fields)
  /-- FRCP (R88): Correctly rounded reciprocal. -/
  | frcp (g : Guard) (f : Fields)
  /-- FRSQ (R88): Correctly rounded reciprocal square root. -/
  | frsq (g : Guard) (f : Fields)
  /-- FEX2 (R88): Correctly rounded 2^a. -/
  | fex2 (g : Guard) (f : Fields)
  /-- FLG2 (R88): Correctly rounded log2 a. -/
  | flg2 (g : Guard) (f : Fields)
  /-- FSIN (R88): Correctly rounded sine. -/
  | fsin (g : Guard) (f : Fields)
  /-- FCOS (R88): Correctly rounded cosine. -/
  | fcos (g : Guard) (f : Fields)
  /-- FTANH (R88): Correctly rounded hyperbolic tangent. -/
  | ftanh (g : Guard) (f : Fields)
  /-- FERF (R88): Correctly rounded error function. -/
  | ferf (g : Guard) (f : Fields)
  /-- CVT (R91): Converts between floating-point and integer types. -/
  | cvt (g : Guard) (f : Fields)
  /-- FRND (R92): Rounds to an integral value in the same format. -/
  | frnd (g : Guard) (f : Fields)
  /-- I2I (R93): Converts between integer types, wrapping or saturating. -/
  | i2i (g : Guard) (f : Fields)
  /-- PACK (R94): Packs two F32 values into F16x2 or BF16x2. -/
  | pack (g : Guard) (f : Fields)
  /-- UNPACK (R94): Unpacks F16x2 or BF16x2 into two F32 values. -/
  | unpack (g : Guard) (f : Fields)
  /-- FCLASS (R95): Writes the class mask of a floating-point value. -/
  | fclass (g : Guard) (f : Fields)
  /-- BRA (R96): Branch by a displacement, checked under R44 when taken. -/
  | bra (g : Guard) (f : Fields)
  /-- BRX (R96): Branch to a register-supplied target. -/
  | brx (g : Guard) (f : Fields)
  /-- CALL (R97): Call by a displacement, writing the link to v0:v1. -/
  | call (g : Guard) (f : Fields)
  /-- CALLX (R97): Call to a register target, writing the link to vD:vD+1. -/
  | callx (g : Guard) (f : Fields)
  /-- RET (R97): Return to a register-supplied address. -/
  | ret (g : Guard) (f : Fields)
  /-- EXIT (R24): Ends the thread; in-flight memory effects stand and parked herd requests are withdrawn. -/
  | exit (g : Guard) (f : Fields)
  /-- SLEEP (R98): Stops the thread issuing for at least imm local cycles. -/
  | sleep (g : Guard) (f : Fields)
  /-- PAIR_WORD (R35): Issues two restricted slot operations D := D op A together, each under its own guard. -/
  | pairWord (s0 s1 : Slot)
  /-- LD (R190): Translated load with an ordering and a scope. -/
  | ld (g : Guard) (f : Fields)
  /-- ST (R190): Translated store that enters the core's store queue. -/
  | st (g : Guard) (f : Fields)
  /-- LDS (R192): Load at a team-relative scratchpad offset, linear or skewed. -/
  | lds (g : Guard) (f : Fields)
  /-- STS (R192): Store at a team-relative scratchpad offset, linear or skewed. -/
  | sts (g : Guard) (f : Fields)
  /-- PRF (R194): Prefetches a line into L1 or its home L2 slice. -/
  | prf (g : Guard) (f : Fields)
  /-- PLD (R196): Loads PB16 elements with n planes and sets their precision tags. -/
  | pld (g : Guard) (f : Fields)
  /-- PREF (R197): Refines registers to more mantissa planes after the tag and signature checks. -/
  | pref (g : Guard) (f : Fields)
  /-- PST (R198): Encodes 16 registers as a PB16 block and stores n planes. -/
  | pst (g : Guard) (f : Fields)
  /-- PTAG_GET (R199): Reads a register's precision tag into a register. -/
  | ptagGet (g : Guard) (f : Fields)
  /-- PTAG_SET (R199): Sets a register's precision tag from a value. -/
  | ptagSet (g : Guard) (f : Fields)
  /-- ATOM (R202): Returning atomic read-modify-write at the home. -/
  | atom (g : Guard) (f : Fields)
  /-- ATOMC (R202): Atomic compare-and-swap at the home. -/
  | atomc (g : Guard) (f : Fields)
  /-- RED (R202): Non-returning reduction, which may merge on its way to the home. -/
  | red (g : Guard) (f : Fields)
  /-- FENCE (R203): Memory fence with an ordering and a scope. -/
  | fence (g : Guard) (f : Fields)
  /-- WAIT (R204): Stalls until the LD, ST, AS and MX counters are at or below the given counts. -/
  | wait (g : Guard) (f : Fields)
  /-- HDEP (R222): Deposits a tuple into a herd region. -/
  | hdep (g : Guard) (f : Fields)
  /-- HDEPC (R222): Deposits a tuple with a pending count. -/
  | hdepc (g : Guard) (f : Fields)
  /-- HDEC (R224): Decrements the count of the oldest matching pending tuple. -/
  | hdec (g : Guard) (f : Fields)
  /-- HCPY (R223): Blocking copy of a matching tuple. -/
  | hcpy (g : Guard) (f : Fields)
  /-- HTAK (R223): Blocking take of a matching tuple. -/
  | htak (g : Guard) (f : Fields)
  /-- HCPYT (R223): Try copy that never parks. -/
  | hcpyt (g : Guard) (f : Fields)
  /-- HTAKT (R223): Try take that never parks. -/
  | htakt (g : Guard) (f : Fields)
  /-- HCAN (R225): Withdraws the thread's outstanding parked copy or take. -/
  | hcan (g : Guard) (f : Fields)
  /-- HCRE (R226): Creates a herd region over a backing range. -/
  | hcre (g : Guard) (f : Fields)
  /-- HDEL (R226): Deletes a herd region at every home. -/
  | hdel (g : Guard) (f : Fields)
  /-- SHFL (R128): Lane-group shuffle of register values. -/
  | shfl (g : Guard) (f : Fields)
  /-- VOTE (R129): Lane-group vote or ballot over predicates. -/
  | vote (g : Guard) (f : Fields)
  /-- GRED (R131): Lane-group reduction by a fixed left fold. -/
  | gred (g : Guard) (f : Fields)
  /-- GSCAN (R131): Lane-group inclusive or exclusive scan. -/
  | gscan (g : Guard) (f : Fields)
  /-- ELECT (R130): Sets a predicate true only in the lowest active lane. -/
  | elect (g : Guard) (f : Fields)
  /-- BAR (R134): Arrives at a hardware barrier and waits for the phase to complete. -/
  | bar (g : Guard) (f : Fields)
  /-- BARA (R134): Records the phase in a predicate and arrives at a hardware barrier without waiting. -/
  | bara (g : Guard) (f : Fields)
  /-- BARW (R134): Waits until the barrier phase differs from a predicate. -/
  | barw (g : Guard) (f : Fields)
  /-- BRINIT (R239): Initialises a barrier register's expected arrivals and bytes. -/
  | brinit (g : Guard) (f : Fields)
  /-- BRDUE (R240): Adds bytes due in the current phase to a barrier register. -/
  | brdue (g : Guard) (f : Fields)
  /-- BRARV (R241): A thread arrives at a barrier register and records its phase. -/
  | brarv (g : Guard) (f : Fields)
  /-- BRWAIT (R242): Waits for a barrier-register phase to complete, or for the register to be invalid. -/
  | brwait (g : Guard) (f : Fields)
  /-- BRTRY (R242): Tests for barrier-register phase completion without waiting. -/
  | brtry (g : Guard) (f : Fields)
  /-- BRINV (R243): Invalidates a barrier register and releases its waiters. -/
  | brinv (g : Guard) (f : Fields)
  /-- CPY (R233): Queues a copy-engine byte transfer that counts on a barrier register. -/
  | cpy (g : Guard) (f : Fields)
  /-- CPYP (R236): Queues a copy of up to 8 planes of a block range, one barrier register per plane. -/
  | cpyp (g : Guard) (f : Fields)
  /-- QCFG (R246): Configures or invalidates a stream register. -/
  | qcfg (g : Guard) (f : Fields)
  /-- QFILL (R247): Fills the next free stream slot by BRINIT and CPY. -/
  | qfill (g : Guard) (f : Fields)
  /-- QPOP (R248): Claims the next stream slot and waits until it has landed. -/
  | qpop (g : Guard) (f : Fields)
  /-- QREL (R249): Releases the oldest claimed stream slot. -/
  | qrel (g : Guard) (f : Fields)
  /-- TSET (R258): Writes a tile descriptor and clears the tile's tag. -/
  | tset (g : Guard) (f : Fields)
  /-- TGET (R258): Reads a tile descriptor or a tile tag. -/
  | tget (g : Guard) (f : Fields)
  /-- TLD (R259): Loads memory rows into a tile. -/
  | tld (g : Guard) (f : Fields)
  /-- TLDP (R260): Loads PB16 planes into a plane tile and sets its tag. -/
  | tldp (g : Guard) (f : Fields)
  /-- TREF (R260): Refines a plane tile to more planes. -/
  | tref (g : Guard) (f : Fields)
  /-- TST (R259): Stores tile rows to memory. -/
  | tst (g : Guard) (f : Fields)
  /-- TZERO (R261): Zeroes a tile. -/
  | tzero (g : Guard) (f : Fields)
  /-- TRDV (R262): Reads one tile element into a vector register. -/
  | trdv (g : Guard) (f : Fields)
  /-- TWRV (R262): Writes one tile element from a vector register. -/
  | twrv (g : Guard) (f : Fields)
  /-- KINIT (R137): Initialises a convergence register's member set. -/
  | kinit (g : Guard) (f : Fields)
  /-- MMA (R267): Signs a matrix multiply through a convergence register. -/
  | mma (g : Guard) (f : Fields)
  /-- MMAS (R268): Signs a sparse matrix multiply that skips the B blocks marked in a bitmap. -/
  | mmas (g : Guard) (f : Fields)
  /-- TEPI (R275): Epilogue: scales, activates and writes an accumulator tile as BF16, PB16 or G8. -/
  | tepi (g : Guard) (f : Fields)
  /-- TEPI_KV (R357): TEPI in KV-append mode: requests an append of K or V positions to an Eland chain. -/
  | tepiKv (g : Guard) (f : Fields)
  /-- SMPL (R283): Queues a sampler command after its issue checks. -/
  | smpl (g : Guard) (f : Fields)
  /-- ATTN (R360): Issues an attention command on a sequence chain. -/
  | attn (g : Guard) (f : Fields)
  /-- ATTNT (R360): Issues a tree-masked attention command. -/
  | attnt (g : Guard) (f : Fields)
  /-- KVSEQ_OPEN (R370): Opens a new sequence record. -/
  | kvseqOpen (g : Guard) (f : Fields)
  /-- KVSEQ_CLOSE (R370): Closes a sequence once its work completes and frees its pages. -/
  | kvseqClose (g : Guard) (f : Fields)
  /-- KVSEQ_TRIM (R370): Trims every chain of a sequence to a new length. -/
  | kvseqTrim (g : Guard) (f : Fields)
  /-- KVSEQ_STAT (R370): Returns a chain's BASE and LEN as a device-scope acquire. -/
  | kvseqStat (g : Guard) (f : Fields)
  /-- KVSEQ_DFS (R370): Sets the DFS window and rewrites the DFS slots of held pages. -/
  | kvseqDfs (g : Guard) (f : Fields)
  /-- KVFORK (R370): Forks a sequence at a prefix, sharing whole pages. -/
  | kvfork (g : Guard) (f : Fields)
  /-- KVREL (R370): Releases leading positions of a sequence. -/
  | kvrel (g : Guard) (f : Fields)
  /-- LSTAT (R313): Reads the state of a launch, graph, phase or job. -/
  | lstat (g : Guard) (f : Fields)
  /-- LCAN (R314): Cancels a launch, or every launch carrying a work id. -/
  | lcan (g : Guard) (f : Fields)
  /-- GPATCH (R315): Copies data into the free parameter buffer of a graph. -/
  | gpatch (g : Guard) (f : Fields)
  /-- RETRY (R322): A taken resume tuple resumes every thread of its FID at TRAPPC. -/
  | retry (fid : Nat)
  /-- SKIP (R322): A taken resume tuple resumes every thread of its FID after the faulting word. -/
  | skip (fid : Nat)
  /-- HANDLE (R323): A taken resume tuple sends every thread of its FID into handler mode at the handler VA. -/
  | handle (fid : Nat)
  /-- END (R322): A taken resume tuple ends every thread of its FID as by EXIT. -/
  | endThread (fid : Nat)
  /-- STORE_PERFORM (R169): A write leaves the core's store queue and is performed at its home. -/
  | storePerform (core k : Nat)
  /-- ATOMIC_PERFORM (R178): An atomic or reduction takes effect at a single point in co at its home. -/
  | atomicPerform (core k : Nat)
  /-- LOAD_COMPLETE (R204): A load-class operation writes its registers and leaves the LD counter. -/
  | loadComplete (team tid uid : Nat)
  /-- MXE_PASS_GRANT (R271): The MXE arbiter grants one pass to a ready reservation-table entry. -/
  | mxePassGrant (cluster : Nat)
  /-- MXE_MIGRATION (R272): A waiting MMA or MMAS migrates whole to an adjacent cluster's idle engine. -/
  | mxeMigration (uid engine : Nat)
  /-- TILE_COMMAND_COMPLETE (R267): A tile command finishes writing and its MX or AS count drops. -/
  | tileCommandComplete (uid : Nat)
  /-- COPY_START (R230): The copy engine reads the first source byte of a queued command. -/
  | copyStart (uid : Nat)
  /-- GRANULE_LANDING (R238): A written granule arrives on its barrier register and is subtracted from RB. -/
  | granuleLanding (uid plane off len : Nat)
  /-- COPY_COMPLETE (R230): A copy command completes once every byte is written and landed, and the AS counter drops. -/
  | copyComplete (uid : Nat)
  /-- SAMPLER_RUN (R284): A sampler reads the inputs of a queued SMPL, computes the token and writes the SSR and result record, then lands on bN. -/
  | samplerRun (uid : Nat)
  /-- APPEND_ACCEPT (R357): The Eland die accepts or refuses a KV append at its place in the record order, reserving blocks and pages. -/
  | appendAccept (team tid : Nat)
  /-- APPEND_WRITE (R358): An accepted append encodes and writes its planes and WMASK bits, then advances LEN. -/
  | appendWrite (uid : Nat)
  /-- GATE_PASSAGE (R362): An attention command's scan starts once the chain's LEN is at least L. -/
  | gatePassage (uid : Nat)
  /-- ATTENTION_SCAN (R367): The scan computes screened scores and the softmax rows, writes the output and lands on bN. -/
  | attentionScan (uid : Nat)
  /-- HERD_DEPOSIT_ARRIVAL (R218): A deposit is performed at its home: stored, stored pending, put on the wait list or refused. -/
  | herdDepositArrival (uid : Nat)
  /-- HERD_MATCH_ARRIVAL (R218): A copy or take is performed at its home: delivered, parked or completed with NONE. -/
  | herdMatchArrival (uid : Nat)
  /-- HERD_HDEC_ARRIVAL (R218): An HDEC decrements the oldest matching pending tuple, which may ripen and be offered. -/
  | herdHdecArrival (uid : Nat)
  /-- HERD_HCAN_ARRIVAL (R225): An HCAN reaches the home and withdraws the parked request, if it is still parked. -/
  | herdHcanArrival (uid : Nat)
  /-- HERD_HDEL_PERFORM (R226): HDEL at a home discards tuples and completes parked and waiting requests with DELETED. -/
  | herdHdelPerform (region : Nat)
  /-- DEPOSIT_ADMIT (R218): A waiting deposit is admitted as a new arrival once room is free in the region. -/
  | depositAdmit (region : Nat) (kind : Word)
  /-- HERD_REQUEST_COMPLETE (R221): A herd request's status, and any tuple, reach the thread's predicate and registers. -/
  | herdRequestComplete (uid : Nat)
  /-- SLEEP_EXPIRY (R98): The SLEEP minimum elapses and the thread may issue again. -/
  | sleepExpiry (team tid : Nat)
  /-- BAND_REGROUP (R104): Every regrouping interval the core regroups threads into bands; timing only. -/
  | bandRegroup (core : Nat)
  /-- TD_TAKE (R304): A TD with a free slot takes the chosen launch tuple and assigns a SEQ. -/
  | tdTake (die : Nat)
  /-- TEAM_PLACEMENT (R117): The TD places a team, or a cluster group, once all its resources are reserved. -/
  | teamPlacement (seq first : Nat) (cores : List Nat)
  /-- COOP_RESERVE (R120): A cooperative launch's teams are reserved all together in one step. -/
  | coopReserve (seq : Nat) (cores : List Nat)
  /-- STEAL_REQUEST (R350): An idle TD asks the other TD for unplaced blocks, which are then granted. -/
  | stealRequest (die seq : Nat) (blocks : List Nat)
  /-- TEAM_RETIRE (R121): A team whose threads have exited and whose operations have completed releases its reservations. -/
  | teamRetire (team : Nat)
  /-- RETIREMENT_MESSAGE (R351): A retirement on the other stack reaches the launch record and counts in RET. -/
  | retirementMessage (team : Nat)
  /-- DISPATCH_THRESHOLD_PREEMPT (R307): Under draw above threshold, a class 6–7 launch is placed on the least-draw column, pre-empting lower-class teams if needed. -/
  | dispatchThresholdPreempt (die seq team : Nat)
  /-- DRAIN_LIMIT_EXPIRY (R328): The drain timer reaches its limit and the launch enters FORCING. -/
  | drainLimitExpiry (seq : Nat)
  /-- QUIESCE_COMPLETE (R331): After started transfers land, the save area is written, reservations are released and the launch is SAVED. -/
  | quiesceComplete (seq : Nat)
  /-- RESTORE_TEAM (R337): A saved team is placed, its images are written, its records are re-issued and its threads resume. -/
  | restoreTeam (seq : Nat) (cores : List Nat)
  /-- PRE (R376): A host write to PRE begins pre-emption of a launch into the firmware pool. -/
  | pre (ag : HostAgent) (val : Word)
  /-- RES (R376): A host write to RES restores a launch saved in the firmware pool. -/
  | res (ag : HostAgent) (val : Word)
  /-- KVX_EXPORT (R386): A host KVX write exports a sequence image to KVXA. -/
  | kvxExport (ag : HostAgent) (val : Word)
  /-- KVX_IMPORT (R386): A host KVX write opens a sequence from the image at KVXA. -/
  | kvxImport (ag : HostAgent) (val : Word)
  /-- ATTGO (R383): A host write of 1 to ATTGO produces a signed attestation report at ATTREP. -/
  | attgo (ag : HostAgent) (val : Word)
  /-- QDESC_WRITE (R377): A host write to a queue descriptor takes effect at one point in the TD's order. -/
  | qdescWrite (ag : HostAgent) (kind : Nat) (w0 w1 : Word)
  /-- WORK_ENTRY_WRITE (R377): A host write to a graph, phase or job entry, including clearing CAN, takes effect at one point in the TD's order. -/
  | workEntryWrite (ag : HostAgent) (level id off : Nat) (val : Word)
  /-- HOST_CONTROL_WRITE (R376): A host write to a CONTROL register with no behaviour of its own, such as KVXA or the nonce. -/
  | hostControlWrite (ag : HostAgent) (off : Nat) (val : Word)
  /-- DEPOSIT_WINDOW_WRITE (R301): A 64-byte TUPLE write to a deposit window performs a try HDEP into the launch region; other writes count in BAD. -/
  | depositWindowWrite (win : DepositWindow) (off : Nat) (data : List Byte)
  /-- REGION_WINDOW_WRITE (R373): A 64-byte TUPLE write to a herd region window performs a try HDEP; other writes count in BAD. -/
  | regionWindowWrite (ag : HostAgent) (region off : Nat) (data : List Byte)
  /-- HOST_HBM_ACCESS (R374): A host agent reads or writes compute HBM through the host window. -/
  | hostHbmAccess (ag : HostAgent) (wr : Bool) (addr len : Nat) (data : List Byte)
  /-- REMOTE_REQUEST (R378): A UALink request from a remote device is performed, or refused if unsupported. -/
  | remoteRequest (req : RemoteReq)
  /-- LINK_FAILURE (R380): A UALink write or non-returning atomic fails after retry; it is dropped and an error is recorded. -/
  | linkFailure (uid : Nat)
  /-- DEVICE_NUMBER_ASSIGN (R379): Firmware assigns the device's UALink number once a port has trained. -/
  | deviceNumberAssign (num : Nat)
  /-- TELEMETRY_SAMPLE (R346): A column limiter takes a sample and replaces the column record. -/
  | telemetrySample (column : Nat) (sample : ColumnSample)
  /-- COLUMN_THROTTLE (R343): A column limiter throttles the layers drawing above their share. -/
  | columnThrottle (column : Nat) (layers : BitVec 4)
  /-- CRITICAL_TEMPERATURE (R343): A layer at the critical limit is held at the lowest issue rate and an error is recorded. -/
  | criticalTemperature (column layer : Nat)
  /-- TRIP_LIMIT (R387): A layer at the trip limit stops the whole package, clears READY and sets FAIL. -/
  | tripLimit (column layer : Nat)
  /-- RETENTION_ENTRY (R163): An array idle for 2^20 cycles enters retention mode with DEC-TED. -/
  | retentionEntry (arr : ArrayUnit)
  /-- RETENTION_EXIT (R163): An access to an array in retention waits while it re-encodes to SECDED. -/
  | retentionExit (arr : ArrayUnit)
  /-- POISON_MARK (R162): An uncorrectable error found with no consumer marks its granule poisoned. -/
  | poisonMark (site : ErrSite)
  /-- RESET (R381): A warm or cold reset holds the device in reset and starts the boot stages. -/
  | reset (warm : Bool)
  /-- CALIB (R381): Boot stage that trains the PHYs and margins. -/
  | calib (ports : List Nat) (code : Nat)
  /-- MEMINIT (R381): Boot stage that zeroes HBM and SRAM with ECC. -/
  | meminit (code : Nat)
  /-- FWCHECK (R382): Boot stage that verifies the firmware image and may raise the rollback counter. -/
  | fwcheck (image : FirmwareImage)
  /-- START (R381): Boot stage that creates the launch, fault and free-page regions and fills the free pool. -/
  | start (rec : Reservation) (code : Nat)
  /-- X_REGISTER_WRITE_VISIBLE (R109): A write to a team's x register becomes visible to every thread of the team at one moment, a bounded number of cycles after it issues. -/
  | xRegisterWriteVisible (team tid : Nat)
  /-- LAYER_COOLED (R343): A layer held at the lowest issue rate after reaching the critical limit cools, and the hold ends. -/
  | layerCooled (column layer : Nat)
  /-- PORT_FAILURE (R379): A UALink port that has trained fails and goes down, so later requests over it meet the link errors of R380. -/
  | portFailure (port : Nat)
  /-- REPORT_PRODUCED (R383): The device finishes the attestation report and writes it whole at ATTREP, which read zero while it was being produced. -/
  | reportProduced

deriving DecidableEq, Repr

namespace Fields

/-- The I-class immediate, bits 27:8 (02 R29). -/
def imm (f : Fields) : BitVec 20 := f.b ++ f.c
/-- The J-class displacement, bits 47:8 (02 R29). -/
def disp (f : Fields) : BitVec 40 := f.d ++ f.a ++ f.b ++ f.c
/-- MOD bit 7: the X-form (02 R30). -/
def isX (f : Fields) : Bool := f.mod.getLsbD 2
/-- MOD bit 6: the natural operation (02 R30). -/
def isN (f : Fields) : Bool := f.mod.getLsbD 1
/-- MOD bit 5: the option bit (02 R30). -/
def opt (f : Fields) : Bool := f.mod.getLsbD 0
/-- Bit 2 of the word, the access-mode bit AM of the M class (02 R29). -/
def am (f : Fields) : Bool := f.hc

end Fields
end Sys2Proof
end

