-- ==== Sys2Proof/Machine/Bits.lean ====
section
/-! DEFINITION. Bit fields, narrowing, byte order: the helpers of 03 R62 on integers, and 00 R4. -/

namespace Sys2Proof.Machine

/-- Bits `lo+len-1 : lo` of a natural number, as a number (00 R7). -/
def bitField (x lo len : Nat) : Nat := (x >>> lo) % 2 ^ len

/-- One bit of a natural number. -/
def bitAt (x i : Nat) : Bool := (x >>> i) % 2 == 1

/-- `sv` of 04 R71: a pattern read as signed, or as natural when `nat` holds. -/
def sv {w : Nat} (nat : Bool) (x : BitVec w) : Int := if nat then (x.toNat : Int) else x.toInt

/-- `clamp` of 03 R62. -/
def clampInt (x lo hi : Int) : Int := if x < lo then lo else if hi < x then hi else x

/-- `sat_i` (03 R62): `x` clamped to the signed range of width `n`. -/
def satI (x : Int) (n : Nat) : Int := clampInt x (-(2 ^ (n - 1) : Nat)) ((2 ^ (n - 1) : Nat) - 1)

/-- `sat_n` (03 R62): `x` clamped to the natural range of width `n`. -/
def satN (x : Int) (n : Nat) : Int := clampInt x 0 ((2 ^ n : Nat) - 1)

/-- Narrowing by `trunc`, or by saturation in the signed or natural range (03 R55). -/
def narrow (w : Nat) (sat nat : Bool) (x : Int) : BitVec w :=
  BitVec.ofInt w (if sat then (if nat then satN x w else satI x w) else x)

/-- The `n` little-endian bytes of a number (00 R4). -/
def leBytes : Nat → Nat → List Byte
  | 0, _ => []
  | n + 1, x => BitVec.ofNat 8 x :: leBytes n (x / 256)

/-- The number that little-endian bytes hold (00 R4). -/
def leNat : List Byte → Nat
  | [] => 0
  | b :: bs => b.toNat + 256 * leNat bs

/-- `x` rounded up to a multiple of `m`. -/
def roundUp (x m : Nat) : Nat := (x + m - 1) / m * m

/-- The number of one bits among the low `n` bits of `x`. -/
def popCount : Nat → Nat → Nat
  | 0, _ => 0
  | n + 1, x => x % 2 + popCount n (x / 2)

/-- The first number below `n` that `p` accepts, searched upward from `i`. -/
def firstFrom (p : Nat → Bool) : Nat → Nat → Option Nat
  | 0, _ => none
  | n + 1, i => if p i then some i else firstFrom p n (i + 1)

/-- The elements of a list with their positions, counted from `i`. -/
def indexed {α : Type} : Nat → List α → List (Nat × α)
  | _, [] => []
  | i, a :: as => (i, a) :: indexed (i + 1) as

/-- Rotation of a 32-bit value left by `n` modulo 32: `rotl32` of 03 R62. -/
def rotl32 (x : W32) (n : Nat) : W32 := x.rotateLeft (n % 32)

end Sys2Proof.Machine
end

