-- ==== Sys2Proof/Machine/Fp.lean ====
section
/-! DEFINITION. Floating point: formats, exact values, rounding, NaN choice and the arithmetic of 03 R56-R61 and
04 R85-R87, R91-R95. A pattern stands in 32 bits, a 16-bit format in the low half with zeros above. A finite value
is kept exactly, as a sign, a natural mantissa and a power of two. -/

namespace Sys2Proof.Machine

/-- The three formats of 03 R56. -/
inductive Fmt
  | f32
  | f16
  | bf16
deriving DecidableEq, Repr

/-- The rounding modes of 01 R14. -/
inductive RMode
  | rn
  | rz
  | ru
  | rd
deriving DecidableEq, Repr

/-- What a pattern stands for (`fp_value` of 03 R62): a NaN, an infinity, or the finite value
`(-1)^s * m * 2^e`. -/
inductive FpVal
  | nan
  | inf (s : Bool)
  | fin (s : Bool) (m : Nat) (e : Int)
deriving DecidableEq, Repr

def Fmt.fbits : Fmt → Nat
  | .f32 => 23
  | .f16 => 10
  | .bf16 => 7
def Fmt.ebits : Fmt → Nat
  | .f32 => 8
  | .f16 => 5
  | .bf16 => 8
def Fmt.width (f : Fmt) : Nat := 1 + f.ebits + f.fbits
/-- The bias, which is also the largest exponent of a finite value. -/
def Fmt.bias (f : Fmt) : Nat := 2 ^ (f.ebits - 1) - 1
/-- The exponent of the smallest normal value. -/
def Fmt.emin (f : Fmt) : Int := 1 - (f.bias : Int)
/-- The magnitude bits of infinity. -/
def Fmt.infBits (f : Fmt) : Nat := (2 ^ f.ebits - 1) * 2 ^ f.fbits
/-- The canonical NaN (03 R56). -/
def Fmt.qnan (f : Fmt) : W32 := BitVec.ofNat 32 (f.infBits + 2 ^ (f.fbits - 1))

def flagNV : FpFlags := 1
def flagDZ : FpFlags := 2
def flagOF : FpFlags := 4
def flagUF : FpFlags := 8
def flagNX : FpFlags := 16

/-- The rounding mode that two bits of FPMODE.RND, MOD or a control name (01 R14). -/
def RMode.ofBits (x : BitVec 2) : RMode :=
  if x = 0 then .rn else if x = 1 then .rz else if x = 2 then .ru else .rd

def fpSign (f : Fmt) (w : W32) : Bool := bitAt w.toNat (f.width - 1)
def fpMag (f : Fmt) (w : W32) : Nat := w.toNat % 2 ^ (f.width - 1)
def fpPattern (f : Fmt) (s : Bool) (mag : Nat) : W32 :=
  BitVec.ofNat 32 ((if s then 2 ^ (f.width - 1) else 0) + mag)
def fpZero (f : Fmt) (s : Bool) : W32 := fpPattern f s 0
def fpInf (f : Fmt) (s : Bool) : W32 := fpPattern f s f.infBits

/-- `is_nan` and `is_snan` of 03 R62. -/
def isNan (f : Fmt) (w : W32) : Bool := decide (f.infBits < fpMag f w)
def isSnan (f : Fmt) (w : W32) : Bool := isNan f w && !bitAt w.toNat (f.fbits - 1)
def isInf (f : Fmt) (w : W32) : Bool := fpMag f w == f.infBits
/-- `quiet` of 03 R62. -/
def quiet (f : Fmt) (w : W32) : W32 := w ||| BitVec.ofNat 32 (2 ^ (f.fbits - 1))
/-- A non-zero value below the smallest normal value. -/
def isSubnormal (f : Fmt) (w : W32) : Bool := decide (0 < fpMag f w) && decide (fpMag f w < 2 ^ f.fbits)

/-- Floor of log2 of a non-zero magnitude `m * 2^e`. -/
def log2Of (m : Nat) (e : Int) : Int := (m.log2 : Int) + e

/-- `fp_value` of 03 R62. -/
def fpValue (f : Fmt) (w : W32) : FpVal :=
  let mag := fpMag f w
  let s := fpSign f w
  if f.infBits < mag then .nan
  else if mag = f.infBits then .inf s
  else
    let ex := mag / 2 ^ f.fbits
    let fr := mag % 2 ^ f.fbits
    if ex = 0 then .fin s fr (f.emin - f.fbits)
    else .fin s (fr + 2 ^ f.fbits) (f.emin - f.fbits + ((ex : Int) - 1))

/-- `flush_src` of 03 R62 (03 R58): under FTZ an F32 subnormal is replaced by a zero of its sign. -/
def flushSrc (f : Fmt) (ftz : Bool) (w : W32) : W32 :=
  if ftz && f == .f32 && isSubnormal f w then fpZero f (fpSign f w) else w

/-- Whether a discarded part rounds the magnitude up: `rem` of `2^sh` with `sticky` for anything below. -/
def roundsUp (mode : RMode) (s odd : Bool) (rem sh : Nat) (sticky : Bool) : Bool :=
  let inexact := decide (0 < rem) || sticky
  match mode with
  | .rn =>
    if sh = 0 then false
    else
      let half := 2 ^ (sh - 1)
      if rem = half then sticky || odd else decide (half < rem)
  | .rz => false
  | .ru => inexact && !s
  | .rd => inexact && s

/-- The value the mode gives an overflow (03 R57). -/
def overflowMag (f : Fmt) (mode : RMode) (s : Bool) : Nat :=
  match mode with
  | .rn => f.infBits
  | .rz => f.infBits - 1
  | .ru => if s then f.infBits - 1 else f.infBits
  | .rd => if s then f.infBits else f.infBits - 1

/-- What rounding a magnitude gives: the magnitude bits, whether anything was lost, whether the value rounded with
an unbounded exponent is below the smallest normal value (tiny, 03 R57), and whether it overflowed. -/
structure Rounded where
  mag : Nat
  inexact : Bool
  tiny : Bool
  tooBig : Bool
deriving DecidableEq, Repr

/-- Rounding a magnitude `m * 2^e`, with `sticky` for a part strictly between 0 and one unit of `m`, to `f`.
Callers with `sticky` give `m` at least four bits more than the format's precision. -/
def roundMag (f : Fmt) (mode : RMode) (s : Bool) (m0 : Nat) (e0 : Int) (sticky : Bool) : Rounded :=
  if m0 = 0 then ⟨0, sticky, sticky, false⟩
  else
    let m := m0 * 2 ^ (f.fbits + 4)
    let e := e0 - (f.fbits + 4 : Nat)
    let top := (m.log2 : Int) + e
    let q := max top f.emin - f.fbits
    let sh := (q - e).toNat
    let hi := m / 2 ^ sh
    let rem := m % 2 ^ sh
    let up := roundsUp mode s (hi % 2 == 1) rem sh sticky
    let mag := (q - (f.emin - f.fbits)).toNat * 2 ^ f.fbits + (hi + if up then 1 else 0)
    let shu := (top - f.fbits - e).toNat
    let hiu := m / 2 ^ shu
    let upu := roundsUp mode s (hiu % 2 == 1) (m % 2 ^ shu) shu sticky
    let carried := hiu + (if upu then 1 else 0) == 2 ^ (f.fbits + 1)
    let tiny := decide (top < f.emin) && !(decide (top = f.emin - 1) && carried)
    ⟨mag, decide (0 < rem) || sticky, tiny, decide (f.infBits ≤ mag)⟩

/-- `round_fp` of 03 R62 on a magnitude: the pattern and the flags of 03 R57, with the result flush of 03 R58. -/
def roundFp (f : Fmt) (mode : RMode) (ftz : Bool) (s : Bool) (m : Nat) (e : Int) (sticky : Bool) : W32 × FpFlags :=
  let r := roundMag f mode s m e sticky
  if r.tooBig then (fpPattern f s (overflowMag f mode s), flagOF ||| flagNX)
  else if ftz && f == .f32 && r.tiny && (decide (0 < m) || sticky) then (fpZero f s, flagUF ||| flagNX)
  else (fpPattern f s r.mag,
    (if r.inexact then flagNX else 0) ||| (if r.tiny && r.inexact then flagUF else 0))

/-- The sum of two finite values as a signed mantissa and an exponent. -/
def addExact (s₁ : Bool) (m₁ : Nat) (e₁ : Int) (s₂ : Bool) (m₂ : Nat) (e₂ : Int) : Int × Int :=
  let e := min e₁ e₂
  let a : Int := (m₁ * 2 ^ (e₁ - e).toNat : Nat)
  let b : Int := (m₂ * 2 ^ (e₂ - e).toNat : Nat)
  ((if s₁ then -a else a) + (if s₂ then -b else b), e)

/-- NaN choice of 03 R59: the first NaN in operand order, quieted. -/
def firstNan (f : Fmt) : List W32 → Option W32
  | [] => none
  | w :: ws => if isNan f w then some (quiet f w) else firstNan f ws

/-- NV for a signalling operand (03 R59). -/
def snanFlag (f : Fmt) (ws : List W32) : FpFlags := if ws.any (isSnan f) then flagNV else 0

/-- `nan_result` with the flags: the NaN of 03 R59 when an operand is one, else `k`. -/
def withNan (f : Fmt) (ws : List W32) (k : W32 × FpFlags) : W32 × FpFlags :=
  match firstNan f ws with
  | some w => (w, snanFlag f ws)
  | none => k

/-- The canonical NaN with NV: an invalid operation (03 R59). -/
def invalidOp (f : Fmt) : W32 × FpFlags := (f.qnan, flagNV)

/-- The rounded sum of two values that are no NaN (03 R57, R59). -/
def addVals (f : Fmt) (mode : RMode) (ftz : Bool) (x y : FpVal) : W32 × FpFlags :=
  match x, y with
  | .inf s, .inf t => if s = t then (fpInf f s, 0) else invalidOp f
  | .inf s, _ => (fpInf f s, 0)
  | _, .inf t => (fpInf f t, 0)
  | .fin s₁ m₁ e₁, .fin s₂ m₂ e₂ =>
    let r := addExact s₁ m₁ e₁ s₂ m₂ e₂
    if r.1 = 0 then
      if s₁ = s₂ then (fpZero f s₁, 0) else (fpZero f (mode == .rd), 0)
    else roundFp f mode ftz (decide (r.1 < 0)) r.1.natAbs r.2 false
  | _, _ => invalidOp f

/-- FADD (04 R85), sources already flushed as the instruction says. -/
def fpAdd (f : Fmt) (mode : RMode) (ftz : Bool) (a b : W32) : W32 × FpFlags :=
  withNan f [a, b] (addVals f mode ftz (fpValue f a) (fpValue f b))

/-- The pattern with its sign bit inverted. -/
def fpNeg (f : Fmt) (w : W32) : W32 := w ^^^ BitVec.ofNat 32 (2 ^ (f.width - 1))

/-- The value with its sign inverted. -/
def FpVal.neg : FpVal → FpVal
  | .nan => .nan
  | .inf s => .inf !s
  | .fin s m e => .fin (!s) m e

/-- FSUB (04 R85). -/
def fpSub (f : Fmt) (mode : RMode) (ftz : Bool) (a b : W32) : W32 × FpFlags :=
  withNan f [a, b] (addVals f mode ftz (fpValue f a) (fpValue f b).neg)

/-- The exact product of two values, or none for 0 times infinity (03 R59). -/
def mulVals : FpVal → FpVal → Option FpVal
  | .fin s₁ m₁ e₁, .fin s₂ m₂ e₂ => some (.fin (s₁ != s₂) (m₁ * m₂) (e₁ + e₂))
  | .inf s, .inf t => some (.inf (s != t))
  | .inf s, .fin t m _ => if m = 0 then none else some (.inf (s != t))
  | .fin s m _, .inf t => if m = 0 then none else some (.inf (s != t))
  | _, _ => none

/-- Rounding of a value (03 R57); a zero keeps its sign. -/
def roundVal (f : Fmt) (mode : RMode) (ftz : Bool) : FpVal → W32 × FpFlags
  | .nan => invalidOp f
  | .inf s => (fpInf f s, 0)
  | .fin s m e => if m = 0 then (fpZero f s, 0) else roundFp f mode ftz s m e false

/-- FMUL (04 R85). -/
def fpMul (f : Fmt) (mode : RMode) (ftz : Bool) (a b : W32) : W32 × FpFlags :=
  withNan f [a, b]
    (match mulVals (fpValue f a) (fpValue f b) with
    | none => invalidOp f
    | some v => roundVal f mode ftz v)

/-- FFMA (04 R85), rounded once; 0 times infinity with a NaN addend gives the addend quieted and NV (03 R59). -/
def fpFma (f : Fmt) (mode : RMode) (ftz : Bool) (a b c : W32) : W32 × FpFlags :=
  let p := mulVals (fpValue f a) (fpValue f b)
  match firstNan f [a, b, c] with
  | some w =>
    let nv := if !isNan f a && !isNan f b && p.isNone then flagNV else 0
    (w, snanFlag f [a, b, c] ||| nv)
  | none =>
    match p with
    | none => invalidOp f
    | some v => addVals f mode ftz v (fpValue f c)

/-- FDIV (04 R85): correctly rounded; DZ for a finite non-zero value over a zero. -/
def fpDiv (f : Fmt) (mode : RMode) (ftz : Bool) (a b : W32) : W32 × FpFlags :=
  withNan f [a, b]
    (match fpValue f a, fpValue f b with
    | .inf _, .inf _ => invalidOp f
    | .inf s, .fin t _ _ => (fpInf f (s != t), 0)
    | .fin s _ _, .inf t => (fpZero f (s != t), 0)
    | .fin s m₁ e₁, .fin t m₂ e₂ =>
      if m₂ = 0 then
        if m₁ = 0 then invalidOp f else (fpInf f (s != t), flagDZ)
      else if m₁ = 0 then (fpZero f (s != t), 0)
      else
        let n := m₁ * 2 ^ 64
        roundFp f mode ftz (s != t) (n / m₂) (e₁ - e₂ - 64) (decide (0 < n % m₂))
    | _, _ => invalidOp f)

/-- The integer square root, bit by bit from bit `n` down. -/
def isqrtBits (x : Nat) : Nat → Nat → Nat
  | 0, r => r
  | n + 1, r => isqrtBits x n (if (r + 2 ^ n) * (r + 2 ^ n) ≤ x then r + 2 ^ n else r)

/-- The integer square root. -/
def isqrt (x : Nat) : Nat := isqrtBits x (x.log2 / 2 + 1) 0

/-- FSQRT (04 R85). -/
def fpSqrt (f : Fmt) (mode : RMode) (ftz : Bool) (a : W32) : W32 × FpFlags :=
  withNan f [a]
    (match fpValue f a with
    | .inf s => if s then invalidOp f else (fpInf f false, 0)
    | .fin s m e =>
      if m = 0 then (fpZero f s, 0)
      else if s then invalidOp f
      else
        let odd := e % 2 = 1
        let x := (if odd then 2 * m else m) * 2 ^ 96
        let r := isqrt x
        roundFp f mode ftz false r ((if odd then e - 1 else e) / 2 - 48) (decide (r * r < x))
    | .nan => invalidOp f)

/-- FRCP (04 R88) before the special-function flag rule. -/
def fpRcp (f : Fmt) (ftz : Bool) (a : W32) : W32 × FpFlags :=
  let one := fpPattern f false (f.bias * 2 ^ f.fbits)
  fpDiv f .rn ftz one a

/-- The order of non-NaN patterns with minus zero below plus zero (04 R86): the sign and magnitude as an integer. -/
def fpOrder (f : Fmt) (w : W32) : Int :=
  if fpSign f w then -(fpMag f w : Int) - 1 else (fpMag f w : Int)

/-- FMIN and FMAX (04 R86): one of the operands, never rounded. -/
def fpMinMax (f : Fmt) (wantMax : Bool) (a b : W32) : W32 × FpFlags :=
  let nv := snanFlag f [a, b]
  if isNan f a then (if isNan f b then (quiet f a, nv) else (b, nv))
  else if isNan f b then (a, nv)
  else if wantMax then ((if fpOrder f a < fpOrder f b then b else a), nv)
  else ((if fpOrder f b < fpOrder f a then b else a), nv)

/-- The order of two non-NaN values, zeros equal (04 R87). -/
def fpKey (f : Fmt) (w : W32) : Int :=
  if fpSign f w then -(fpMag f w : Int) else (fpMag f w : Int)

/-- The FCMP condition with its NV (04 R87), on F32 operands already flushed. -/
def fpCompare (code : Nat) (a b : W32) : Bool × FpFlags :=
  let un := isNan .f32 a || isNan .f32 b
  let sn := snanFlag .f32 [a, b]
  let qn := if un then flagNV else 0
  let x := fpKey .f32 a
  let y := fpKey .f32 b
  match code with
  | 0 => (!un && decide (x = y), sn)
  | 1 => (un || decide (x ≠ y), sn)
  | 2 => (!un && decide (x < y), qn)
  | 3 => (!un && decide (x ≤ y), qn)
  | 4 => (!un && decide (y < x), qn)
  | 5 => (!un && decide (y ≤ x), qn)
  | 6 => (!un, sn)
  | _ => (un, sn)

/-- NaN conversion between formats through the F32 fraction (03 R61). -/
def convertNan (src dst : Fmt) (w : W32) : W32 :=
  let s := fpSign src w
  let fr32 := (w.toNat % 2 ^ src.fbits) * 2 ^ (23 - src.fbits)
  let fr := fr32 / 2 ^ (23 - dst.fbits)
  quiet dst (fpPattern dst s (dst.infBits + fr))

/-- Conversion between floating-point formats (03 R61, 04 R91): rounded once; equal formats deliver the value. -/
def convertFp (src dst : Fmt) (mode : RMode) (ftz : Bool) (w : W32) : W32 × FpFlags :=
  if isNan src w then (convertNan src dst w, snanFlag src [w])
  else roundVal dst mode ftz (fpValue src w)

/-- Rounding a finite value to an integer by a mode, with whether that changed it (03 R61). -/
def roundToInt (mode : RMode) (s : Bool) (m : Nat) (e : Int) : Int × Bool :=
  if 0 ≤ e then
    let n : Int := (m * 2 ^ e.toNat : Nat)
    (if s then -n else n, false)
  else
    let sh := (-e).toNat
    let hi := m / 2 ^ sh
    let rem := m % 2 ^ sh
    let n : Int := (hi + if roundsUp mode s (hi % 2 == 1) rem sh false then 1 else 0 : Nat)
    (if s then -n else n, decide (0 < rem))

/-- Floating point to an integer type of width `n` (03 R61): saturating with NV, NX if the value changed. -/
def fpToInt (src : Fmt) (mode : RMode) (n : Nat) (nat : Bool) (w : W32) : Int × FpFlags :=
  let lo : Int := if nat then 0 else -(2 ^ (n - 1) : Nat)
  let hi : Int := if nat then (2 ^ n : Nat) - 1 else (2 ^ (n - 1) : Nat) - 1
  match fpValue src w with
  | .nan => (0, flagNV)
  | .inf s => (if s then lo else hi, flagNV)
  | .fin s m e =>
    let r := roundToInt mode s m e
    if r.1 < lo then (lo, flagNV)
    else if hi < r.1 then (hi, flagNV)
    else (r.1, if r.2 then flagNX else 0)

/-- An integer rounded to a format (03 R61). -/
def intToFp (dst : Fmt) (mode : RMode) (ftz : Bool) (x : Int) : W32 × FpFlags :=
  roundVal dst mode ftz (.fin (decide (x < 0)) x.natAbs 0)

/-- FRND (04 R92): an integral value in the same format; only a signalling NaN raises NV. -/
def fpRound (f : Fmt) (mode : RMode) (w : W32) : W32 × FpFlags :=
  match fpValue f w with
  | .nan => (quiet f w, snanFlag f [w])
  | .inf _ => (w, 0)
  | .fin s m e =>
    if m = 0 then (w, 0)
    else
      let r := roundToInt mode s m e
      ((roundVal f .rz false (.fin s r.1.natAbs 0)).1, 0)

/-- The class mask of FCLASS (04 R95): ten bits. -/
def fpClass (f : Fmt) (w : W32) : Nat :=
  let s := fpSign f w
  if isSnan f w then 2 ^ 8
  else if isNan f w then 2 ^ 9
  else if isInf f w then (if s then 2 ^ 0 else 2 ^ 7)
  else if fpMag f w = 0 then (if s then 2 ^ 3 else 2 ^ 4)
  else if isSubnormal f w then (if s then 2 ^ 2 else 2 ^ 5)
  else (if s then 2 ^ 1 else 2 ^ 6)

/-- `key32` of 03 R62. -/
def key32 (w : W32) : Nat := (if w.getLsbD 31 then ~~~w else w ^^^ 0x80000000#32).toNat

/-- The low and the high half-word of a packed pair (03 R54). -/
def loHalf (w : W32) : W32 := w &&& 0xFFFF#32
def hiHalf (w : W32) : W32 := w >>> 16
def packHalves (lo hi : W32) : W32 := (hi <<< 16) ||| (lo &&& 0xFFFF#32)

/-- An operation on one value, or on each half of a packed pair with the flags ORed (03 R60, 04 R85). -/
def onHalves₁ (packed : Bool) (op : W32 → W32 × FpFlags) (a : W32) : W32 × FpFlags :=
  if packed then
    let l := op (loHalf a)
    let h := op (hiHalf a)
    (packHalves l.1 h.1, l.2 ||| h.2)
  else op a

/-- The same for two operands. -/
def onHalves₂ (packed : Bool) (op : W32 → W32 → W32 × FpFlags) (a b : W32) : W32 × FpFlags :=
  if packed then
    let l := op (loHalf a) (loHalf b)
    let h := op (hiHalf a) (hiHalf b)
    (packHalves l.1 h.1, l.2 ||| h.2)
  else op a b

/-- The same for three operands. -/
def onHalves₃ (packed : Bool) (op : W32 → W32 → W32 → W32 × FpFlags) (a b c : W32) : W32 × FpFlags :=
  if packed then
    let l := op (loHalf a) (loHalf b) (loHalf c)
    let h := op (hiHalf a) (hiHalf b) (hiHalf c)
    (packHalves l.1 h.1, l.2 ||| h.2)
  else op a b c

end Sys2Proof.Machine
end

