-- ==== Sys2Proof/Machine/FpSpecial.lean ====
section
/-! DEFINITION. The special functions of 04 R88: correctly rounded from an enclosure of the exact value, computed in
fixed point with `P` fraction bits. An enclosure is a pair of integers, both in units of 2^-P, with the exact value
between them; a result stands where both ends round alike (log 4). -/

namespace Sys2Proof.Machine

/-- The eight special functions of 04 R88. -/
inductive SpFun
  | rcp
  | rsq
  | ex2
  | lg2
  | sin
  | cos
  | tanh
  | erf
deriving DecidableEq, Repr

/-- An enclosure in units of 2^-P. -/
structure Encl where
  lo : Int
  hi : Int
deriving DecidableEq, Repr

namespace Encl

def exact (x : Int) : Encl := ⟨x, x⟩
def widen (x : Encl) (n : Int) : Encl := ⟨x.lo - n, x.hi + n⟩
def add (x y : Encl) : Encl := ⟨x.lo + y.lo, x.hi + y.hi⟩
def sub (x y : Encl) : Encl := ⟨x.lo - y.hi, x.hi - y.lo⟩
def min4 (a b c d : Int) : Int := min (min a b) (min c d)
def max4 (a b c d : Int) : Int := max (max a b) (max c d)
/-- The product, rounded outward to units of 2^-P. -/
def mul (p : Nat) (x y : Encl) : Encl :=
  let a := x.lo * y.lo
  let b := x.lo * y.hi
  let c := x.hi * y.lo
  let d := x.hi * y.hi
  ⟨min4 a b c d / (2 ^ p : Nat), max4 a b c d / (2 ^ p : Nat) + 1⟩
/-- The quotient by a positive enclosure, rounded outward. -/
def div (p : Nat) (x y : Encl) : Encl :=
  let q (n d : Int) : Int := n * (2 ^ p : Nat) / d
  ⟨min4 (q x.lo y.lo) (q x.lo y.hi) (q x.hi y.lo) (q x.hi y.hi),
    max4 (q x.lo y.lo) (q x.lo y.hi) (q x.hi y.lo) (q x.hi y.hi) + 1⟩
/-- The quotient by a positive number. -/
def divNat (x : Encl) (n : Nat) : Encl := ⟨x.lo / n, x.hi / n + 1⟩
def scale (x : Encl) (k : Int) : Encl := if 0 ≤ k then ⟨x.lo * k, x.hi * k⟩ else ⟨x.hi * k, x.lo * k⟩

end Encl

/-- The sum of terms `t, step 1 t, step 2 …`, `n` of them. -/
def sumTerms (step : Nat → Encl → Encl) : Nat → Nat → Encl → Encl
  | 0, _, _ => Encl.exact 0
  | n + 1, k, t => Encl.add t (sumTerms step n (k + 1) (step k t))

/-- `atanh(1/n)` for n at least 2, with `p` bits: the series of 1/((2k+1) n^(2k+1)), the tail below 2 units. -/
def atanhInv (p n : Nat) : Nat → Nat → Int → Int
  | 0, _, _ => 0
  | fuel + 1, k, pw => pw / (2 * k + 1 : Nat) + atanhInv p n fuel (k + 1) (pw / (n * n : Nat))

/-- `atan(1/n)` by its alternating series. -/
def atanInv (p n : Nat) : Nat → Nat → Int → Int
  | 0, _, _ => 0
  | fuel + 1, k, pw => pw / (2 * k + 1 : Nat) - atanInv p n fuel (k + 1) (pw / (n * n : Nat))

/-- ln 2 = 2 atanh(1/3), enclosed. -/
def ln2Encl (p : Nat) : Encl :=
  let q := p + 16
  let v := 2 * atanhInv q 3 (q / 3 + 4) 0 ((2 ^ q : Nat) / 3)
  (Encl.exact (v / 65536)).widen 2

/-- pi = 16 atan(1/5) - 4 atan(1/239), enclosed. -/
def piEncl (p : Nat) : Encl :=
  let q := p + 16
  let v := 16 * atanInv q 5 (q / 4 + 4) 0 ((2 ^ q : Nat) / 5) - 4 * atanInv q 239 (q / 15 + 4) 0 ((2 ^ q : Nat) / 239)
  (Encl.exact (v / 65536)).widen 2

/-- exp of an enclosure within [-1, 1], by its series; the tail after `p` terms is below one unit. -/
def expEncl (p : Nat) (x : Encl) : Encl :=
  (sumTerms (fun k t => (Encl.mul p t x).divNat (k + 1)) (p / 4 + 16) 0 (Encl.exact (2 ^ p : Nat))).widen 2

/-- sin of an enclosure within [-1, 1]. -/
def sinEncl (p : Nat) (x : Encl) : Encl :=
  let x2 := Encl.mul p x x
  (sumTerms (fun k t => ((Encl.mul p t x2).divNat ((2 * k + 2) * (2 * k + 3))).scale (-1)) (p / 8 + 12) 0 x).widen 2

/-- cos of an enclosure within [-1, 1]. -/
def cosEncl (p : Nat) (x : Encl) : Encl :=
  let x2 := Encl.mul p x x
  (sumTerms (fun k t => ((Encl.mul p t x2).divNat ((2 * k + 1) * (2 * k + 2))).scale (-1)) (p / 8 + 12) 0
    (Encl.exact (2 ^ p : Nat))).widen 2

/-- The value `(-1)^s * m * 2^e` in units of 2^-p, enclosed. -/
def fixed (p : Nat) (s : Bool) (m : Nat) (e : Int) : Encl :=
  let sh := e + p
  let v : Int := if 0 ≤ sh then (m * 2 ^ sh.toNat : Nat) else (m / 2 ^ (-sh).toNat : Nat)
  let x : Encl := if 0 ≤ sh ∨ m % 2 ^ (-sh).toNat = 0 then ⟨v, v⟩ else ⟨v, v + 1⟩
  if s then ⟨-x.hi, -x.lo⟩ else x

/-- A positive enclosure with an extra power of two: the exact value is between lo and hi times 2^(ex - p). -/
structure ScaledEncl where
  s : Bool
  v : Encl
  ex : Int
deriving DecidableEq, Repr

/-- 2^a for a finite: the integer part as the power of two, 2^f = exp(f ln 2) for the fraction f. -/
def ex2Encl (p : Nat) (s : Bool) (m : Nat) (e : Int) : ScaledEncl :=
  let x := fixed p s m e
  let n := x.lo / (2 ^ p : Nat)
  let f : Encl := ⟨x.lo - n * (2 ^ p : Nat), x.hi - n * (2 ^ p : Nat)⟩
  ⟨false, expEncl p (Encl.mul p f (ln2Encl p)), n⟩

/-- log2 of a positive value: the exponent plus 2 atanh((x-1)/(x+1)) / ln 2. -/
def lg2Encl (p : Nat) (m : Nat) (e : Int) : ScaledEncl :=
  let l := m.log2
  let one : Int := (2 ^ p : Nat)
  let x := fixed p false m (-(l : Int))
  let z := Encl.div p (Encl.sub x (.exact one)) (Encl.add x (.exact one))
  let z2 := Encl.mul p z z
  let tot := atanhSer p z z2 (p / 3 + 8) 0
  let lnx := (tot.scale 2).widen 2
  let v := Encl.add (.exact (((l : Int) + e) * one)) (Encl.div p lnx (ln2Encl p))
  if v.hi ≤ 0 then ⟨true, v.scale (-1), 0⟩ else ⟨false, v, 0⟩
where
  /-- The series of z^(2k+1)/(2k+1). -/
  atanhSer (p : Nat) (t z2 : Encl) : Nat → Nat → Encl
    | 0, _ => Encl.exact 0
    | n + 1, k => Encl.add (t.divNat (2 * k + 1)) (atanhSer p (Encl.mul p t z2) z2 n (k + 1))

/-- sin or cos of a finite operand: reduction by multiples of pi/2 with enough bits of pi for every F32 operand. -/
def trigEncl (p : Nat) (wantCos s : Bool) (m : Nat) (e : Int) : ScaledEncl :=
  let big := p + 160
  let x := fixed big s m e
  let half : Encl := (piEncl big).divNat 2
  let n := (2 * x.lo + half.lo) / (2 * half.lo)
  let r := Encl.sub x (half.scale n)
  let rp : Encl := ⟨r.lo / (2 ^ 160 : Nat), r.hi / (2 ^ 160 : Nat) + 1⟩
  let k := (n + if wantCos then 1 else 0) % 4
  let v := if k % 2 = 0 then sinEncl p rp else cosEncl p rp
  let neg := k = 2 ∨ k = 3
  let w := if neg then v.scale (-1) else v
  if w.hi ≤ 0 then ⟨true, w.scale (-1), 0⟩ else ⟨false, w, 0⟩

/-- tanh of a positive operand below 32: (exp(2x) - 1) / (exp(2x) + 1), with exp by halving the argument six times. -/
def tanhEncl (p : Nat) (m : Nat) (e : Int) : ScaledEncl :=
  let x := fixed p false m (e + 1)
  let y := expEncl p (x.divNat 64)
  let sq (z : Encl) : Encl := Encl.mul p z z
  let y2 := sq (sq (sq (sq (sq (sq y)))))
  let one : Int := (2 ^ p : Nat)
  ⟨false, Encl.div p (Encl.sub y2 (.exact one)) (Encl.add y2 (.exact one)), 0⟩

/-- erf of a positive operand below 4: 2/sqrt(pi) exp(-x^2) times the sum of 2^n x^(2n+1) / (2n+1)!!. -/
def erfEncl (p : Nat) (m : Nat) (e : Int) : ScaledEncl :=
  let x := fixed p false m e
  let x2 := Encl.mul p x x
  let ser := (sumTerms (fun k t => ((Encl.mul p t x2).scale 2).divNat (2 * k + 3)) (p / 2 + 80) 0 x).widen 2
  let sq (z : Encl) : Encl := Encl.mul p z z
  let en := sq (sq (sq (sq (expEncl p ((x2.divNat 16).scale (-1))))))
  let pi := piEncl p
  let root : Encl := ⟨isqrt (pi.lo.toNat * 2 ^ p), isqrt (pi.hi.toNat * 2 ^ p) + 1⟩
  ⟨false, (Encl.div p (Encl.mul p en ser) root).scale 2, 0⟩

/-- An enclosure's lower end as a rounding of its magnitude, inexact. -/
def roundEnd (f : Fmt) (s : Bool) (v ex : Int) (p : Nat) : Rounded := roundMag f .rn s v.toNat (ex - p) true

/-- The rounded result of a scaled enclosure, or none where its ends round apart. -/
def roundEncl (f : Fmt) (p : Nat) (x : ScaledEncl) : Option Rounded :=
  let a := roundEnd f x.s x.v.lo x.ex p
  let b := roundEnd f x.s x.v.hi x.ex p
  if 0 < x.v.lo ∧ a = b then some a else none

/-- The special-function flag rule of 04 R88 on a rounded inexact or exact result. -/
def specialResult (f : Fmt) (ftz s : Bool) (r : Rounded) : W32 × FpFlags :=
  if r.tooBig then (fpInf f s, flagOF)
  else if ftz && f == .f32 && r.tiny then (fpZero f s, flagUF)
  else (fpPattern f s r.mag, if r.tiny && r.inexact then flagUF else 0)

/-- The enclosure of a function at a finite non-zero operand, none where a side case of `specialFinite` covers it. -/
def enclOf (fn : SpFun) (p : Nat) (s : Bool) (m : Nat) (e : Int) : ScaledEncl :=
  match fn with
  | .ex2 => ex2Encl p s m e
  | .lg2 => lg2Encl p m e
  | .sin => trigEncl p false s m e
  | .cos => trigEncl p true s m e
  | .tanh => { tanhEncl p m e with s := s }
  | .erf => { erfEncl p m e with s := s }
  | _ => ⟨false, .exact 0, 0⟩

/-- Number of the function in `Config.specialTie`. -/
def SpFun.code : SpFun → BitVec 4
  | .rcp => 0
  | .rsq => 1
  | .ex2 => 2
  | .lg2 => 3
  | .sin => 4
  | .cos => 5
  | .tanh => 6
  | .erf => 7

/-- Rounding by the first of two precisions that decides it; where neither does, an open choice of the two
neighbours (log 4). -/
def decideRound (fn : SpFun) (f : Fmt) (s : Bool) (m : Nat) (e : Int) : Bool × Rounded :=
  let x := enclOf fn 320 s m e
  match roundEncl f 320 x with
  | some r => (x.s, r)
  | none =>
    let y := enclOf fn 768 s m e
    match roundEncl f 768 y with
    | some r => (y.s, r)
    | none =>
      if Config.specialTie fn.code m e.toNat then (y.s, roundEnd f y.s y.v.hi y.ex 768)
      else (y.s, roundEnd f y.s y.v.lo y.ex 768)

/-- An exact result `(-1)^s * m * 2^e` rounded under the special-function rule. -/
def exactSpecial (f : Fmt) (ftz s : Bool) (m : Nat) (e : Int) : W32 × FpFlags :=
  if m = 0 then (fpZero f s, 0) else specialResult f ftz s (roundMag f .rn s m e false)

/-- The correctly rounded reciprocal square root of a positive value, exact remainder known (04 R88). -/
def rsqRound (f : Fmt) (ftz : Bool) (m : Nat) (e : Int) : W32 × FpFlags :=
  let odd := e % 2 = 1
  let mm := if odd then 2 * m else m
  let ee := (if odd then e - 1 else e) / 2
  let n := 2 ^ 200
  let r := isqrt (n / mm)
  specialResult f ftz false (roundMag f .rn false r (-ee - 100) (decide (r * r * mm < n)))

/-- The value `m * 2^e` as an integer, when it is one. -/
def asInteger (s : Bool) (m : Nat) (e : Int) : Option Int :=
  let r := roundToInt .rz s m e
  if r.2 then none else some r.1

/-- The result at a finite non-zero operand (04 R88). -/
def specialFinite (fn : SpFun) (f : Fmt) (ftz s : Bool) (m : Nat) (e : Int) : W32 × FpFlags :=
  let nearOne : W32 × FpFlags := exactSpecial f ftz s 1 0
  match fn with
  | .rcp =>
    let n := 2 ^ 96
    specialResult f ftz s (roundMag f .rn s (n / m) (-e - 96) (decide (0 < n % m)))
  | .rsq => if s then invalidOp f else rsqRound f ftz m e
  | .ex2 =>
    if 11 ≤ log2Of m e then
      -- |a| is at least 2048: far outside every format's range
      if s then specialResult f ftz false (roundMag f .rn false 1 (-2048) true)
      else specialResult f ftz false (roundMag f .rn false 1 2048 true)
    else
      match asInteger s m e with
      | some k => exactSpecial f ftz false 1 k
      | none =>
        let r := decideRound .ex2 f s m e
        specialResult f ftz r.1 r.2
  | .lg2 =>
    if s then invalidOp f
    else if m = 2 ^ m.log2 then
      let k := log2Of m e
      exactSpecial f ftz (decide (k < 0)) k.natAbs 0
    else
      let r := decideRound .lg2 f s m e
      specialResult f ftz r.1 r.2
  | .sin =>
    let r := decideRound .sin f s m e
    specialResult f ftz r.1 r.2
  | .cos =>
    let r := decideRound .cos f s m e
    specialResult f ftz r.1 r.2
  | .tanh =>
    -- from 16 on the result is nearer to 1 than to its neighbour in every format
    if 4 ≤ log2Of m e then nearOne
    else
      let r := decideRound .tanh f s m e
      specialResult f ftz r.1 r.2
  | .erf =>
    -- erfc(4) is below 2^-25, so from 4 on the result rounds to 1 in every format
    if 2 ≤ log2Of m e then nearOne
    else
      let r := decideRound .erf f s m e
      specialResult f ftz r.1 r.2

/-- A special function on one operand already read through flush_src: the table of special operands of 04 R88, then
the rounded value. -/
def specialFn (fn : SpFun) (f : Fmt) (ftz : Bool) (a : W32) : W32 × FpFlags :=
  let one := (roundVal f .rn false (.fin false 1 0)).1
  withNan f [a]
    (match fpValue f a with
    | .nan => invalidOp f
    | .inf s =>
      match fn with
      | .rcp => (fpZero f s, 0)
      | .rsq => if s then invalidOp f else (fpZero f false, 0)
      | .ex2 => if s then (fpZero f false, 0) else (fpInf f false, 0)
      | .lg2 => if s then invalidOp f else (fpInf f false, 0)
      | .sin => invalidOp f
      | .cos => invalidOp f
      | .tanh => (if s then fpNeg f one else one, 0)
      | .erf => (if s then fpNeg f one else one, 0)
    | .fin s m e =>
      if m = 0 then
        match fn with
        | .rcp => (fpInf f s, flagDZ)
        | .rsq => (fpInf f s, flagDZ)
        | .ex2 => (one, 0)
        | .lg2 => (fpInf f true, flagDZ)
        | .sin => (fpZero f s, 0)
        | .cos => (one, 0)
        | .tanh => (fpZero f s, 0)
        | .erf => (fpZero f s, 0)
      else specialFinite fn f ftz s m e)

end Sys2Proof.Machine
end

