-- ==== Sys2Proof/Machine/Checks.lean ====
section
/-! DEFINITION. The checks of a word (02 R26-R39, R46-R49): for every assigned major opcode and function what each
operand field names, which MOD values are defined, which operand values are out of range, whether the instruction is
privileged, and the ILLEGAL sub-cause that a word reports. The checks depend on the word alone. -/

namespace Sys2Proof.Machine

/-- What an operand field names (02 R28, R31, 04 R72). -/
inductive Kind
  /-- Not used: res0. -/
  | unused
  /-- Bits of an immediate: no check. -/
  | free
  /-- The first of `n` vector registers, `n` also the alignment; `src` when it is a source, which may be held. -/
  | vec (n : Nat) (src : Bool)
  | xreg
  /-- An x-register pair, even. -/
  | xpair
  | pred
  | bar
  | conv
  | strm
  | tile
  /-- A control field whose defined bits are those of `mask`. -/
  | ctl (mask : BitVec 10)
  /-- The M-class base and index, and the plane-set base of 09 R195. -/
  | base
  | index
  | planeBase
deriving DecidableEq, Repr

/-- The operand shape of an instruction word. -/
structure Shape where
  d : Kind := .unused
  a : Kind := .unused
  b : Kind := .unused
  c : Kind := .unused
  /-- The sub-causes that the MOD value and the operand values raise. -/
  subs : List Nat := []
  /-- M class: bit 2 is AM; `am` when the entry defines it. -/
  mclass : Bool := false
  am : Bool := false
  /-- The hold bits HA, HB and HC that the entry or its class calls res0, with no sub-cause of its own (02 R29, R46). -/
  resHolds : Bool × Bool × Bool := (false, false, false)
  /-- The PRIV sub-cause in unprivileged code, 0 for none (02 R47, 01 R12). -/
  priv : Nat := 0
  /-- Predicates read or written beside the guard. -/
  preds : List Nat := []
  /-- Vector registers written without a field (CALL, 04 R97). -/
  implied : List Nat := []
  /-- An x register named inside a control field (10 R220). -/
  xctl : List Nat := []
deriving DecidableEq, Repr

/-- `sub` when the condition holds. -/
def subIf (c : Bool) (sub : Nat) : List Nat := if c then [sub] else []

/-- MOD of chapter 04 (R71): an undefined bit 7 or 6 raises 0x07, an undefined bit 5 raises 0x03. -/
def modBits (x n o : Bool) (f : Fields) : List Nat :=
  subIf (f.isX && !x) 7 ++ subIf (f.isN && !n) 7 ++ subIf (f.opt && !o) 3

/-- MOD as a whole: a value not listed raises 0x07 (02 R30). -/
def modIn (l : List Nat) (f : Fields) : List Nat := subIf (!(l.contains f.mod.toNat)) 7

/-- MOD that the entry calls res0: non-zero raises 0x03. -/
def modRes0 (f : Fields) : List Nat := subIf (f.mod != 0) 3

/-- The low bits of a field, as a number. -/
def lowBits (x : BitVec 10) (lo len : Nat) : Nat := bitField x.toNat lo len

/-- A data operand: an x register in the X-form, else a vector register (02 R30). -/
def dataKind (f : Fields) (src : Bool) : Kind := if f.isX then .xreg else .vec 1 src

/-- Registers that an M-class access of a size moves: MOD 000 to 100 (02 R31). -/
def sizeRegs (m : Nat) : Nat := if m = 3 then 2 else if m = 4 then 4 else 1

/-- OP 0x00 (04 R98-R100, 09 R205, R207, 15 R318, R323, R338). DEDUCED (log 24): which operands count under an undefined MOD. -/
def systemShape (fn : Nat) (f : Fields) : Shape :=
  let cr := f.imm.toNat
  let crKnown := decide (cr < 10) || (decide (0x40 ≤ cr) && decide (cr < 0x80))
  let crKind (src : Bool) : Kind :=
    if f.mod = 0 then .vec 2 src else if f.mod = 1 then .vec 1 src else if f.mod = 4 then .xreg else .free
  let crPriv := if 5 ≤ cr ∧ cr < 10 then 2 else 0
  match fn with
  | 1 => { b := .free, c := .free, subs := modRes0 f ++ subIf (decide (128 ≤ cr)) 3 }
  | 2 => { b := .free, c := .free, subs := modRes0 f ++ subIf (decide (128 ≤ cr)) 3 }
  | 3 => { subs := modIn [0, 1] f, priv := 1 }
  | 5 => { d := crKind false, b := .free, c := .free, priv := crPriv,
           subs := modIn [0, 1, 4] f ++ subIf (!crKnown) 0xF }
  | 6 => { a := crKind true, b := .free, c := .free, priv := crPriv,
           subs := modIn [0, 1, 4] f ++
             subIf (!crKnown || cr == 0 || cr == 3 || cr == 5 || cr == 6 || cr == 7) 0xF }
  | 7 => { d := if f.mod = 4 then .xreg else .vec 1 false, b := .free, c := .free,
           subs := modIn [0, 4] f ++ subIf (decide (11 < cr)) 0xF }
  | 8 => if f.mod = 1 then { a := .base, b := .index, c := .free, mclass := true }
         else { mclass := true, subs := modIn [0, 2] f }
  | 9 => if f.mod = 0 then { a := .base, b := .index, c := .free, mclass := true, priv := 1 }
         else { mclass := true, priv := 1, subs := modIn [1, 2] f }
  | 10 => { d := .xreg, a := .xreg, b := .xreg, subs := modIn [0] f, priv := 1 }
  | 11 => { d := .xreg, subs := modIn [0] f, priv := 1 }
  | _ => { subs := modRes0 f }

/-- OP 0x01 (04 R73, R74). -/
def integerShape (fn : Nat) (f : Fields) : Shape :=
  let d := dataKind f false
  let s := dataKind f true
  match fn with
  | 4 => { d := d, a := s, b := s, c := s, subs := modBits true true false f }
  | 5 => { d := .vec 2 false, a := .vec 1 true, b := .vec 1 true, c := .vec 2 true,
           subs := modBits false true false f }
  | 6 => { d := .vec 2 false, a := .vec 2 true, b := .vec 2 true, subs := modBits false true false f }
  | 7 => { d := .vec 2 false, a := .vec 2 true, b := .vec 2 true, subs := modBits false true false f }
  | 10 => { d := d, a := s, subs := modBits true false true f }
  | 11 => { d := d, a := s, subs := modBits true false true f }
  | _ => { d := d, a := s, b := s, subs := modBits true true (decide (fn < 2)) f }

/-- OP 0x02 (04 R75-R78). -/
def logicShape (fn : Nat) (f : Fields) : Shape :=
  let d := dataKind f false
  let s := dataKind f true
  match fn with
  | 7 => { d := d, a := s, b := s, c := s, subs := modBits true false true f }
  | 8 => { d := d, a := s, b := s, subs := modBits true true false f }
  | 9 => { d := d, a := s, b := s, c := s, subs := modBits true false false f }
  | 10 => { d := d, a := s, subs := modBits true false false f }
  | 11 => { d := d, a := s, subs := modBits true false false f }
  | 12 => { d := d, a := s, subs := modBits true false false f }
  | 13 => { d := .vec 1 false, a := .vec 1 true, b := .vec 1 true, c := .vec 1 true,
            subs := modBits false false false f }
  | _ => { d := d, a := s, b := s, subs := modBits true false false f }

/-- The predicates below 7 whose bits are set in a mask. -/
def maskPreds (m : Nat) : List Nat := (List.range 7).filter fun i => bitAt m i

/-- OP 0x03 (04 R79-R81). -/
def compareShape (fn : Nat) (f : Fields) : Shape :=
  let s := dataKind f true
  match fn with
  | 0 => { d := .pred, a := s, b := s, c := .ctl 0xFF, preds := [f.d.toNat % 8, lowBits f.c 0 3],
           subs := modBits true true false f ++
             subIf (lowBits f.c 6 2 == 3 || decide (6 ≤ lowBits f.c 3 3)) 0xF }
  | 1 => { d := dataKind f false, a := s, b := s, c := .ctl 7, preds := [lowBits f.c 0 3],
           subs := modBits true false false f }
  | 2 => { d := .ctl 7, a := .ctl 0x1FF, b := .ctl 0xFF,
           preds := [f.d.toNat % 8, lowBits f.a 0 3, lowBits f.a 3 3, lowBits f.a 6 3],
           subs := modBits false false false f }
  | 3 => { d := dataKind f false, a := s, subs := modBits true false false f }
  | 4 => { d := .vec 1 false, preds := List.range 7, subs := modBits false false false f }
  | 5 => { a := .vec 1 true, b := .ctl 0x7F, preds := maskPreds f.b.toNat, subs := modBits false false false f }
  | 6 => { d := .vec 1 false, a := .xreg, subs := modBits false false true f }
  | _ => { d := .xreg, a := .vec (if f.opt then 2 else 1) true, subs := modBits false false true f }

/-- OP 0x04 (04 R82-R84). -/
def immShape (fn : Nat) (f : Fields) : Shape :=
  let d := dataKind f false
  let s := dataKind f true
  let w := if f.isX then 64 else 32
  let plain : Shape := { d := d, a := s, b := .free, c := .free, subs := modBits true false false f }
  match fn with
  | 7 => { plain with a := .unused }
  | 8 => { d := if f.isX then .xreg else .vec (if f.opt then 1 else 2) false, subs := modBits true false true f }
  | 9 => { d := .ctl 0x3F, a := s, b := .free, c := .free, preds := [f.d.toNat % 8],
           subs := modBits true true false f ++ subIf (decide (6 ≤ lowBits f.d 3 3)) 0xF }
  | _ => if 4 ≤ fn ∧ fn ≤ 6 then { plain with subs := plain.subs ++ subIf (decide (w ≤ f.imm.toNat)) 0xF }
         else plain

/-- OP 0x10 (04 R85-R87). -/
def floatShape (fn : Nat) (f : Fields) : Shape :=
  let d : Kind := .vec 1 false
  let s : Kind := .vec 1 true
  let types := modIn [0, 1, 2] f
  match fn with
  | 3 => { d := d, a := s, b := s, c := s, subs := types }
  | 6 => { d := .pred, a := s, b := s, c := .ctl 0xFF, preds := [f.d.toNat % 8, lowBits f.c 0 3],
           subs := modIn [0] f ++ subIf (lowBits f.c 6 2 == 3) 0xF }
  | 8 => { d := d, a := s, subs := types }
  | _ => { d := d, a := s, b := s, subs := types }

/-- Registers that a value of a type code of 04 R90 occupies. -/
def typeRegs (code : Nat) : Nat := if code = 3 ∨ code = 7 then 2 else 1

/-- OP 0x12 (04 R90-R95). -/
def convertShape (fn : Nat) (f : Fields) : Shape :=
  let dst := lowBits f.c 0 4
  let src := lowBits f.c 4 4
  let half := dst == 9 || dst == 10
  match fn with
  | 0 => { d := .vec (typeRegs dst) false, a := .vec (typeRegs src) true, c := .ctl 0xFF,
           subs := modIn [0, 4, 5, 6, 7] f ++
             subIf (decide (10 < dst) || decide (10 < src) || (decide (dst < 8) && decide (src < 8))) 0xF }
  | 1 => { d := .vec 1 false, a := .vec 1 true, c := .ctl 0xF,
           subs := modIn [0, 4, 5, 6, 7] f ++ subIf (!(half || dst == 8)) 0xF }
  | 2 => { d := .vec (typeRegs dst) false, a := .vec (typeRegs src) true, c := .ctl 0xFF,
           subs := modIn [0, 1] f ++ subIf (decide (7 < dst) || decide (7 < src)) 0xF }
  | 3 => { d := .vec 1 false, a := .vec 1 true, b := .vec 1 true, c := .ctl 0xF,
           subs := modIn [0, 4, 5, 6, 7] f ++ subIf (!half) 0xF }
  | 4 => { d := .vec 2 false, a := .vec 1 true, c := .ctl 0xF, subs := modBits false false false f ++ subIf (!half) 0xF }
  | _ => { d := .vec 1 false, a := .vec 1 true, subs := modIn [0, 1, 2] f }

/-- OP 0x18 (04 R96-R98). DEDUCED (log 24): under an undefined MOD the target's register field is not looked at. -/
def controlShape (fn : Nat) (f : Fields) : Shape :=
  let target : Kind := if f.mod = 0 then .vec 2 true else if f.mod = 4 then .xreg else .free
  match fn with
  | 0 => { d := .free, a := .free, b := .free, c := .free, subs := modRes0 f }
  | 1 => { a := target, subs := modIn [0, 4] f }
  | 2 => { d := .free, a := .free, b := .free, c := .free, subs := modRes0 f, implied := [0, 1] }
  | 3 => { d := .vec 2 false, a := target, subs := modIn [0, 4] f }
  | 4 => { a := target, subs := modIn [0, 4] f }
  | 6 => { b := .free, c := .free, subs := modRes0 f }
  | _ => { subs := modRes0 f }

/-- A scope code that is not defined raises 0x0F (09 R187). -/
def badScope (code : Nat) : List Nat := subIf (decide (6 ≤ code)) 0xF

/-- OP 0x20 (09 R188-R194). -/
def memoryShape (fn : Nat) (f : Fields) : Shape :=
  let sizes := modIn [0, 1, 2, 3, 4] f
  let data (src : Bool) : Kind := .vec (sizeRegs f.mod.toNat) src
  match fn with
  | 0 => { d := data false, a := .base, b := .index, c := .free, mclass := true, am := true,
           subs := sizes ++ badScope (lowBits f.c 6 3) }
  | 1 => { d := data true, a := .base, b := .index, c := .free, mclass := true, am := true,
           subs := sizes ++ badScope (lowBits f.c 6 3) }
  | 2 => { d := data false, a := .base, b := .index, c := .free, mclass := true, am := true, subs := sizes }
  | 3 => { d := data true, a := .base, b := .index, c := .free, mclass := true, am := true, subs := sizes }
  | _ => { a := .base, b := .index, c := .free, mclass := true, subs := modIn [0, 1] f }

/-- Elements a plane instruction moves: 1, 2, 4, 8 or 16 (09 R195). -/
def planeElems (f : Fields) : Nat := 2 ^ f.mod.toNat

/-- OP 0x21 (09 R195-R199). -/
def planeShape (fn : Nat) (f : Fields) : Shape :=
  let many := subIf (decide (16 < lowBits f.c 0 5)) 0xF
  match fn with
  | 0 => { d := .vec (planeElems f) false, a := .planeBase, b := .index, c := .ctl 0x3F, mclass := true,
           subs := modIn [0, 1, 2, 3, 4] f ++ many }
  | 1 => { d := .vec (planeElems f) false, a := .planeBase, b := .index, c := .ctl 0x3F, mclass := true,
           subs := modIn [0, 1, 2, 3, 4] f ++ many }
  | 2 => { d := .vec 16 true, a := .planeBase, b := .index, c := .ctl 0x1F, mclass := true,
           subs := modIn [4] f ++ many }
  | _ => { d := .vec 1 false, a := .vec 1 true, subs := modIn [0, 1] f }

/-- Whether an atomic operation code is legal on a type (09 R201). -/
def atomicTypeOk (op ty : Nat) : Bool :=
  if op ≤ 7 then decide (ty < 2)
  else if op = 8 then true
  else if op ≤ 11 then decide (2 ≤ ty)
  else op == 12

/-- OP 0x22 (09 R200-R204). -/
def atomicShape (fn : Nat) (f : Fields) : Shape :=
  let ty := f.mod.toNat
  let data (src : Bool) : Kind := if f.am then .xreg else .vec (if ty = 1 then 2 else 1) src
  let op := lowBits f.c 0 4
  let ord := lowBits f.c 4 2
  let common := badScope (lowBits f.c 6 3) ++ subIf (!(atomicTypeOk op ty)) 0xF
  match fn with
  | 0 => { d := data false, a := .base, b := data true, c := .ctl 0x1FF, mclass := true, am := true,
           subs := modIn [0, 1, 2, 3, 4] f ++ common ++ subIf (op == 12 && decide (2 ≤ ord)) 0xF }
  | 1 => { d := data false, a := .base, b := data true, c := .ctl 0x1FF, mclass := true, am := true,
           subs := modIn [0, 1] f ++ badScope (lowBits f.c 6 3) ++ subIf (op != 0) 0xF }
  | 2 => { d := data true, a := .base, c := .ctl 0x1FF, mclass := true, am := true,
           subs := modIn [0, 1, 2, 3, 4] f ++ common ++
             subIf (op == 8 || op == 12 || ord == 1 || ord == 3) 0xF }
  | 3 => { b := .free, c := .free,
           subs := modRes0 f ++ subIf (decide (32 ≤ f.imm.toNat)) 3 ++ badScope (bitField f.imm.toNat 2 3) }
  | _ => { d := .ctl 0x3F, a := .ctl 0x3F, b := .ctl 0x3F, c := .ctl 0x3F, subs := modRes0 f }

/-- OP 0x28 (10 R220, R226). -/
def herdShape (fn : Nat) (f : Fields) : Shape :=
  let sx := f.c.getLsbD 3
  let cmask : BitVec 10 := if sx then 0x3FF else 0xF
  let tail := modBits false false (decide (fn < 2)) f
  let xs := if sx then [lowBits f.c 4 6] else []
  let op (a b : Kind) : Shape :=
    { d := .vec 16 false, a := a, b := b, c := .ctl cmask, preds := [lowBits f.c 0 3], xctl := xs, subs := tail }
  match fn with
  | 0 => op .xreg .unused
  | 7 => op .unused .unused
  | 8 => { a := .xreg, b := .xreg, subs := modRes0 f }
  | 9 => { a := .xreg, subs := modRes0 f }
  | _ => op .xreg .xreg

/-- OP 0x30 (06 R127, R132). -/
def crossShape (fn : Nat) (f : Fields) : Shape :=
  let v : Kind := .vec 1 false
  let s : Kind := .vec 1 true
  let op := lowBits f.c 0 4
  let minMax := op == 1 || op == 2
  let imm := f.imm.toNat
  let scope := imm % 4
  let barSubs := modRes0 f ++ subIf (decide (16 ≤ imm)) 3 ++
    subIf (scope == 3 || (scope != 0 && decide (4 ≤ imm % 16))) 0xF
  match fn with
  | 0 => { d := v, a := s, b := s, c := .ctl 0x1F,
           subs := modBits false false false f ++ subIf (decide (6 ≤ lowBits f.c 2 3)) 0xF }
  | 1 => { d := if lowBits f.c 0 2 = 3 then v else .pred, a := .ctl 0xF, c := .ctl 3,
           preds := lowBits f.a 0 3 :: (if lowBits f.c 0 2 = 3 then [] else [f.d.toNat % 8]),
           subs := modBits false false false f }
  | 2 => { d := v, a := s, c := .ctl 0xF, subs := modBits false minMax false f ++ subIf (decide (9 ≤ op)) 0xF }
  | 3 => { d := v, a := s, c := .ctl 0x1F, subs := modBits false minMax false f ++ subIf (decide (9 ≤ op)) 0xF }
  | 4 => { d := .ctl 7, preds := [f.d.toNat % 8], subs := modBits false false false f }
  | 5 => { b := .free, c := .free, subs := barSubs }
  | _ => { d := .ctl 7, b := .free, c := .free, preds := [f.d.toNat % 8], subs := barSubs }

/-- OP 0x31 (11 R231). -/
def barrierShape (fn : Nat) (f : Fields) : Shape :=
  match fn with
  | 0 => { d := .bar, a := .xreg, subs := modIn [0] f }
  | 1 => { d := .bar, a := .xreg, subs := modIn [0] f }
  | 2 => { d := .bar, a := .ctl 7, preds := [lowBits f.a 0 3], subs := modIn [0] f }
  | 5 => { d := .bar, subs := modIn [0] f }
  | _ => { d := .bar, a := .ctl 0x3F, preds := [lowBits f.a 0 3, lowBits f.a 3 3], subs := modIn [0] f }

/-- OP 0x38 (11 R231). -/
def copyShape (fn : Nat) (f : Fields) : Shape :=
  match fn with
  | 0 => { d := if f.opt then .unused else .bar, a := .xreg, b := .xreg, c := .xreg }
  | 1 => { d := .bar, a := .xpair, b := .xreg, c := .xreg, subs := modIn [0, 4] f }
  | 2 => { d := .strm, a := .xreg, subs := modIn [0] f }
  | 3 => { d := .strm, a := .xreg, b := .xreg, subs := modIn [0] f }
  | 4 => { d := .strm, a := .vec 2 false, subs := modIn [0] f }
  | _ => { d := .strm, subs := modIn [0] f }

/-- OP 0x40 (12 R257, 06 R137). -/
def tileShape (fn : Nat) (f : Fields) : Shape :=
  let s : Kind := .vec 1 true
  match fn with
  | 0 => { d := .tile, a := .xreg, subs := modIn [0] f }
  | 1 => { d := .tile, a := .xreg, subs := modIn [0, 1] f }
  | 2 => { d := .tile, a := .xreg, b := .xreg, subs := modIn [0, 4] f }
  | 3 => { d := .tile, a := .xpair, b := .xreg, c := .xreg, subs := modIn [0] f }
  | 4 => { d := .tile, a := .xpair, b := .xreg, c := .xreg, subs := modIn [0] f }
  | 5 => { d := .tile, a := .xreg, b := .xreg, subs := modIn [0, 4] f }
  | 6 => { d := .tile, subs := modIn [0] f }
  | 7 => { d := .vec 1 false, a := .tile, b := s, c := s, subs := modIn [0] f }
  | 8 => { d := .tile, a := s, b := s, c := s, subs := modIn [0] f }
  | 9 => { d := .conv, a := .xreg, subs := modRes0 f }
  | 12 => { d := .tile, a := .xreg, b := .xreg, c := .xreg, subs := modIn [0] f }
  | _ => { d := .conv, a := .xreg, b := .xreg, c := .xreg, subs := modIn [0] f }

/-- OP 0x48 (13 R282, 17 R360, R369). DEDUCED (log 24): KVSEQ with an undefined MOD uses neither B nor C. -/
def engineShape (fn : Nat) (f : Fields) : Shape :=
  match fn with
  | 0 => { d := if f.opt then .unused else .bar, a := .xreg, b := .xreg, c := .xreg }
  | 3 => { d := .xreg, a := .xreg, b := if f.mod = 2 ∨ f.mod = 4 then .xreg else .unused,
           c := if f.mod = 4 then .xreg else .unused, subs := modIn [0, 1, 2, 3, 4] f }
  | 4 => { d := .xreg, a := .xreg, b := .xreg, subs := modIn [0] f }
  | 5 => { d := .xreg, a := .xreg, b := .xreg, subs := modIn [0] f }
  | _ => { d := if f.opt then .unused else .bar, a := .xreg, b := .xreg,
           subs := subIf (f.isX || f.isN) 7 }

/-- OP 0x50 (14 R312). -/
def workShape (fn : Nat) (f : Fields) : Shape :=
  match fn with
  | 2 => { d := .xreg, a := .xreg, b := .xreg, c := .xreg, subs := modIn [0] f }
  | _ => { d := .xreg, a := .xreg, subs := modIn [0, 1, 2, 3] f }

/-- The number of functions assigned under a major opcode, 0 for an unassigned one (02 R46). -/
def fnCount (op : Nat) : Nat :=
  match op with
  | 0x00 => 12
  | 0x01 => 12
  | 0x02 => 14
  | 0x03 => 8
  | 0x04 => 10
  | 0x10 => 9
  | 0x11 => 8
  | 0x12 => 6
  | 0x18 => 7
  | 0x20 => 5
  | 0x21 => 4
  | 0x22 => 5
  | 0x28 => 10
  | 0x30 => 8
  | 0x31 => 6
  | 0x38 => 6
  | 0x40 => 13
  | 0x48 => 6
  | 0x50 => 3
  | _ => 0

/-- The hold bits that are res0 with no sub-cause of their own, so that a set one reports 0x03 (02 R48, R49, log 22):
HB and HC of the I class and all of the J class (R29); all of NOP, YIELD and EXIT (04 R98), of WAIT (09 R204), of CCTL
and TLBI (09 R205, R207), of HCRE and HDEL (10 R226), and of SAVE and REST (15 R338); HA of FENCE (09 R203), of the
hardware-barrier words (06 R132) and of PLD, PREF and PST (09 R195); HB of RED (09 R200). -/
def resHoldsOf (op fn : Nat) : Bool × Bool × Bool :=
  let all := (true, true, true)
  let iClass := (false, true, true)
  match op, fn with
  | 0x00, 0 => all
  | 0x00, 3 => (false, false, false)
  | 0x00, 4 => all
  | 0x00, fn => if fn ≤ 7 then iClass else all
  | 0x04, _ => iClass
  | 0x18, 0 => all
  | 0x18, 2 => all
  | 0x18, 5 => all
  | 0x18, 6 => iClass
  | 0x21, fn => (decide (fn ≤ 2), false, false)
  | 0x22, 2 => (false, true, false)
  | 0x22, 3 => all
  | 0x22, 4 => all
  | 0x28, fn => if 8 ≤ fn then all else (false, false, false)
  | 0x30, fn => if 5 ≤ fn then all else (false, false, false)
  | _, _ => (false, false, false)

/-- What the operand fields of a word name, by its major opcode and function. HCRE and HDEL are the privileged herd
instructions. -/
def groupShape (op fn : Nat) (f : Fields) : Shape :=
  match op with
  | 0x00 => systemShape fn f
  | 0x01 => integerShape fn f
  | 0x02 => logicShape fn f
  | 0x03 => compareShape fn f
  | 0x04 => immShape fn f
  | 0x10 => floatShape fn f
  | 0x11 => { d := .vec 1 false, a := .vec 1 true, subs := modIn [0, 1, 2] f }
  | 0x12 => convertShape fn f
  | 0x18 => controlShape fn f
  | 0x20 => memoryShape fn f
  | 0x21 => planeShape fn f
  | 0x22 => atomicShape fn f
  | 0x28 => { herdShape fn f with priv := if 8 ≤ fn then 1 else 0 }
  | 0x30 => crossShape fn f
  | 0x31 => barrierShape fn f
  | 0x38 => copyShape fn f
  | 0x40 => tileShape fn f
  | 0x48 => engineShape fn f
  | 0x50 => workShape fn f
  | _ => {}

/-- The shape of a word by its major opcode and function. -/
def shape (op fn : Nat) (f : Fields) : Shape := { groupShape op fn f with resHolds := resHoldsOf op fn }

/-- The M-class base or index field names an x register (02 R31). -/
def namesX (x : BitVec 10) : Bool := x.getLsbD 9 && lowBits x 6 3 == 0

/-- The sub-causes one operand field raises (02 R28, R31, 09 R195). -/
def fieldSubs (k : Kind) (x : BitVec 10) : List Nat :=
  match k with
  | .unused => subIf (x != 0) 3
  | .free => []
  | .vec n _ => subIf (x.toNat % n != 0) 8
  | .xreg => subIf (decide (64 ≤ x.toNat)) 3
  | .xpair => subIf (decide (64 ≤ x.toNat)) 3 ++ subIf (x.toNat % 2 != 0) 8
  | .pred => subIf (decide (8 ≤ x.toNat)) 3
  | .bar => subIf (decide (16 ≤ x.toNat)) 3
  | .conv => subIf (decide (8 ≤ x.toNat)) 3
  | .strm => subIf (decide (8 ≤ x.toNat)) 3
  | .tile => subIf (decide (64 ≤ x.toNat)) 3
  | .ctl m => subIf (x &&& ~~~m != 0) 3
  | .base => subIf (x.getLsbD 9 && !namesX x) 7 ++ subIf (!x.getLsbD 9 && x.getLsbD 0) 8
  | .index => subIf (x.getLsbD 9 && !namesX x && x != 0x3FF) 7
  | .planeBase => subIf (!namesX x) 7 ++ subIf (x.getLsbD 0) 8

/-- The field names a vector source, so that it may be held (02 R39). -/
def holdable (k : Kind) (x : BitVec 10) : Bool :=
  match k with
  | .vec _ src => src
  | .base => !x.getLsbD 9
  | .index => !x.getLsbD 9
  | _ => false

/-- The sub-causes of one hold bit, `res` where it is res0 (02 R39, R48). -/
def holdSubs (res h : Bool) (k : Kind) (x : BitVec 10) : List Nat :=
  subIf (h && res) 3 ++ subIf (h && !holdable k x) 0xC

/-- The ILLEGAL sub-causes of the fields of a full word with an assigned OP and FN. -/
def shapeSubs (s : Shape) (g : Guard) (f : Fields) : List Nat :=
  subIf (g.gp == 7 && g.gn) 4 ++ s.subs ++
  fieldSubs s.d f.d ++ fieldSubs s.a f.a ++ fieldSubs s.b f.b ++ fieldSubs s.c f.c ++
  holdSubs s.resHolds.1 f.ha s.a f.a ++ holdSubs s.resHolds.2.1 f.hb s.b f.b ++
  (if s.mclass then subIf (f.am && !s.am) 3 else holdSubs s.resHolds.2.2 f.hc s.c f.c)

/-- The lowest of a list of sub-causes. -/
def lowest : List Nat → Option Nat
  | [] => none
  | x :: xs =>
    match lowest xs with
    | none => some x
    | some y => some (min x y)

/-- The ILLEGAL sub-cause of a full word: OP, FN, then every other condition, the lowest reported (02 R48, R49).
`x` is the X field. -/
def fullSub (op fn : Nat) (x : Nat) (g : Guard) (f : Fields) : Option Nat :=
  if fnCount op = 0 then some 1
  else if fnCount op ≤ fn then some 2
  else
    let takesExt := op == 4 && fn == 8
    lowest (subIf (decide (2 ≤ x)) 5 ++ subIf ((x == 1 && !takesExt) || (x == 0 && takesExt)) 6 ++
      shapeSubs (shape op fn f) g f)

/-- Whether a slot opcode is assigned (02 R36). -/
def sopKnown (sop : BitVec 6) : Bool := decide (sop.toNat ≤ 0xC) || (decide (0x10 ≤ sop.toNat) && decide (sop.toNat ≤ 0x14))

/-- The slot operation reads its destination (02 R36). -/
def sopReadsD (sop : BitVec 6) : Bool := decide (2 ≤ sop.toNat)

/-- The ILLEGAL sub-causes of one slot (02 R36). -/
def slotSub (s : Slot) : Option Nat :=
  lowest (subIf (s.sop == 0 && (s.d != 0 || s.a != 0 || s.hd || s.ha || s.g != 0)) 3 ++
    subIf (!sopKnown s.sop) 9 ++ subIf (s.sop == 1 && s.hd) 0xC)

/-- The unheld registers a slot reads (02 R38). -/
def slotReads (s : Slot) : List Nat :=
  if s.sop == 0 then []
  else (if s.ha then [] else [s.a.toNat]) ++ (if sopReadsD s.sop && !s.hd then [s.d.toNat] else [])

/-- The distinct registers read lie in distinct banks (02 R37, R38). -/
def banksDistinct : List Nat → Bool
  | [] => true
  | r :: rs => rs.all (fun q => q == r || q % 6 != r % 6) && banksDistinct rs

/-- The ILLEGAL sub-cause and slot of a pair word, bit 62 aside (02 R49). -/
def pairSub (s0 s1 : Slot) : Option (Nat × Nat) :=
  match slotSub s0 with
  | some x => some (x, 0)
  | none =>
    match slotSub s1 with
    | some x => some (x, 1)
    | none =>
      if s0.sop != 0 && s1.sop != 0 && s0.d == s1.d then some (0xA, 0)
      else if banksDistinct (slotReads s0 ++ slotReads s1) then none
      else some (0xB, 0)

/-- The vector registers a field names, in order (02 R28, R31). -/
def fieldVecs (k : Kind) (x : BitVec 10) : List Nat :=
  match k with
  | .vec n _ => (List.range n).map (x.toNat + ·)
  | .base => if x.getLsbD 9 then [] else [x.toNat, x.toNat + 1]
  | .index => if x.getLsbD 9 then [] else [x.toNat]
  | _ => []

/-- The x registers a field names. -/
def fieldXs (k : Kind) (x : BitVec 10) : List Nat :=
  match k with
  | .xreg => [x.toNat % 64]
  | .xpair => [x.toNat % 64, (x.toNat + 1) % 64]
  | .planeBase => [x.toNat % 64, (x.toNat + 1) % 64]
  | .base => if namesX x then [x.toNat % 64] else []
  | .index => if namesX x then [x.toNat % 64] else []
  | _ => []

/-- Every vector register a word names (01 R9, R22). -/
def shapeVecs (s : Shape) (f : Fields) : List Nat :=
  fieldVecs s.d f.d ++ fieldVecs s.a f.a ++ fieldVecs s.b f.b ++ fieldVecs s.c f.c ++ s.implied

/-- Every x register a word names. -/
def shapeXs (s : Shape) (f : Fields) : List Nat :=
  fieldXs s.d f.d ++ fieldXs s.a f.a ++ fieldXs s.b f.b ++ fieldXs s.c f.c ++ s.xctl

/-- What the launch declared of the registers that have a range (01 R9, 05 R108). -/
structure Declared where
  regs : Nat
  bars : Nat
  convs : Nat
  strms : Nat
deriving DecidableEq, Repr

/-- A register of D at or above the declared count (05 R108). -/
def fieldOutside (q : Declared) (k : Kind) (x : BitVec 10) : Bool :=
  match k with
  | .bar => decide (q.bars ≤ x.toNat)
  | .conv => decide (q.convs ≤ x.toNat)
  | .strm => decide (q.strms ≤ x.toNat)
  | _ => false

/-- REGRANGE as a check of the word (01 R9, 05 R108, 11 R231). -/
def outOfRange (q : Declared) (s : Shape) (f : Fields) : Bool :=
  (shapeVecs s f).any (fun n => decide (q.regs ≤ n)) || fieldOutside q s.d f.d

end Sys2Proof.Machine
end

