-- ==== Sys2Proof/Machine/Codes.lean ====
section
/-! DEFINITION. The opcode map of 02 R46: the major opcode and function of every instruction word, the constructor
that an opcode, a function and MOD name, and the report of a word's checks (02 R48, R49). -/

namespace Sys2Proof.Machine

/-- The parts of an instruction as a word holds them: a full word with its opcode and function, LIMM's extension
word, a pair word, or nothing for an event of another agent. -/
inductive Parts
  | full (op fn : Nat) (g : Guard) (f : Fields)
  | ext (g : Guard) (f : Fields) (x : Word)
  | pair (s0 s1 : Slot)
  | event
deriving DecidableEq, Repr

/-- The opcode and function of every word (02 R46). TEPI in KV-append mode is the word of TEPI (17 R357). -/
def parts (i : Instr) : Parts :=
  match i with
  | .nop g f => .full 0x00 0 g f
  | .bkpt g f => .full 0x00 1 g f
  | .trap g f => .full 0x00 2 g f
  | .eret g f => .full 0x00 3 g f
  | .eretNext g f => .full 0x00 3 g f
  | .yield g f => .full 0x00 4 g f
  | .movcr g f => .full 0x00 5 g f
  | .movrc g f => .full 0x00 6 g f
  | .movsr g f => .full 0x00 7 g f
  | .cctlDinv g f => .full 0x00 8 g f
  | .cctlIinv g f => .full 0x00 8 g f
  | .cctlIall g f => .full 0x00 8 g f
  | .tlbiVa g f => .full 0x00 9 g f
  | .tlbiCtx g f => .full 0x00 9 g f
  | .tlbiAll g f => .full 0x00 9 g f
  | .save g f => .full 0x00 10 g f
  | .rest g f => .full 0x00 11 g f
  | .iadd g f => .full 0x01 0 g f
  | .isub g f => .full 0x01 1 g f
  | .imul g f => .full 0x01 2 g f
  | .imulh g f => .full 0x01 3 g f
  | .imad g f => .full 0x01 4 g f
  | .imadw g f => .full 0x01 5 g f
  | .iadd64 g f => .full 0x01 6 g f
  | .isub64 g f => .full 0x01 7 g f
  | .imin g f => .full 0x01 8 g f
  | .imax g f => .full 0x01 9 g f
  | .iabs g f => .full 0x01 10 g f
  | .ineg g f => .full 0x01 11 g f
  | .and g f => .full 0x02 0 g f
  | .or g f => .full 0x02 1 g f
  | .xor g f => .full 0x02 2 g f
  | .andn g f => .full 0x02 3 g f
  | .shl g f => .full 0x02 4 g f
  | .shr g f => .full 0x02 5 g f
  | .sar g f => .full 0x02 6 g f
  | .shf g f => .full 0x02 7 g f
  | .bfe g f => .full 0x02 8 g f
  | .bfi g f => .full 0x02 9 g f
  | .popc g f => .full 0x02 10 g f
  | .clz g f => .full 0x02 11 g f
  | .brev g f => .full 0x02 12 g f
  | .prmt g f => .full 0x02 13 g f
  | .icmp g f => .full 0x03 0 g f
  | .sel g f => .full 0x03 1 g f
  | .pcomb g f => .full 0x03 2 g f
  | .mov g f => .full 0x03 3 g f
  | .pget g f => .full 0x03 4 g f
  | .pset g f => .full 0x03 5 g f
  | .x2v g f => .full 0x03 6 g f
  | .v2x g f => .full 0x03 7 g f
  | .iaddi g f => .full 0x04 0 g f
  | .andi g f => .full 0x04 1 g f
  | .ori g f => .full 0x04 2 g f
  | .xori g f => .full 0x04 3 g f
  | .shli g f => .full 0x04 4 g f
  | .shri g f => .full 0x04 5 g f
  | .sari g f => .full 0x04 6 g f
  | .movi g f => .full 0x04 7 g f
  | .limm g f x => .ext g f x
  | .icmpi g f => .full 0x04 9 g f
  | .fadd g f => .full 0x10 0 g f
  | .fsub g f => .full 0x10 1 g f
  | .fmul g f => .full 0x10 2 g f
  | .ffma g f => .full 0x10 3 g f
  | .fmin g f => .full 0x10 4 g f
  | .fmax g f => .full 0x10 5 g f
  | .fcmp g f => .full 0x10 6 g f
  | .fdiv g f => .full 0x10 7 g f
  | .fsqrt g f => .full 0x10 8 g f
  | .frcp g f => .full 0x11 0 g f
  | .frsq g f => .full 0x11 1 g f
  | .fex2 g f => .full 0x11 2 g f
  | .flg2 g f => .full 0x11 3 g f
  | .fsin g f => .full 0x11 4 g f
  | .fcos g f => .full 0x11 5 g f
  | .ftanh g f => .full 0x11 6 g f
  | .ferf g f => .full 0x11 7 g f
  | .cvt g f => .full 0x12 0 g f
  | .frnd g f => .full 0x12 1 g f
  | .i2i g f => .full 0x12 2 g f
  | .pack g f => .full 0x12 3 g f
  | .unpack g f => .full 0x12 4 g f
  | .fclass g f => .full 0x12 5 g f
  | .bra g f => .full 0x18 0 g f
  | .brx g f => .full 0x18 1 g f
  | .call g f => .full 0x18 2 g f
  | .callx g f => .full 0x18 3 g f
  | .ret g f => .full 0x18 4 g f
  | .exit g f => .full 0x18 5 g f
  | .sleep g f => .full 0x18 6 g f
  | .pairWord s0 s1 => .pair s0 s1
  | .ld g f => .full 0x20 0 g f
  | .st g f => .full 0x20 1 g f
  | .lds g f => .full 0x20 2 g f
  | .sts g f => .full 0x20 3 g f
  | .prf g f => .full 0x20 4 g f
  | .pld g f => .full 0x21 0 g f
  | .pref g f => .full 0x21 1 g f
  | .pst g f => .full 0x21 2 g f
  | .ptagGet g f => .full 0x21 3 g f
  | .ptagSet g f => .full 0x21 3 g f
  | .atom g f => .full 0x22 0 g f
  | .atomc g f => .full 0x22 1 g f
  | .red g f => .full 0x22 2 g f
  | .fence g f => .full 0x22 3 g f
  | .wait g f => .full 0x22 4 g f
  | .hdep g f => .full 0x28 0 g f
  | .hdepc g f => .full 0x28 1 g f
  | .hdec g f => .full 0x28 2 g f
  | .hcpy g f => .full 0x28 3 g f
  | .htak g f => .full 0x28 4 g f
  | .hcpyt g f => .full 0x28 5 g f
  | .htakt g f => .full 0x28 6 g f
  | .hcan g f => .full 0x28 7 g f
  | .hcre g f => .full 0x28 8 g f
  | .hdel g f => .full 0x28 9 g f
  | .shfl g f => .full 0x30 0 g f
  | .vote g f => .full 0x30 1 g f
  | .gred g f => .full 0x30 2 g f
  | .gscan g f => .full 0x30 3 g f
  | .elect g f => .full 0x30 4 g f
  | .bar g f => .full 0x30 5 g f
  | .bara g f => .full 0x30 6 g f
  | .barw g f => .full 0x30 7 g f
  | .brinit g f => .full 0x31 0 g f
  | .brdue g f => .full 0x31 1 g f
  | .brarv g f => .full 0x31 2 g f
  | .brwait g f => .full 0x31 3 g f
  | .brtry g f => .full 0x31 4 g f
  | .brinv g f => .full 0x31 5 g f
  | .cpy g f => .full 0x38 0 g f
  | .cpyp g f => .full 0x38 1 g f
  | .qcfg g f => .full 0x38 2 g f
  | .qfill g f => .full 0x38 3 g f
  | .qpop g f => .full 0x38 4 g f
  | .qrel g f => .full 0x38 5 g f
  | .tset g f => .full 0x40 0 g f
  | .tget g f => .full 0x40 1 g f
  | .tld g f => .full 0x40 2 g f
  | .tldp g f => .full 0x40 3 g f
  | .tref g f => .full 0x40 4 g f
  | .tst g f => .full 0x40 5 g f
  | .tzero g f => .full 0x40 6 g f
  | .trdv g f => .full 0x40 7 g f
  | .twrv g f => .full 0x40 8 g f
  | .kinit g f => .full 0x40 9 g f
  | .mma g f => .full 0x40 10 g f
  | .mmas g f => .full 0x40 11 g f
  | .tepi g f => .full 0x40 12 g f
  | .tepiKv g f => .full 0x40 12 g f
  | .smpl g f => .full 0x48 0 g f
  | .attn g f => .full 0x48 1 g f
  | .attnt g f => .full 0x48 2 g f
  | .kvseqOpen g f => .full 0x48 3 g f
  | .kvseqClose g f => .full 0x48 3 g f
  | .kvseqTrim g f => .full 0x48 3 g f
  | .kvseqStat g f => .full 0x48 3 g f
  | .kvseqDfs g f => .full 0x48 3 g f
  | .kvfork g f => .full 0x48 4 g f
  | .kvrel g f => .full 0x48 5 g f
  | .lstat g f => .full 0x50 0 g f
  | .lcan g f => .full 0x50 1 g f
  | .gpatch g f => .full 0x50 2 g f
  | .retry _ => .event
  | .skip _ => .event
  | .handle _ => .event
  | .endThread _ => .event
  | .storePerform _ _ => .event
  | .atomicPerform _ _ => .event
  | .loadComplete _ _ _ => .event
  | .mxePassGrant _ => .event
  | .mxeMigration _ _ => .event
  | .tileCommandComplete _ => .event
  | .copyStart _ => .event
  | .granuleLanding _ _ _ _ => .event
  | .copyComplete _ => .event
  | .samplerRun _ => .event
  | .appendAccept _ _ => .event
  | .appendWrite _ => .event
  | .gatePassage _ => .event
  | .attentionScan _ => .event
  | .herdDepositArrival _ => .event
  | .herdMatchArrival _ => .event
  | .herdHdecArrival _ => .event
  | .herdHcanArrival _ => .event
  | .herdHdelPerform _ => .event
  | .depositAdmit _ _ => .event
  | .herdRequestComplete _ => .event
  | .sleepExpiry _ _ => .event
  | .bandRegroup _ => .event
  | .tdTake _ => .event
  | .teamPlacement _ _ _ => .event
  | .coopReserve _ _ => .event
  | .stealRequest _ _ _ => .event
  | .teamRetire _ => .event
  | .retirementMessage _ => .event
  | .dispatchThresholdPreempt _ _ _ => .event
  | .drainLimitExpiry _ => .event
  | .quiesceComplete _ => .event
  | .restoreTeam _ _ => .event
  | .pre _ _ => .event
  | .res _ _ => .event
  | .kvxExport _ _ => .event
  | .kvxImport _ _ => .event
  | .attgo _ _ => .event
  | .qdescWrite _ _ _ _ => .event
  | .workEntryWrite _ _ _ _ _ => .event
  | .hostControlWrite _ _ _ => .event
  | .depositWindowWrite _ _ _ => .event
  | .regionWindowWrite _ _ _ _ => .event
  | .hostHbmAccess _ _ _ _ _ => .event
  | .remoteRequest _ => .event
  | .linkFailure _ => .event
  | .deviceNumberAssign _ => .event
  | .telemetrySample _ _ => .event
  | .columnThrottle _ _ => .event
  | .criticalTemperature _ _ => .event
  | .tripLimit _ _ => .event
  | .retentionEntry _ => .event
  | .retentionExit _ => .event
  | .poisonMark _ => .event
  | .reset _ => .event
  | .calib _ _ => .event
  | .meminit _ => .event
  | .fwcheck _ => .event
  | .start _ _ => .event
  | .xRegisterWriteVisible _ _ => .event
  | .layerCooled _ _ => .event
  | .portFailure _ => .event
  | .reportProduced => .event

/-- The constructor of an assigned opcode and function; MOD picks among the forms that share one (02 R46). -/
def ofCode (op fn : Nat) (g : Guard) (f : Fields) : Option Instr :=
  match op, fn with
  | 0x00, 0 => some (.nop g f)
  | 0x00, 1 => some (.bkpt g f)
  | 0x00, 2 => some (.trap g f)
  | 0x00, 3 => if f.mod = 0 then some (.eret g f) else if f.mod = 1 then some (.eretNext g f) else none
  | 0x00, 4 => some (.yield g f)
  | 0x00, 5 => some (.movcr g f)
  | 0x00, 6 => some (.movrc g f)
  | 0x00, 7 => some (.movsr g f)
  | 0x00, 8 => if f.mod = 0 then some (.cctlDinv g f) else if f.mod = 1 then some (.cctlIinv g f) else if f.mod = 2 then some (.cctlIall g f) else none
  | 0x00, 9 => if f.mod = 0 then some (.tlbiVa g f) else if f.mod = 1 then some (.tlbiCtx g f) else if f.mod = 2 then some (.tlbiAll g f) else none
  | 0x00, 10 => some (.save g f)
  | 0x00, 11 => some (.rest g f)
  | 0x01, 0 => some (.iadd g f)
  | 0x01, 1 => some (.isub g f)
  | 0x01, 2 => some (.imul g f)
  | 0x01, 3 => some (.imulh g f)
  | 0x01, 4 => some (.imad g f)
  | 0x01, 5 => some (.imadw g f)
  | 0x01, 6 => some (.iadd64 g f)
  | 0x01, 7 => some (.isub64 g f)
  | 0x01, 8 => some (.imin g f)
  | 0x01, 9 => some (.imax g f)
  | 0x01, 10 => some (.iabs g f)
  | 0x01, 11 => some (.ineg g f)
  | 0x02, 0 => some (.and g f)
  | 0x02, 1 => some (.or g f)
  | 0x02, 2 => some (.xor g f)
  | 0x02, 3 => some (.andn g f)
  | 0x02, 4 => some (.shl g f)
  | 0x02, 5 => some (.shr g f)
  | 0x02, 6 => some (.sar g f)
  | 0x02, 7 => some (.shf g f)
  | 0x02, 8 => some (.bfe g f)
  | 0x02, 9 => some (.bfi g f)
  | 0x02, 10 => some (.popc g f)
  | 0x02, 11 => some (.clz g f)
  | 0x02, 12 => some (.brev g f)
  | 0x02, 13 => some (.prmt g f)
  | 0x03, 0 => some (.icmp g f)
  | 0x03, 1 => some (.sel g f)
  | 0x03, 2 => some (.pcomb g f)
  | 0x03, 3 => some (.mov g f)
  | 0x03, 4 => some (.pget g f)
  | 0x03, 5 => some (.pset g f)
  | 0x03, 6 => some (.x2v g f)
  | 0x03, 7 => some (.v2x g f)
  | 0x04, 0 => some (.iaddi g f)
  | 0x04, 1 => some (.andi g f)
  | 0x04, 2 => some (.ori g f)
  | 0x04, 3 => some (.xori g f)
  | 0x04, 4 => some (.shli g f)
  | 0x04, 5 => some (.shri g f)
  | 0x04, 6 => some (.sari g f)
  | 0x04, 7 => some (.movi g f)
  | 0x04, 9 => some (.icmpi g f)
  | 0x10, 0 => some (.fadd g f)
  | 0x10, 1 => some (.fsub g f)
  | 0x10, 2 => some (.fmul g f)
  | 0x10, 3 => some (.ffma g f)
  | 0x10, 4 => some (.fmin g f)
  | 0x10, 5 => some (.fmax g f)
  | 0x10, 6 => some (.fcmp g f)
  | 0x10, 7 => some (.fdiv g f)
  | 0x10, 8 => some (.fsqrt g f)
  | 0x11, 0 => some (.frcp g f)
  | 0x11, 1 => some (.frsq g f)
  | 0x11, 2 => some (.fex2 g f)
  | 0x11, 3 => some (.flg2 g f)
  | 0x11, 4 => some (.fsin g f)
  | 0x11, 5 => some (.fcos g f)
  | 0x11, 6 => some (.ftanh g f)
  | 0x11, 7 => some (.ferf g f)
  | 0x12, 0 => some (.cvt g f)
  | 0x12, 1 => some (.frnd g f)
  | 0x12, 2 => some (.i2i g f)
  | 0x12, 3 => some (.pack g f)
  | 0x12, 4 => some (.unpack g f)
  | 0x12, 5 => some (.fclass g f)
  | 0x18, 0 => some (.bra g f)
  | 0x18, 1 => some (.brx g f)
  | 0x18, 2 => some (.call g f)
  | 0x18, 3 => some (.callx g f)
  | 0x18, 4 => some (.ret g f)
  | 0x18, 5 => some (.exit g f)
  | 0x18, 6 => some (.sleep g f)
  | 0x20, 0 => some (.ld g f)
  | 0x20, 1 => some (.st g f)
  | 0x20, 2 => some (.lds g f)
  | 0x20, 3 => some (.sts g f)
  | 0x20, 4 => some (.prf g f)
  | 0x21, 0 => some (.pld g f)
  | 0x21, 1 => some (.pref g f)
  | 0x21, 2 => some (.pst g f)
  | 0x21, 3 => if f.mod = 0 then some (.ptagGet g f) else if f.mod = 1 then some (.ptagSet g f) else none
  | 0x22, 0 => some (.atom g f)
  | 0x22, 1 => some (.atomc g f)
  | 0x22, 2 => some (.red g f)
  | 0x22, 3 => some (.fence g f)
  | 0x22, 4 => some (.wait g f)
  | 0x28, 0 => some (.hdep g f)
  | 0x28, 1 => some (.hdepc g f)
  | 0x28, 2 => some (.hdec g f)
  | 0x28, 3 => some (.hcpy g f)
  | 0x28, 4 => some (.htak g f)
  | 0x28, 5 => some (.hcpyt g f)
  | 0x28, 6 => some (.htakt g f)
  | 0x28, 7 => some (.hcan g f)
  | 0x28, 8 => some (.hcre g f)
  | 0x28, 9 => some (.hdel g f)
  | 0x30, 0 => some (.shfl g f)
  | 0x30, 1 => some (.vote g f)
  | 0x30, 2 => some (.gred g f)
  | 0x30, 3 => some (.gscan g f)
  | 0x30, 4 => some (.elect g f)
  | 0x30, 5 => some (.bar g f)
  | 0x30, 6 => some (.bara g f)
  | 0x30, 7 => some (.barw g f)
  | 0x31, 0 => some (.brinit g f)
  | 0x31, 1 => some (.brdue g f)
  | 0x31, 2 => some (.brarv g f)
  | 0x31, 3 => some (.brwait g f)
  | 0x31, 4 => some (.brtry g f)
  | 0x31, 5 => some (.brinv g f)
  | 0x38, 0 => some (.cpy g f)
  | 0x38, 1 => some (.cpyp g f)
  | 0x38, 2 => some (.qcfg g f)
  | 0x38, 3 => some (.qfill g f)
  | 0x38, 4 => some (.qpop g f)
  | 0x38, 5 => some (.qrel g f)
  | 0x40, 0 => some (.tset g f)
  | 0x40, 1 => some (.tget g f)
  | 0x40, 2 => some (.tld g f)
  | 0x40, 3 => some (.tldp g f)
  | 0x40, 4 => some (.tref g f)
  | 0x40, 5 => some (.tst g f)
  | 0x40, 6 => some (.tzero g f)
  | 0x40, 7 => some (.trdv g f)
  | 0x40, 8 => some (.twrv g f)
  | 0x40, 9 => some (.kinit g f)
  | 0x40, 10 => some (.mma g f)
  | 0x40, 11 => some (.mmas g f)
  | 0x40, 12 => some (.tepi g f)
  | 0x48, 0 => some (.smpl g f)
  | 0x48, 1 => some (.attn g f)
  | 0x48, 2 => some (.attnt g f)
  | 0x48, 3 => if f.mod = 0 then some (.kvseqOpen g f) else if f.mod = 1 then some (.kvseqClose g f) else if f.mod = 2 then some (.kvseqTrim g f) else if f.mod = 3 then some (.kvseqStat g f) else if f.mod = 4 then some (.kvseqDfs g f) else none
  | 0x48, 4 => some (.kvfork g f)
  | 0x48, 5 => some (.kvrel g f)
  | 0x50, 0 => some (.lstat g f)
  | 0x50, 1 => some (.lcan g f)
  | 0x50, 2 => some (.gpatch g f)
  | _, _ => none

/-- The ILLEGAL report of an instruction's word: sub-cause and slot (02 R48, R49). -/
def wordFault (i : Instr) : Option (Nat × Nat) :=
  match parts i with
  | .full op fn g f => (fullSub op fn 0 g f).map fun x => (x, 0)
  | .ext g f _ => (fullSub 4 8 1 g f).map fun x => (x, 0)
  | .pair s0 s1 => pairSub s0 s1
  | .event => none

end Sys2Proof.Machine
end

