-- ==== Sys2Proof/Machine/State.lean ====
section
/-! DEFINITION. The state of a Decnex: every piece of state the manual names, as plain data, and the state after a
cold reset. INVENTORY.md lists each piece with its rule. Memory bytes of every array stand in one list, keyed by the
location numbers of `Machine/Ops.lean`. -/

namespace Sys2Proof.Machine

/-- Why the machine stops with a fault. -/
inductive Fault
  /-- A table walk or a device access reached a physical address at which no memory is installed: raised by the
  walk and by physical reads and writes; the manual gives no effect. Safe: the machine stops. -/
  | noMemory (addr : Nat)
deriving DecidableEq, Repr

/-- Why a step has no meaning. -/
inductive Refusal
  /-- An instruction without a meaning: raised by an arm of the dispatch. Safe. -/
  | notModelled (mnemonic : String)
  /-- An instruction word executed while no thread is current: raised by every meaning of a word. Safe. -/
  | noThread
deriving DecidableEq, Repr

/-- The result of executing one instruction or of one step. -/
abbrev Out (σ : Type) := Host.Outcome σ Fault Refusal

/-- A thread, by its team's number in `teams` and its TID (05 R107). -/
structure TRef where
  team : Nat
  tid : Nat
deriving DecidableEq, Repr

/-- A precision tag (07 R158). -/
structure Tag where
  pval : Bool := false
  pcnt : BitVec 5 := 0
  sig : BitVec 16 := 0
  /-- For a register: planes E, S, M1 ... that its value was read from, each with the address it stood at (03 R67). -/
  held : List (BitVec 16 × Word) := []
deriving DecidableEq, Repr

/-- A value that a plane load or a refine gave, with the tag it left: the model's own, for the refine of a value that has
been moved since (03 R67, 09 R199, log 88). -/
structure PlaneRead where
  val : W32
  tag : Tag
deriving DecidableEq, Repr

/-- Whether a thread can issue at all (01 R23, R24, 14 R314, 15 R319, R329). -/
inductive RunState
  | running
  | exited
  | faulted (fid : Nat)
  /-- Stopped by a cancel or by FORCING. -/
  | stopped
deriving DecidableEq, Repr

/-- What a thread waits for inside an instruction (05 R105, 15 R329). -/
inductive Wait
  | none
  /-- Arrived at a cross-thread instance (06 R123). -/
  | cross
  /-- SLEEP, until CYCLES of its core stands at a count (04 R98). -/
  | asleep (cycles : Nat)
  /-- BAR after its arrival, or BARW: scope, barrier number, and the phase bit that must change (06 R134). -/
  | bar (scope num : Nat) (phase : Bool)
  /-- BRWAIT: barrier register, result predicate, and the phase that must change (11 R242). -/
  | brwait (b pr : Nat) (phase : Bool)
  /-- QPOP after its claim: stream, slot and result pair (11 R248). -/
  | qpop (q slot d : Nat)
  /-- SAVE or REST: the launch and the status register (15 R338). -/
  | save (seq d : Nat)
  | rest (seq d : Nat)
  /-- TEPI in KV-append mode, until the Eland die answers (17 R357). -/
  | append
  /-- HDEL, until every home has performed it (10 R226). -/
  | hdel (region : Nat)
deriving DecidableEq, Repr

/-- A load-class result that later instructions await (01 R22, 09 R204). -/
structure Pending where
  uid : Nat
  /-- Vector registers with the value and tag to be written. -/
  vregs : List (Nat × W32 × Tag)
  /-- An x register with its value (ATOM with AM = 1). -/
  xregs : List (Nat × Word)
  /-- The values are fixed; an atomic is not ready until it is performed. -/
  ready : Bool
  /-- Counted on LD; TRDV is not. -/
  counted : Bool
deriving DecidableEq, Repr

/-- A herd request of a thread that has not completed (10 R221, R227). -/
structure HPend where
  uid : Nat
  fn : Nat
  d : Nat
  /-- Tuple registers that a match writes. -/
  nregs : Nat
  ps : Nat
  xs : Option Nat
  /-- The home of the request: its region and kind (10 R213). -/
  region : Nat := 0
  kind : Word := 0
  /-- The word that sent it; 0 for one sent anew at a restore. -/
  pc : Word := 0
deriving DecidableEq, Repr

/-- A command recorded with its thread (15 R335). -/
structure Reissue where
  kind : Nat
  words : List Word
  /-- A herd record: its place in the order in which the requests of its team had parked (15 R332). -/
  park : Nat := 0
  /-- It failed translation when it was re-issued, and stopped its thread, not the word at PC (15 R337). -/
  failed : Bool := false
deriving DecidableEq, Repr

/-- A thread (01 R8, R12-R17). Predicate bits are p0 to p6. -/
structure Thread where
  pc : Word := 0
  v : List W32 := []
  tags : List Tag := []
  p : BitVec 7 := 0
  fpmode : BitVec 3 := 0
  skew : BitVec 4 := 0
  priv : Bool := false
  trapCause : Word := 0
  trapPc : Word := 0
  trapVa : Word := 0
  saveBase : Word := 0
  preempt : Word := 0
  /-- Outstanding counters LD, ST, AS and MX (09 R204). -/
  cntLd : Nat := 0
  cntSt : Nat := 0
  cntAs : Nat := 0
  cntMx : Nat := 0
  /-- Cross-thread sequence count (06 R122). -/
  xseq : W32 := 0
  /-- Handler mode (15 R323). -/
  hnd : Bool := false
  run : RunState := .running
  wait : Wait := .none
  pend : List Pending := []
  herd : List HPend := []
  /-- Commands recorded with the thread: AS records in issue order, then herd records (15 R335, R337). -/
  reissue : List Reissue := []
  /-- It had exited before a recorded command of it failed (15 R337). -/
  finished : Bool := false
  /-- The VA of a dropped link write not yet reported (18 R380). -/
  linkFail : Option Word := none
  /-- AS operations issued, for the issue order of 15 R335. -/
  issues : Nat := 0
  /-- Vector registers in which an uncorrectable error stands; true when it has been found and poisoned (07 R161, R162). -/
  flaws : List (Nat × Bool) := []
  /-- Entries of its core's store queue with a smaller number precede the word that waits for them, or its end: set when
  that wait begins, so that what other threads store later does not hold it (05 R105, log 105). -/
  since : Option Nat := none
deriving DecidableEq, Repr

/-- A barrier register (11 R237). -/
structure BarReg where
  valid : Bool := false
  phase : Bool := false
  ea : Nat := 0
  ra : Nat := 0
  rb : Int := 0
  eb : Nat := 0
deriving DecidableEq, Repr

/-- A contiguous run of locations. -/
structure Extent where
  loc : Nat
  len : Nat
deriving DecidableEq, Repr

/-- The operand record of a convergence phase (06 R136). -/
structure ConvRec where
  mmas : Bool
  a : Word
  b : Word
  c : Word
deriving DecidableEq, Repr

/-- A convergence register (06 R136). `scale` is the translation made by the last signer, and `priv` its privilege (12
R266). -/
structure ConvReg where
  valid : Bool := false
  phase : Bool := false
  first : Nat := 0
  count : Nat := 0
  signed : List Nat := []
  opRec : Option ConvRec := none
  scale : List Extent := []
  priv : Bool := false
deriving DecidableEq, Repr

/-- A stream register (11 R245) with the claims of QPOP not yet returned (R248). -/
structure StreamReg where
  valid : Bool := false
  desc : Word := 0
  f : Nat := 0
  p : Nat := 0
  r : Nat := 0
  claims : List (Nat × Nat) := []
deriving DecidableEq, Repr

/-- A hardware barrier (06 R132): the members that have arrived in the current phase, and the phase bit. -/
structure HwBar where
  arrived : List TRef := []
  phase : Bool := false
deriving DecidableEq, Repr

/-- One member's arrival at a cross-thread instance (06 R123, R124). -/
structure Arrival where
  tid : Nat
  active : Bool
  op : Nat
  fn : Nat
  fields : Fields
  /-- The A value, SHFL's B value, and VOTE's predicate bit. -/
  val : W32
  lane : W32
  bit : Bool
  /-- The tag of A with the planes its value was read from (03 R67). -/
  tag : Tag := {}
deriving DecidableEq, Repr

/-- A cross-thread instance under way in a lane group, or a failed one (06 R125). -/
structure Instance where
  group : Nat
  count : W32
  arrivals : List Arrival := []
  failed : Option Nat := none
  /-- Members that have raised COLLECTIVE from it. -/
  raised : List Nat := []
deriving DecidableEq, Repr

/-- A command in a cluster's reservation table (12 R271), with what it captured at its place in the tile order
(R256). `extents` holds one list per row or plane. -/
structure TileCmd where
  uid : Nat
  cluster : Nat
  team : Nat
  tid : Nat
  fn : Nat
  d : Nat
  sp : Bool
  words : List Word
  descs : List Word
  tags : List Tag
  extents : List (List Extent)
  /-- TREF: planes already held; TLDP and TREF: planes wanted. -/
  arg : List Nat
  /-- Signers whose MX counts drop; else the issuer (12 R267). -/
  signers : List Nat
  passes : Nat := 0
  skipped : Nat := 0
  migrated : Option Nat := none
  done : Bool := false
  /-- KV append: the sequence, the blocks it has reserved as (position, WMASK bit), and the pages (17 R357). -/
  kv : Option Nat := none
  issue : Nat
  mark : Nat
  priv : Bool
  blocks : List (Nat × Nat) := []
  pages : List Nat := []
deriving DecidableEq, Repr

/-- A write to an x register that the team does not see yet (05 R109): its thread, register and value, or the number of
the operation whose result it will be. -/
structure XWrite where
  tid : Nat
  reg : Nat
  val : Word
  of : Option Nat := none
deriving DecidableEq, Repr

/-- A resident, saved or retired team (05 R107-R112). Its number is its place in `teams`. -/
structure Team where
  seq : Nat
  index : Nat
  core : Nat
  rdw : Word
  /-- Placed and neither retired nor saved. -/
  live : Bool := true
  x : List Word := List.replicate 64 0
  /-- x writes not yet visible, each thread's in its program order (05 R109 rule 5). -/
  xpend : List XWrite := []
  fpst : FpFlags := 0
  /-- x registers in which an uncorrectable error stands, as for a thread's vector registers (07 R161, R162). -/
  xflaws : List (Nat × Bool) := []
  bars : List BarReg := List.replicate 16 {}
  convs : List ConvReg := List.replicate 8 {}
  strms : List StreamReg := List.replicate 8 {}
  tdesc : List Word := List.replicate 64 0
  ttag : List Tag := List.replicate 64 {}
  hbars : List HwBar := List.replicate 4 {}
  instances : List Instance := []
  /-- Offsets of the partitions in their arrays (07 R149, 12 R250). -/
  scrBase : Nat := 0
  extBase : Nat := 0
  tileBase : Nat := 0
  /-- When it was placed or restored: a later one has a larger number (14 R307). -/
  order : Nat := 0
  /-- Tile commands withdrawn by a pre-emption, in tile order (15 R330). -/
  withdrawn : List TileCmd := []
  threads : List Thread := []
deriving DecidableEq, Repr

/-- What an entry of a core's store queue does (08 R168, R176, R178). -/
inductive QWhat
  | write (bytes : List Host.Cell)
  /-- An atomic or reduction: operation and type of 09 R201, location, operand, compare value. -/
  | rmw (op ty : Nat) (loc : Nat) (v cmp : Word) (cas : Bool) (ret : Bool)
  | fence
deriving DecidableEq, Repr

/-- An entry of a core's store queue. -/
structure QEntry where
  uid : Nat
  core : Nat
  who : TRef
  va : Word
  what : QWhat
  /-- It has left the queue's head: the core's other threads see it (08 R168). -/
  left : Bool := false
  /-- It is a release, or follows nothing that may pass it (08 R171). -/
  rel : Bool := false
  /-- A returning atomic with an acquire: the thread's later accesses wait for it (08 R171). `wide` when its scope is
  cluster or wider, so that its core's L1 lines go (R170). -/
  acq : Bool := false
  wide : Bool := false
  /-- The reduction into which it has merged (08 R179). -/
  host : Option Nat := none
  /-- Of a PST, the addresses of its planes, two bytes at each. -/
  planes : List Word := []
deriving DecidableEq, Repr

/-- A line held by an L1 data cache (07 R154): the location of its first byte and its 128 bytes. -/
structure L1Line where
  core : Nat
  loc : Nat
  bytes : List Byte
  /-- Granules of the line, as location / 8, in which an uncorrectable error stands (07 R161, R162). -/
  flaws : List (Nat × Bool) := []
deriving DecidableEq, Repr

/-- A fetch line held by an instruction cache: 16 words (02 R45). -/
structure ILine where
  core : Nat
  pa : Nat
  words : List Word
  /-- An uncorrectable error stands in it (07 R161, R162). -/
  flaw : Option Bool := none
deriving DecidableEq, Repr

/-- A line that an L2 slice holds: its number, location / 128, and its plane index, 0 to 17 (07 R160). -/
structure L2Line where
  line : Nat
  plane : Nat
deriving DecidableEq, Repr

/-- The L2 slices (07 R155, R160): the lines they hold, and how many fills they have made. -/
structure L2 where
  lines : List L2Line := []
  fills : Nat := 0
deriving DecidableEq, Repr

/-- A translation cached by a core (07 R148): an entry of a context's table at a level, by its index path. -/
structure TlbEntry where
  core : Nat
  troot : Nat
  lvl : Nat
  path : Nat
  entry : Nat
deriving DecidableEq, Repr

/-- A launch's place in pre-emption (15 R328). FORCING is over within the event that enters it: every thread stops at
once, and the launch is QUIESCING after it. -/
inductive PreState
  | running
  | draining
  | quiescing
  | saved
  | restoring
deriving DecidableEq, Repr

/-- Who asked for a pre-emption and into which area (15 R326). -/
inductive PreAgent
  | none
  | thread (r : TRef) (d : Nat)
  | td
  | host
deriving DecidableEq, Repr

/-- What one team holds or reserves: its index, its core, and the offsets of its partitions (05 R116, R117). -/
structure Claim where
  index : Nat
  core : Nat
  scr : Nat
  ext : Nat
  tile : Nat
deriving DecidableEq, Repr

/-- A launch record (14 R308) with what the take fixed. -/
structure Launch where
  seq : Nat
  tuple : List Word
  kind : Nat
  ctx : Nat
  troot : Nat
  priv : Bool
  slot : Nat
  die : Nat
  /-- ECLS at the take (14 R307). -/
  cls : Nat
  /-- The parameter address given to x0 (14 R306, R311). -/
  x0 : Word
  ret : Nat := 0
  /-- The launch still occupies its dispatch slot (14 R303). -/
  hasSlot : Bool := true
  /-- Team indices placed so far. -/
  placed : List Nat := []
  /-- Blocks granted to the die that did not own them (16 R350). -/
  stolen : List Nat := []
  /-- What is reserved for teams not yet placed of a cooperative launch (05 R120). -/
  reserved : List Claim := []
  cancelled : Bool := false
  ended : Bool := false
  pre : PreState := .running
  agent : PreAgent := .none
  /-- Only this team, or its cluster group, is the unit of pre-emption: its team index (15 R326). -/
  onlyTeam : Option Nat := none
  /-- The drain limit of the pre-emption, in TD cycles (15 R326). -/
  limit : Nat := 0
  area : Nat := 0
  /-- The area taken from the firmware pool: base and size (15 R331). -/
  pool : Option (Nat × Nat) := none
  /-- Which free image TDIMG holds (15 R331). -/
  image : Nat := 0
  /-- Saved teams not yet restored. -/
  saved : List Nat := []
  lbar : HwBar := {}
  /-- Cluster-scope barriers by cluster group (06 R132). -/
  cbars : List (Nat × HwBar) := []
  /-- Retirements on the other stack not yet reported: team numbers (16 R351). -/
  reports : List Nat := []
deriving DecidableEq, Repr

/-- A herd region (10 R208-R210). -/
structure Region where
  num : Nat
  ordered : Bool
  scope : Nat
  size : Nat
  backing : Nat
  cdie : Nat
deriving DecidableEq, Repr

/-- A stored tuple (10 R211, R214): its arrival number when visible, and its deposit's place. -/
structure HTuple where
  region : Nat
  fields : List Word
  pending : Nat
  arr : Nat
  dep : Nat
deriving DecidableEq, Repr

/-- What a herd request asks (10 R218, R225). -/
inductive HOp
  | dep (pending : Nat) (tryForm : Bool)
  | cpy (tryForm : Bool)
  | tak (tryForm : Bool)
  | dec
  | can (target : Nat)
deriving DecidableEq, Repr

/-- Who made a herd request. -/
inductive HSrc
  | thread (r : TRef)
  /-- The fault unit's deposit of a fault record, and its take of a resume tuple (15 R319). -/
  | record
  | fu (fid : Nat)
  /-- A deposit or region window (14 R301, 18 R373), written by a host agent of this channel, or by a remote device. -/
  | window (isRegion : Bool) (num : Nat) (agent : Option Nat)
  /-- A page freed by the Eland die (17 R354). -/
  | eland
deriving DecidableEq, Repr

/-- A herd request on its way, parked or waiting (10 R213, R217). -/
structure HReq where
  uid : Nat
  src : HSrc
  op : HOp
  region : Nat
  fields : List Word
  pat : W32
  handle : Word
  core : Nat
  /-- Store-queue entries with a smaller number precede it (10 R227). -/
  mark : Nat
deriving DecidableEq, Repr

/-- A completion on its way back (10 R221). -/
structure HDone where
  uid : Nat
  src : HSrc
  op : HOp
  region : Nat
  code : Nat
  fields : List Word
deriving DecidableEq, Repr

/-- The herd (10). -/
structure Herd where
  regions : List Region := []
  tuples : List HTuple := []
  parked : List HReq := []
  waiting : List HReq := []
  flying : List HReq := []
  done : List HDone := []
  arrivals : Nat := 0
  /-- Runs of page numbers, first and count: tuples of kind 0 of the free-page region that START deposited and nothing
  has taken, older than every tuple of `tuples` (17 R354, 18 R381). -/
  pages : List (Nat × Nat) := []
  /-- Tuples that stood in a region when a software access wrote its backing range, by their deposits' places, and whether
  one wrote that of the free pages that START deposited (10 R226). -/
  touched : List Nat := []
  pagesTouched : Bool := false
  /-- Stored tuples in which an uncorrectable error stands, by their deposits' places; true when it has been found and
  poisoned (07 R161, R162). -/
  flaws : List (Nat × Bool) := []
deriving DecidableEq, Repr

/-- One byte range of a copy with its barrier register (11 R233, R236). `landed` has a bit per 16 bytes. -/
structure CopyPlane where
  bar : Option Nat
  src : List Extent
  dst : List Extent
  len : Nat
  landed : Nat := 0
deriving DecidableEq, Repr

/-- A copy command (11 R230). -/
structure CopyCmd where
  uid : Nat
  who : TRef
  kind : Nat
  planes : List CopyPlane
  started : Bool := false
  words : List Word
  spd : Bool
  sps : Bool
  nb : Bool
  bar : Nat
  strm : Nat
  issue : Nat
  mark : Nat
  priv : Bool
deriving DecidableEq, Repr

/-- A queued SMPL (13 R283). -/
structure SmplCmd where
  uid : Nat
  who : TRef
  bar : Option Nat
  bf16 : Bool
  verify : Bool
  logits : Word
  ssr : List Extent
  result : List Extent
  issue : Nat
  mark : Nat
  priv : Bool
  /-- An uncorrectable error in the sampler's SRAM has met it (07 R161, R162). -/
  flaw : Bool := false
deriving DecidableEq, Repr

/-- An accepted attention command (17 R360); after its gate, BASE and the pages it reads (R362, R363). -/
structure AttnCmd where
  uid : Nat
  who : TRef
  tree : Bool
  bar : Option Nat
  query : Word
  recVa : Word
  recExt : List Extent
  /-- HD of the sequence at acceptance. -/
  hd : Nat
  gate : Option (Nat × List Nat) := none
  gone : Bool := false
  issue : Nat
  mark : Nat
  priv : Bool
  /-- An uncorrectable error in the Eland SRAM has met it (07 R161, R162). -/
  flaw : Bool := false
deriving DecidableEq, Repr

/-- A chain (17 R355): its pages in order of PBASE, LEN and BASE. -/
structure Chain where
  pages : List Nat := []
  len : Nat := 0
  base : Nat := 0
deriving DecidableEq, Repr

/-- An accepted append that a save area holds: launch and team index, its place among the team's tile records, its
chain, and the blocks and pages it has reserved (17 R358). -/
structure SavedAppend where
  seq : Nat
  index : Nat
  place : Nat
  layer : Nat
  head : Nat
  blocks : List (Nat × Nat)
  pages : List Nat
deriving DecidableEq, Repr

/-- An open sequence record (17 R355, R364). -/
structure SeqRec where
  num : Nat
  ctx : Nat
  nl : Nat
  nh : Nat
  hd : Nat
  npl : Nat
  w0 : Nat := 0
  window : List (Nat × Nat) := []
  chains : List Chain
  /-- Accepted appends that save areas hold (17 R358). -/
  saved : List SavedAppend := []
deriving DecidableEq, Repr

/-- An outstanding fault record (15 R319-R321). -/
structure FaultRec where
  fid : Nat
  ctx : Nat
  page : Option Nat
deriving DecidableEq, Repr

/-- A record whose resume tuple has been taken: it is outstanding no more, and no later fault joins it (15 R321). -/
def FaultRec.closed (fid : Nat) (r : FaultRec) : FaultRec := if r.fid = fid then { r with page := none } else r

/-- A resume tuple the fault unit has taken and not yet applied (15 R322, R324). -/
structure Resume where
  fid : Nat
  action : Word
  handler : Word
deriving DecidableEq, Repr

/-- The fault unit (15 R319). -/
structure FaultUnit where
  next : Nat := 1
  records : List FaultRec := []
  resumes : List Resume := []
deriving DecidableEq, Repr

/-- A work-table entry (14 R310, R311); one not listed holds the reset values. -/
structure WorkEntry where
  level : Nat
  id : Nat
  completed : Nat := 0
  infl : Nat := 0
  can : Bool := false
  ctx : Nat := 0
  pb0 : Word := 0
  pb1 : Word := 0
  sz : Word := 0
  inf0 : Nat := 0
  inf1 : Nat := 0
  n : Nat := 0
deriving DecidableEq, Repr

/-- A queue descriptor (14 R298); a kind not listed holds zero. -/
structure QDesc where
  kind : Nat
  w0 : Word
  w1 : Word
deriving DecidableEq, Repr

/-- DROPS and BAD of a window (14 R301, 18 R373); a window not listed holds zero. -/
structure WindowCount where
  isRegion : Bool
  num : Nat
  drops : W32
  bad : W32
deriving DecidableEq, Repr

/-- An error or ring record (18 R384). -/
structure LogRec where
  kind : Nat
  unitNo : Nat
  cycles : Word
  d0 : Word
  d1 : Word
deriving DecidableEq, Repr

/-- A log or ring: records ever written, and the last 4,096 of them, oldest first (18 R384). -/
structure Log where
  count : Nat := 0
  recs : List LogRec := []
deriving DecidableEq, Repr

/-- What the host reads and writes (18 R372-R376, R383, R384). -/
structure HostPart where
  qdescs : List QDesc := []
  work : List WorkEntry := []
  windows : List WindowCount := []
  /-- PRE and RES as read, and the launches they wait for. -/
  pre : Word := 0
  res : Word := 0
  preSeq : Option Nat := none
  resSeq : Option Nat := none
  lastPre : Option Nat := none
  kvx : Word := 0
  kvxa : Word := 0
  nonce : List Word := List.replicate 8 0
  report : List Byte := []
  /-- The nonce of the report being produced. -/
  producing : Option (List Word) := none
  resv : Option Reservation := none
  elogs : List Log := [{}, {}, {}]
  rings : List Log := [{}, {}, {}]
deriving DecidableEq, Repr

/-- Boot and status (18 R375, R381, R382, R387), and the UALink ports (R378, R379). -/
structure Boot where
  stage : Nat := 0
  fail : Bool := false
  fcode : Nat := 0
  ready : Bool := false
  warm : Bool := false
  fwver : BitVec 16 := 0
  /-- The header of the running firmware (18 R382, R383). -/
  header : List Byte := []
  /-- The fuse rollback counter: no reset changes it. -/
  fuse : BitVec 16 := 0
  ports : List Nat := []
  device : Option Nat := none
  /-- The whole package is held after the trip limit. -/
  held : Bool := false
deriving DecidableEq, Repr

/-- A column's telemetry record (16 R345); a column not listed holds zeros. -/
structure ColumnRec where
  column : Nat
  sno : Word
  sample : ColumnSample
  thr : BitVec 4
deriving DecidableEq, Repr

/-- Columns: records, layers throttled since the last sample, and layers held at the critical limit (16 R343). -/
structure Columns where
  records : List ColumnRec := []
  throttled : List (Nat × BitVec 4) := []
  critical : List (Nat × Nat) := []
deriving DecidableEq, Repr

/-- What a request over a link asks (18 R378, R379): a write of its bytes, a read of so many, or an atomic whose operand they
are. -/
inductive OutKind
  | write
  | read (len : Nat)
  | atomic (op ty : Nat) (cmp : Word) (compare returning : Bool)
deriving DecidableEq, Repr

/-- A request that has left the device for a remote device or the host (18 R374, R379). -/
structure OutReq where
  loc : Nat
  bytes : List Byte
  kind : OutKind
deriving DecidableEq, Repr

/-- A response to a request of a remote device, or to a host agent's read at an offset of the window space (18 R372, R378):
its bytes, or that it ends in an error. -/
structure LinkAnswer where
  loc : Nat
  bytes : List Byte
  atomic : Bool
  error : Bool := false
  /-- The channel of the host agent. -/
  agent : Option (BitVec 6) := none
deriving DecidableEq, Repr

/-- A move that is no row of the table: a cache takes or drops a copy, the store queue advances, reductions merge, an
array corrects an error or gets one it cannot correct, a damaged backing record is discarded, a link read fails, the host
reads the window space (07 R154, R161, 08 R168, R179, 10 R226, 18 R372, R380). -/
inductive Silent
  | fillL1 (core loc : Nat)
  | dropL1 (core loc : Nat)
  | fillLine (core pa : Nat)
  | dropLine (core pa : Nat)
  | fillL2 (loc : Nat)
  | fillTlb (core troot lvl path : Nat)
  | walkTlb (core troot lvl path : Nat)
  | dropTlb (core troot lvl path : Nat)
  | advance (core : Nat)
  | merge (uid into : Nat)
  | corrected (die unitNo : Nat) (detail : Word)
  | damage (site : ErrSite)
  | backingLost (dep die unitNo : Nat)
  | pageLost (pn die unitNo : Nat)
  | readFails
  | hostRead (ag : HostAgent) (off len : Nat)
deriving DecidableEq, Repr

/-- A move of the agenda: a thread's next word, an event of another agent, or a silent move. -/
inductive Move
  | thread (r : TRef)
  | event (i : Instr)
  | silent (m : Silent)
deriving DecidableEq, Repr

/-- The whole machine. `planeReads`, `agenda`, `cur`, `turn`, `free` and `uid` are the model's own (logs 2, 88). -/
structure State where
  mem : List Host.Cell := []
  /-- Poisoned 64-bit granules, as location / 8 (07 R162). -/
  poison : List Nat := []
  /-- Poisoned bytes of tile files, as locations (12 R269). -/
  tilePoison : List Nat := []
  /-- Granules, as location / 8, in which an uncorrectable error stands that nothing has found yet (07 R161). -/
  errors : List Nat := []
  retained : List ArrayUnit := []
  teams : List Team := []
  queue : List QEntry := []
  l1 : List L1Line := []
  l2 : L2 := {}
  icache : List ILine := []
  tlb : List TlbEntry := []
  /-- CYCLES of each core that has been read (01 R16). -/
  clocks : List (Nat × Nat) := []
  launches : List Launch := []
  /-- The launch sequence counter (14 R304). -/
  nextSeq : Nat := 1
  /-- The (slot, kind) each die took from last (14 R304). -/
  lastTake : List (Nat × Nat) := [(0, 0), (0, 0)]
  herd : Herd := {}
  fu : FaultUnit := {}
  copies : List CopyCmd := []
  tiles : List TileCmd := []
  smpls : List SmplCmd := []
  attns : List AttnCmd := []
  /-- KV appends that the Eland die has not yet answered (17 R357). -/
  appends : List TileCmd := []
  seqs : List SeqRec := []
  hst : HostPart := {}
  boot : Boot := {}
  cols : Columns := {}
  outbound : List OutReq := []
  /-- Responses to the requests of remote devices: address and bytes (18 R378, R379). -/
  answers : List LinkAnswer := []
  /-- The values that plane loads and refines have given (03 R67); the model's own. -/
  planeReads : List PlaneRead := []
  /-- The firmware's drain limit (15 R326). -/
  drainLimit : Nat := 2 ^ 20
  /-- The next read over UALink fails after retry (18 R380). -/
  readFail : Bool := false
  agenda : List Move := []
  cur : Option TRef := none
  turn : Nat := 0
  free : Nat := 0
  uid : Nat := 0
deriving DecidableEq, Repr

/-- Every register at its reset value, and nothing recorded. -/
def State.cleared : State := {}

/-- A ring that holds the record of the reset (18 R384); its unit and detail are zero (log 13). -/
def resetRing (n : Nat) : Log := ⟨1, [⟨9, 0, Config.recordCycles n, 0, 0⟩]⟩

/-- Right after a cold reset (18 R381, R384): the boot at stage 0, no launch, no team, memory with nothing listed, the
logs cleared, and in each ring the record of the reset. -/
def State.reset : State :=
  { State.cleared with hst := { rings := [resetRing 0, resetRing 1, resetRing 2] }, free := 3 }

end Sys2Proof.Machine
end

