-- ==== Sys2Proof/Machine/Memory.lean ====
section
/-! DEFINITION. Memory: the list of bytes in its one canonical form, and the numbers of the locations of every array.
A byte that is not listed reads zero, as MEMINIT leaves every array (18 R381). -/

namespace Sys2Proof.Machine

/-- The byte at a location. -/
def memGet : List Host.Cell → Nat → Byte
  | [], _ => 0
  | (k, b) :: m, a => if k = a then b else memGet m a

/-- A write of one byte, keeping the locations rising and zero bytes unlisted. -/
def memSet : List Host.Cell → Nat → Byte → List Host.Cell
  | [], a, b => if b = 0 then [] else [(a, b)]
  | (k, c) :: m, a, b =>
    if a < k then (if b = 0 then (k, c) :: m else (a, b) :: (k, c) :: m)
    else if a = k then (if b = 0 then m else (a, b) :: m)
    else (k, c) :: memSet m a b

/-- Writes of several bytes, in order. -/
def memSetAll : List Host.Cell → List Host.Cell → List Host.Cell
  | m, [] => m
  | m, (a, b) :: ws => memSetAll (memSet m a b) ws

/-- Every location of a list lies above a bound, they rise, and no listed byte is zero. -/
def memAbove : Nat → List Host.Cell → Bool
  | _, [] => true
  | lo, (k, b) :: m => decide (lo ≤ k) && (b != 0) && memAbove (k + 1) m

/-- The canonical form: locations strictly rising, no entry equal to what an unlisted location reads as. -/
def Memory.wf (m : List Host.Cell) : Bool := memAbove 0 m

/-- The bytes from a location on. -/
def memBytes (m : List Host.Cell) (a : Nat) : Nat → List Byte
  | 0 => []
  | n + 1 => memGet m a :: memBytes m (a + 1) n

/-- A little-endian value of `n` bytes (00 R4). -/
def memNat (m : List Host.Cell) (a n : Nat) : Nat := leNat (memBytes m a n)

/-- Consecutive bytes as cells. -/
def cellsAt (a : Nat) : List Byte → List Host.Cell
  | [] => []
  | b :: bs => (a, b) :: cellsAt (a + 1) bs

/-- A write of consecutive bytes. -/
def memPut (m : List Host.Cell) (a : Nat) (bs : List Byte) : List Host.Cell := memSetAll m (cellsAt a bs)

/-- The installed compute HBM, 768 GiB (07 R142); the Eland HBM, 256 GiB (00). -/
def hbmSize : Nat := 0xC000000000
def elandSize : Nat := 0x4000000000

/-- Location numbers: compute HBM bytes stand at their physical addresses, and every other array above 2^56. -/
def scratchLoc (core off : Nat) : Nat := 2 ^ 56 + core * 2 ^ 20 + off
def tileLoc (cluster off : Nat) : Nat := 2 ^ 57 + cluster * 2 ^ 20 + off
def elandLoc (addr : Nat) : Nat := 2 ^ 58 + addr
def hostLoc (addr : Nat) : Nat := 2 ^ 59 + addr
def remoteLoc (dev addr : Nat) : Nat := 2 ^ 60 + dev * 2 ^ 52 + addr
def telemetryLoc (off : Nat) : Nat := 2 ^ 63 + off

/-- The location lies outside the device: at the host or at a remote device. -/
def isOutside (loc : Nat) : Bool := decide (2 ^ 59 ≤ loc) && decide (loc < 2 ^ 63)
def isRemote (loc : Nat) : Bool := decide (2 ^ 60 ≤ loc) && decide (loc < 2 ^ 63)
def isTelemetry (loc : Nat) : Bool := decide (2 ^ 63 ≤ loc)
/-- The location is a compute HBM byte, which an L1 may hold (07 R154). -/
def isHbm (loc : Nat) : Bool := decide (loc < 2 ^ 56)

/-- The dispatch threshold of a stack: the same in every record of it, zero before its first sample (16 R345). -/
def stackThreshold (s : State) (stack : Nat) : W32 :=
  ((s.cols.records.find? fun r => r.column / 384 == stack).map fun r => r.sample.dthr).getD 0

/-- The telemetry record of a column, zeros but for the threshold before its first sample (16 R345). -/
def columnRec (s : State) (column : Nat) : ColumnRec :=
  (s.cols.records.find? fun r => r.column == column).getD
    ⟨column, 0, { tbase := 0, tcore0 := 0, tcore1 := 0, tcache := 0, draw := 0, budget := 0, share := 0,
                  dthr := stackThreshold s (column / 384) }, 0⟩

/-- A temperature word as its reader sees it (16 R345, R347). -/
def temperature (priv : Bool) (t : BitVec 16) : Nat :=
  if priv then t.toNat else (t &&& 0xFFF0#16).toNat

/-- The 64 bytes of a column record (16 R345, R347). -/
def columnBytes (priv : Bool) (r : ColumnRec) : List Byte :=
  let t (x : BitVec 16) : List Byte := leBytes 4 (temperature priv x)
  leBytes 8 r.sno.toNat ++ t r.sample.tbase ++ t r.sample.tcore0 ++ t r.sample.tcore1 ++ t r.sample.tcache ++
  leBytes 4 r.sample.draw.toNat ++ leBytes 4 r.sample.budget.toNat ++ leBytes 4 r.sample.share.toNat ++
  leBytes 4 r.thr.toNat ++ leBytes 4 r.sample.dthr.toNat ++ leBytes 20 0

/-- The byte of telemetry space at an offset (16 R344). -/
def telemetryByte (s : State) (priv : Bool) (off : Nat) : Byte :=
  let stack := off / 0x8000
  let within := off % 0x8000
  if within < 0x6000 then (columnBytes priv (columnRec s (384 * stack + within / 64))).getD (within % 64) 0 else 0

/-- The byte at a location's home (08 R169), for a reader with a privilege; `n` numbers the free values of bytes
outside the device (log 1). -/
def homeByte (s : State) (priv : Bool) (n loc : Nat) : Byte :=
  if isTelemetry loc then telemetryByte s priv (loc - 2 ^ 63)
  else if isOutside loc then Config.outsideByte (s.free + n)
  else memGet s.mem loc

/-- The bytes of a list of locations at their homes. -/
def homeBytes (s : State) (priv : Bool) : Nat → List Nat → List Byte
  | _, [] => []
  | n, l :: ls => homeByte s priv n l :: homeBytes s priv (n + 1) ls

/-- The locations of a run, and of several. -/
def Extent.locs (e : Extent) : List Nat := (List.range e.len).map (e.loc + ·)
def extentLocs (l : List Extent) : List Nat := l.flatMap Extent.locs

/-- The location is in a scratchpad or a column extension, or in a tile file. -/
def isScratch (loc : Nat) : Bool := decide (2 ^ 56 ≤ loc) && decide (loc < 2 ^ 57)
def isTile (loc : Nat) : Bool := decide (2 ^ 57 ≤ loc) && decide (loc < 2 ^ 58)

/-- Nothing is poisoned. -/
def State.unpoisoned (s : State) : Bool := s.poison.isEmpty && s.tilePoison.isEmpty

/-- The byte at a location is poisoned: its granule (07 R162), or in a tile file the byte itself (12 R269). -/
def State.poisoned (s : State) (loc : Nat) : Bool := s.poison.contains (loc / 8) || s.tilePoison.contains loc

/-- A byte of a range is poisoned. -/
def anyPoison (s : State) (locs : List Nat) : Bool := !s.unpoisoned && locs.any s.poisoned

/-- The granules of a list of locations. -/
def granulesOf (locs : List Nat) : List Nat := (locs.map (· / 8)).eraseDups

/-- Locations marked poisoned: their granules, and in a tile file the bytes. -/
def State.poisonAt (s : State) (locs : List Nat) : State :=
  let gs := granulesOf (locs.filter fun l => !isTile l)
  let bytes := locs.filter isTile
  { s with
    poison := gs ++ s.poison.filter fun g => !(gs.contains g)
    tilePoison := bytes ++ s.tilePoison.filter fun l => !(bytes.contains l) }

/-- The ECC sub-cause of the array that holds a location (15 R316). -/
def arraySub (loc : Nat) : Nat := if isScratch loc then 2 else if isTile loc then 4 else 3

/-- The ECC sub-cause a reader of these locations meets (07 R161, R162): a poisoned granule, or an uncorrectable error
in the array. -/
def eccSub (s : State) (locs : List Nat) : Option Nat :=
  if anyPoison s locs then some 5
  else if s.errors.isEmpty then none
  else (locs.find? fun l => s.errors.contains (l / 8)).map arraySub

/-- A granule of the locations is poisoned or uncorrectable. -/
def damaged (s : State) (locs : List Nat) : Bool := (eccSub s locs).isSome

/-- The locations of `n` bytes from one on. -/
def span (loc n : Nat) : List Nat := (List.range n).map (loc + ·)

/-! ### Retention (07 R163) -/

/-- The array unit of a location that may be in retention: of compute HBM the data array of its home slice. -/
def unitOf (loc : Nat) : Option ArrayUnit :=
  if isScratch loc then
    let off := loc % 2 ^ 20
    let core := (loc - 2 ^ 56) / 2 ^ 20
    some (if off < 0x20000 then .scratchBanks core (off / 4 % 32 / 8) else .extension core)
  else if isTile loc then some (.tileFile ((loc - 2 ^ 57) / 2 ^ 20))
  else if isHbm loc then some (.l2Slice (Config.homeSlice (loc / 128) % 320))
  else none

/-- An access to these locations waits for an array to leave retention. -/
def sleeping (s : State) (locs : List Nat) : Bool :=
  !s.retained.isEmpty && locs.any fun l => (unitOf l).any (s.retained.contains ·)

/-- An access of a unit outside the cores to these locations: what it meets in retention leaves it (log 32). -/
def State.wake (s : State) (locs : List Nat) : State :=
  if s.retained.isEmpty then s
  else { s with retained := s.retained.filter fun u => !(locs.any fun l => unitOf l == some u) }

/-- Every L2 slice has left retention: a walk of such a unit met one (log 32). -/
def State.wakeSlices (s : State) : State :=
  { s with retained := s.retained.filter fun u =>
      match u with
      | .l2Slice _ => false
      | _ => true }

/-- A bank of a core that holds one of these vector registers is in retention (02 R37). -/
def sleepingBanks (s : State) (core : Nat) (vs : List Nat) : Bool :=
  !s.retained.isEmpty && vs.any fun n => s.retained.contains (.registerBank core (n % 6))

/-- A unit outside the core writes these vector registers: their banks leave retention (log 32). -/
def State.wakeBanks (s : State) (core : Nat) (vs : List Nat) : State :=
  if s.retained.isEmpty then s
  else { s with retained := s.retained.filter fun u => !(vs.any fun n => u == .registerBank core (n % 6)) }

/-! ### The L2 slices (07 R155, R160) -/

/-- Two lines of compute HBM share a slice and a set. -/
def sameSet (x y : Nat) : Bool :=
  Config.homeSlice x % 320 == Config.homeSlice y % 320 && Config.homeSet x % 1024 == Config.homeSet y % 1024

/-- The lines that stay when one more is taken: a full set of 16 evicts one of those with the highest plane index. -/
def L2.makeRoom (c : L2) (line : Nat) : List L2Line :=
  let peers := c.lines.filter fun x => sameSet x.line line
  let worst := peers.filter fun x => x.plane == peers.foldl (fun m y => max m y.plane) 0
  if peers.length < 16 then c.lines
  else (worst[Config.victim c.fills % worst.length]?).elim c.lines c.lines.erase

/-- A line taken from HBM with the plane index that the access names; a line that is held keeps its own. -/
def L2.fill (plane : Nat) (c : L2) (line : Nat) : L2 :=
  if c.lines.any fun x => x.line == line then c else ⟨⟨line, plane⟩ :: c.makeRoom line, c.fills + 1⟩

/-- An access to locations of compute HBM that passes L1 fills their lines at their home slices. -/
def L2.touch (c : L2) (plane : Nat) (locs : List Nat) : L2 :=
  (((locs.filter isHbm).map (· / 128)).eraseDups).foldl (L2.fill plane) c

/-- The free-page region (17 R354, 18 R381). -/
def pageRegion : Nat := 0xFFD

/-- The regions whose backing ranges a write meets (10 R226). -/
def touchedBy (h : Herd) (locs : List Nat) : List Nat :=
  (h.regions.filter fun r => locs.any fun l => decide (r.backing ≤ l) && decide (l < r.backing + r.size * 65536)).map
    Region.num

/-- A software write may damage the backing records of the tuples that stand in those regions then (10 R226). -/
def Herd.touch (h : Herd) (locs : List Nat) : Herd :=
  let rs := touchedBy h locs
  let new := (h.tuples.filter fun t => rs.contains t.region && !h.touched.contains t.dep).map HTuple.dep
  { h with touched := h.touched ++ new, pagesTouched := h.pagesTouched || rs.contains pageRegion }

/-- The granules of a list of locations all of whose eight bytes the list writes (07 R162). -/
def wholeGranules (locs : List Nat) : List Nat :=
  (granulesOf locs).filter fun g => (List.range 8).all fun i => locs.contains (8 * g + i)

/-- Cells in requests of one run of locations each, a new one at each location where `cut` says so. -/
def outRuns (cut : Nat → Bool) : List Host.Cell → List (Nat × List Byte)
  | [] => []
  | (l, b) :: ws =>
    match outRuns cut ws with
    | [] => [(l, [b])]
    | (m, bs) :: rs => if m = l + 1 ∧ !cut m then (l, b :: bs) :: rs else (l, [b]) :: (m, bs) :: rs

/-- The writes by which cells outside the device leave it: over UALink at most 256 bytes each (18 R378). -/
def outWrites (ws : List Host.Cell) : List OutReq :=
  (outRuns (fun m => isRemote m && m % 256 == 0) ws).map fun r => { loc := r.1, bytes := r.2, kind := .write }

/-- The reads by which bytes outside the device are asked for: one for each run, in aligned pieces of 16 bytes where a run is
not aligned to its length (18 R379). -/
def outReads (locs : List Nat) : List OutReq :=
  (outRuns (fun _ => false) ((locs.filter isOutside).map fun l => (l, 0))).flatMap fun r =>
    let n := r.2.length
    (outRuns (fun m => m % (if r.1 % n = 0 then 256 else 16) == 0) (cellsAt r.1 r.2)).map fun p =>
      { loc := p.1, bytes := [], kind := .read p.2.length }

/-- Bytes written at their homes: poison and errors of wholly written granules are cleared (07 R162), and the poison
of tile bytes (12 R269; DESIGN CHOICE, log 113: whatever command writes them); their lines are filled in L2 (R160), a region's
backing range may be damaged (10 R226), and bytes outside the device leave as requests (18 R379). -/
def State.writeHome (s : State) (ws : List Host.Cell) : State :=
  let inside := ws.filter fun w => !isOutside w.1
  let outside := ws.filter fun w => isOutside w.1
  let clear := if s.poison.isEmpty && s.errors.isEmpty then [] else wholeGranules (inside.map Prod.fst)
  { s with
    mem := memSetAll s.mem inside
    poison := s.poison.filter fun g => !(clear.contains g)
    tilePoison := if s.tilePoison.isEmpty then [] else s.tilePoison.filter fun l => !(inside.any fun w => w.1 == l)
    errors := s.errors.filter fun g => !(clear.contains g)
    l2 := s.l2.touch 0 (inside.map Prod.fst)
    herd := s.herd.touch (inside.map Prod.fst)
    outbound := s.outbound ++ outWrites outside }

/-- The same through a physical address of HBM that software gave: no store is there beyond the installed HBM, and those
bytes are written nowhere (log 19). -/
def State.writeHbm (s : State) (ws : List Host.Cell) : State := s.writeHome (ws.filter fun w => decide (w.1 < hbmSize))

/-- The L1 lines of a core updated by a write of its own core (07 R154). -/
def updateL1 (core : Nat) (ws : List Host.Cell) (lines : List L1Line) : List L1Line :=
  lines.map fun ln =>
    if ln.core = core then
      { ln with
        bytes := ws.foldl (fun bs w =>
          if ln.loc ≤ w.1 ∧ w.1 < ln.loc + 128 then bs.set (w.1 - ln.loc) w.2 else bs) ln.bytes
        flaws := ln.flaws.filter fun x => !((wholeGranules (ws.map Prod.fst)).contains x.1) }
    else ln

/-- The L1 lines of a core that hold any of the locations, taken anew and whole from their home (08 R166, R170). -/
def refreshL1 (m : List Host.Cell) (core : Nat) (locs : List Nat) (lines : List L1Line) : List L1Line :=
  lines.map fun ln =>
    if ln.core = core ∧ locs.any (fun l => decide (ln.loc ≤ l) && decide (l < ln.loc + 128)) then
      ⟨core, ln.loc, memBytes m ln.loc 128, []⟩
    else ln

end Sys2Proof.Machine
end

