-- ==== Sys2Proof/Machine/Ops.lean ====
section
/-! DEFINITION. The named operations on threads, teams and launches: reading and writing registers (01 R8-R10,
05 R109, R110), counters, translation (07 R139-R147), and taking and leaving a trap (01 R23, 15 R319-R323). -/

namespace Sys2Proof.Machine

/-! ### Threads and teams -/

/-- A thread of the machine. -/
def State.thread (s : State) (r : TRef) : Option Thread := (s.teams[r.team]?).bind fun t => t.threads[r.tid]?

/-- A number of the given bits from a truth value. -/
def bitNat (b : Bool) (n : Nat) : Nat := if b then 2 ^ n else 0

/-- A re-issued command stopped the thread, not the word at its PC (15 R337). -/
def Thread.owing (th : Thread) : Bool := th.reissue.any Reissue.failed

/-- The thread has exited: also one that is stopped only for a recorded command of it (05 R121, 15 R337). -/
def Thread.isOver (th : Thread) : Bool := th.run == .exited || th.finished

/-- The team with a number changed. -/
def State.modTeam (s : State) (n : Nat) (f : Team → Team) : State := { s with teams := s.teams.modify n f }

/-- A thread changed. -/
def State.modThread (s : State) (r : TRef) (f : Thread → Thread) : State :=
  s.modTeam r.team fun t => { t with threads := t.threads.modify r.tid f }

/-- Every thread of a team changed. -/
def State.modThreads (s : State) (n : Nat) (f : Thread → Thread) : State :=
  s.modTeam n fun t => { t with threads := t.threads.map f }

/-- A launch that stands for none. -/
def Launch.absent : Launch :=
  { seq := 0, tuple := [], kind := 0, ctx := 0, troot := 0, priv := false, slot := 0, die := 0, cls := 0, x0 := 0 }

/-- A launch record by its sequence number. -/
def State.launch? (s : State) (seq : Nat) : Option Launch := s.launches.find? fun l => l.seq == seq
def State.launch (s : State) (seq : Nat) : Launch := (s.launch? seq).getD Launch.absent

/-- A launch record changed. -/
def State.modLaunch (s : State) (seq : Nat) (f : Launch → Launch) : State :=
  { s with launches := s.launches.map fun l => if l.seq = seq then f l else l }

/-- CYCLES of a core, as far as anything has shown it (01 R16): its last read, or the end of a SLEEP. -/
def coreCycles (s : State) (core : Nat) : Nat := ((s.clocks.find? fun x => x.1 == core).map Prod.snd).getD 0

/-- CYCLES of a core has come to a count at least. -/
def State.passTo (s : State) (core n : Nat) : State :=
  { s with clocks := (core, max (coreCycles s core) n) :: s.clocks.filter fun x => !(x.1 == core) }

/-- A fresh number for a request, command or queue entry. -/
def State.fresh (s : State) : State := { s with uid := s.uid + 1 }

/-- The fields of a resource declaration word (05 R115). -/
structure Decl where
  size : Nat
  regs : Nat
  scr : Nat
  ext : Nat
  bars : Nat
  convs : Nat
  strms : Nat
  tile : Nat
  park : Nat
  clus : Bool
  coop : Bool
  ftz : Bool
deriving DecidableEq, Repr

/-- A resource declaration word read (05 R115); byte and entry counts in their units of one. -/
def declOf (rdw : Word) : Decl :=
  let w := rdw.toNat
  { size := bitField w 0 10 + 1, regs := bitField w 10 7 * 8 + 8, scr := bitField w 17 8 * 1024,
    ext := bitField w 25 8 * 2048, bars := bitField w 33 5, convs := bitField w 38 4, strms := bitField w 42 4,
    tile := bitField w 46 7 * 8192, park := bitField w 53 8 * 8, clus := bitAt w 61, coop := bitAt w 62,
    ftz := bitAt w 63 }

/-- What a team declared of the registers with a range (05 R108). -/
def Team.declared (t : Team) : Declared :=
  let d := declOf t.rdw
  ⟨d.regs, d.bars, d.convs, d.strms⟩

/-- The thread that executes, with its team and launch. -/
structure Cx where
  r : TRef
  t : Team
  th : Thread
  la : Launch
deriving DecidableEq, Repr

/-- A thread's view of the machine. -/
def State.viewOf (s : State) (r : TRef) : Option Cx :=
  match s.teams[r.team]? with
  | none => none
  | some t =>
    match t.threads[r.tid]? with
    | none => none
    | some th => some ⟨r, t, th, s.launch t.seq⟩

/-- The current thread's view. -/
def State.view (s : State) : Option Cx :=
  match s.cur with
  | none => none
  | some r => s.viewOf r

/-- The placement values of 16 R340. -/
def coreDie (core : Nat) : Nat := core / 384
def coreCluster (core : Nat) : Nat := core / 4
def coreStack (core : Nat) : Nat := core / 768

/-! ### Registers -/

/-- A vector register. -/
def Cx.v (c : Cx) (n : Nat) : W32 := c.th.v.getD n 0
/-- A 64-bit operand in a pair (01 R9). -/
def Cx.pair (c : Cx) (n : Nat) : Word := c.v (n + 1) ++ c.v n

/-- A register's tag. -/
def Cx.tag (c : Cx) (n : Nat) : Tag := c.th.tags.getD n {}

/-- The tag of a register into which a value is moved: cleared (07 R158); the planes that the value was read from go with
it (07 R159, 09 R199). -/
def Tag.moved (t : Tag) : Tag := { t with pval := false, pcnt := 0, sig := 0 }

/-- A thread's latest x write not yet visible (05 R109 rule 3). -/
def ownX (tid n : Nat) : List XWrite → Option Word
  | [] => none
  | w :: ws =>
    match ownX tid n ws with
    | some u => some u
    | none => if w.tid = tid ∧ w.reg = n then some w.val else none

/-- An x register as a thread of the team reads it (05 R109). -/
def Team.readX (t : Team) (tid n : Nat) : Word := (ownX tid n t.xpend).getD (t.x.getD n 0)
def Cx.x (c : Cx) (n : Nat) : Word := c.t.readX c.r.tid n

/-- A predicate; p7 reads true (01 R10). -/
def Thread.pred (th : Thread) (n : Nat) : Bool := n == 7 || th.p.getLsbD n
def Cx.p (c : Cx) (n : Nat) : Bool := c.th.pred n

/-- The guard of a word (02 R27). -/
def Cx.guard (c : Cx) (g : Guard) : Bool := c.p g.gp.toNat != g.gn

/-- A vector register written with a tag; an error that stood in it is gone (log 85). -/
def Thread.putV (th : Thread) (n : Nat) (w : W32) (tg : Tag) : Thread :=
  { th with v := th.v.set n w, tags := th.tags.set n tg, flaws := th.flaws.filter fun x => x.1 != n }

/-- A vector register written; its precision tag is cleared (07 R158). -/
def Thread.setV (th : Thread) (n : Nat) (w : W32) : Thread := th.putV n w {}

/-- Vector registers written with tags. -/
def Thread.setVs (th : Thread) : List (Nat × W32 × Tag) → Thread
  | [] => th
  | (n, w, tg) :: ws => Thread.setVs (th.putV n w tg) ws

/-- A predicate written; writes to p7 are discarded (01 R10). -/
def Thread.setP (th : Thread) (n : Nat) (b : Bool) : Thread :=
  if n < 7 then { th with p := if b then th.p ||| ((1 : BitVec 7) <<< n) else th.p &&& ~~~((1 : BitVec 7) <<< n) } else th

def State.setV (s : State) (r : TRef) (n : Nat) (w : W32) : State := s.modThread r fun th => th.setV n w
/-- A value moved into a vector register from one that has the tag `tg`: the planes it was read from go with it (03 R67). -/
def State.moveV (s : State) (r : TRef) (n : Nat) (w : W32) (tg : Tag) : State :=
  s.modThread r fun th => th.putV n w tg.moved
/-- A 64-bit result written to a pair. -/
def State.setPair (s : State) (r : TRef) (n : Nat) (w : Word) : State :=
  s.modThread r fun th => (th.setV n (w.setWidth 32)).setV (n + 1) ((w >>> 32).setWidth 32)
def State.setP (s : State) (r : TRef) (n : Nat) (b : Bool) : State := s.modThread r fun th => th.setP n b

/-- An x register written: the write issues, and becomes visible to the team later (05 R109). -/
def State.setX (s : State) (r : TRef) (n : Nat) (w : Word) : State :=
  s.modTeam r.team fun t => { t with xpend := t.xpend ++ [⟨r.tid, n, w, none⟩] }

/-- The x registers that an operation of the thread will write: no later x write of the thread shows before them (05
R109 rule 5). -/
def State.awaitX (s : State) (r : TRef) (ns : List Nat) (uid : Nat) : State :=
  s.modTeam r.team fun t => { t with xpend := t.xpend ++ ns.map fun n => ⟨r.tid, n, 0, some uid⟩ }

/-- The result of that operation is known. -/
def State.giveX (s : State) (r : TRef) (uid : Nat) (w : Word) : State :=
  s.modTeam r.team fun t =>
    { t with xpend := t.xpend.map fun x => if x.of = some uid then { x with val := w, of := none } else x }

/-- That operation will write no x register: its result is discarded. -/
def State.dropX (s : State) (r : TRef) (uid : Nat) : State :=
  s.modTeam r.team fun t => { t with xpend := t.xpend.filter fun x => x.of != some uid }

/-- An x register takes a value; an error that stood in it is gone (log 85). -/
def Team.putX (t : Team) (n : Nat) (w : Word) : Team :=
  { t with x := t.x.set n w, xflaws := t.xflaws.filter fun x => x.1 != n }

/-- The x writes of a thread become visible in order, up to the first whose value is not known. -/
def Team.flushX (t : Team) (tid : Nat) : Team :=
  let mine := t.xpend.filter fun w => w.tid == tid
  { (mine.takeWhile fun w => w.of.isNone).foldl (fun u w => u.putX w.reg w.val) t with
    xpend := (t.xpend.filter fun w => w.tid != tid) ++ mine.dropWhile fun w => w.of.isNone }

/-- Flags ORed into the team's FPST (05 R110). -/
def State.raise (s : State) (r : TRef) (fl : FpFlags) : State :=
  s.modTeam r.team fun t => { t with fpst := t.fpst ||| fl }

/-- The thread's word is over: PC moves, and a wait for earlier entries of the store queue with it. -/
def State.setPc (s : State) (r : TRef) (pc : Word) : State := s.modThread r fun th => { th with pc := pc, since := none }

/-- The sequential successor of a word, none at or above 2^48 (02 R43). `ext` when the word takes an extension. -/
def nextWord (pc : Word) (ext : Bool) : Option Word :=
  let i := bitField pc.toNat 3 4
  let n := i + if ext then 2 else 1
  let a := if n ≤ 15 then pc.toNat - 8 * i + 8 * n else (pc.toNat / 128) * 128 + 136
  if a < 2 ^ 48 then some (BitVec.ofNat 64 a) else none

/-! ### Traps -/

/-- A trap (01 R17, R23): cause, sub-cause and slot, TRAPVA, and the access kind of 15 R320. -/
structure Trap where
  cause : Nat
  sub : Nat
  slot : Nat := 0
  va : Word := 0
  ak : Nat := 0
deriving DecidableEq, Repr

/-- The cause codes of 15 R316. -/
def cIllegal : Nat := 0x01
def cTarget : Nat := 0x02
def cRegRange : Nat := 0x03
def cAlign : Nat := 0x04
def cXlate : Nat := 0x05
def cPerm : Nat := 0x06
def cTtype : Nat := 0x07
def cPlane : Nat := 0x08
def cCollective : Nat := 0x09
def cBarBusy : Nat := 0x0A
def cHerd : Nat := 0x0B
def cTile : Nat := 0x0C
def cKv : Nat := 0x0D
def cEcc : Nat := 0x0E
def cSample : Nat := 0x0F
def cPriv : Nat := 0x10
def cTrap : Nat := 0x11

/-- TRAPCAUSE (01 R17). -/
def Trap.word (t : Trap) : Word := BitVec.ofNat 64 (t.cause + 256 * t.sub + 65536 * t.slot)

/-- Why an operation cannot go on: a trap, a fault of the machine, or an access that waits for an array to leave
retention (07 R163). -/
inductive Stop
  | trap (t : Trap)
  | fault (f : Fault)
  | wait
deriving DecidableEq, Repr

/-- A check that passes or stops. -/
abbrev Chk (α : Type) := Except Stop α

/-- The state in which a unit outside the cores makes an access: with the L2 slices awake where it would wait for one
(log 32). -/
def State.rouse {α : Type} (s : State) (k : State → Chk α) : State :=
  match k s with
  | .error .wait => s.wakeSlices
  | _ => s

def stopTrap {α : Type} (cause sub : Nat) (va : Word := 0) (ak : Nat := 0) : Chk α :=
  .error (.trap { cause := cause, sub := sub, va := va, ak := ak })

/-- A condition that must not hold. -/
def failIf (c : Bool) (cause sub : Nat) (va : Word := 0) (ak : Nat := 0) : Chk Unit :=
  if c then stopTrap cause sub va ak else .ok ()

/-- The kinds of the fault region's tuples: fault records and resume tuples of a context (15 R320, R322). -/
def recordKind (ctx : Nat) : Word := BitVec.ofNat 64 (2 ^ 48 + ctx)
def resumeKind (ctx : Nat) : Word := BitVec.ofNat 64 (2 * 2 ^ 48 + ctx)
def faultRegion : Nat := 0xFFE
def launchRegion : Nat := 0xFFF

/-- A counter of 48 bits that skips zero (14 R304, 15 R319). -/
def nextNumber (n : Nat) : Nat := if n + 1 = 2 ^ 48 then 1 else n + 1

/-- A request sent to its home. -/
def State.sendHerd (s : State) (q : HReq) : State := { s with herd := { s.herd with flying := s.herd.flying ++ [q] } }

/-- The fields of a fault record (15 R320). -/
def recordFields (c : Cx) (t : Trap) (pc : Word) (fid : Nat) (page reissue hnd : Bool) : List Word :=
  let bit (b : Bool) (n : Nat) : Nat := if b then 2 ^ n else 0
  [recordKind c.la.ctx, BitVec.ofNat 64 fid, t.word, pc, t.va,
    BitVec.ofNat 64 (c.t.seq + bit hnd 48 + bit reissue 49 + bit page 50),
    BitVec.ofNat 64 (c.t.core * 2 ^ 42 + c.r.tid * 2 ^ 32 + c.t.index),
    BitVec.ofNat 64 t.ak]

/-- The pattern of the fault unit's take: eight fields, field 1 equal (10 R212, 15 R322). -/
def fidPattern : W32 := 0x08000001

/-- What the fault unit does for a fault (15 R319-R321): join an outstanding page record, or give a FID, deposit a
record and park a take for the resume tuple. Gives the FID. A re-issued command's fault joins too (log 75). -/
def State.postFault (s : State) (c : Cx) (t : Trap) (pc : Word) (reissue hnd : Bool) : State × Nat :=
  let page := t.va.toNat / 4096
  let isPage := t.cause == cXlate && t.sub == 1
  match (if isPage then s.fu.records.find? fun r => r.page == some page && r.ctx == c.la.ctx else none) with
  | some r => (s, r.fid)
  | none =>
    let fid := s.fu.next
    let fields := recordFields c t pc fid isPage reissue hnd
    let dep : HReq := ⟨s.uid, .record, .dep 0 false, faultRegion, fields, 0, 0, c.t.core, s.uid⟩
    let take : HReq := ⟨s.uid + 1, .fu fid, .tak false, faultRegion,
      [resumeKind c.la.ctx, BitVec.ofNat 64 fid, 0, 0, 0, 0, 0, 0], fidPattern, 0, c.t.core, 0⟩
    let entry : FaultRec := ⟨fid, c.la.ctx, if isPage then some page else none⟩
    let fu : FaultUnit := { s.fu with next := nextNumber fid, records := s.fu.records ++ [entry] }
    (({ s with uid := s.uid + 2, fu := fu }.sendHerd dep).sendHerd take, fid)

/-- Taking a trap (01 R23, 15 R319): the thread stops with PC at the word, TRAPCAUSE, TRAPPC and TRAPVA are written,
and the fault unit posts the fault. A fault raised in handler mode is recorded with HND = 1 (15 R323). -/
def State.takeTrap (s : State) (c : Cx) (t : Trap) : State :=
  let r := s.postFault c t c.th.pc false c.th.hnd
  r.1.modThread c.r fun th =>
    { th with trapCause := t.word, trapPc := th.pc, trapVa := t.va, run := .faulted r.2, wait := .none, since := none }

/-- Leaving handler mode (15 R323): HND is cleared and STATUS.PRIV returns to the PRIV of the launch. -/
def State.leaveHandler (s : State) (c : Cx) : State :=
  s.modThread c.r fun th => { th with hnd := false, priv := c.la.priv }

/-! ### Translation -/

/-- The kinds of access of 07 R143 and R145. -/
inductive Acc
  | fetch
  | load
  | store
  | prefetch
  | atomic
  | planeLoad
  | planeStore
  | herdR
  | herdW
  | herdRW
  | cpySrc
  | cpyDst
  | cpypSrc
  | cpypDst
  | tileLoad
  | tileStore
  | planeTile
  /-- PB16 output of TEPI: as a plane store, an engine operand (12 R275). -/
  | planeOut
  /-- Scale records in memory: as a load, an engine operand (12 R266). -/
  | scaleLoad
  /-- Sampler and attention operands on TT 0 and TT 1 (13 R283, R284, 17 R360, R361). -/
  | engineRead
  | engineWrite
  | engineBoth
  /-- CCTL.iinv: a fetch without the X check (09 R205). -/
  | iinv
deriving DecidableEq, Repr

/-- R, W and X as the access requires them (07 R143). -/
def Acc.needs : Acc → Bool × Bool × Bool
  | .fetch => (false, false, true)
  | .load => (true, false, false)
  | .store => (false, true, false)
  | .prefetch => (true, false, false)
  | .atomic => (true, true, false)
  | .planeLoad => (true, false, false)
  | .planeStore => (false, true, false)
  | .herdR => (true, false, false)
  | .herdW => (false, true, false)
  | .herdRW => (true, true, false)
  | .cpySrc => (true, false, false)
  | .cpyDst => (false, true, false)
  | .cpypSrc => (true, false, false)
  | .cpypDst => (false, true, false)
  | .tileLoad => (true, false, false)
  | .tileStore => (false, true, false)
  | .planeTile => (true, false, false)
  | .planeOut => (false, true, false)
  | .scaleLoad => (true, false, false)
  | .engineRead => (true, false, false)
  | .engineWrite => (false, true, false)
  | .engineBoth => (true, true, false)
  | .iinv => (false, false, false)

/-- The target types an access is legal on (07 R145). -/
def Acc.legal (priv : Bool) : Acc → List Nat
  | .fetch => [0]
  | .load => if priv then [0, 1, 2, 3, 5, 6, 7, 8] else [0, 1, 2, 3, 6, 7, 8]
  | .store => [0, 1, 2, 3, 6, 7]
  | .prefetch => [0, 1, 2, 3, 6, 7, 8]
  | .atomic => [0, 1, 2, 6]
  | .planeLoad => [1]
  | .planeStore => [1]
  | .herdR => [4]
  | .herdW => [4]
  | .herdRW => [4]
  | .cpySrc => [0, 1, 2, 3, 6, 7, 8]
  | .cpyDst => [0, 1, 2, 3, 6, 7]
  | .cpypSrc => [1]
  | .cpypDst => [0, 1, 2, 3]
  | .tileLoad => [0, 1, 2, 3]
  | .tileStore => [0, 1, 2, 3]
  | .planeTile => [1]
  | .planeOut => [1]
  | .scaleLoad => if priv then [0, 1, 2, 3, 5, 6, 7, 8] else [0, 1, 2, 3, 6, 7, 8]
  | .engineRead => [0, 1]
  | .engineWrite => [0, 1]
  | .engineBoth => [0, 1]
  | .iinv => [0]

/-- The access kind a fault record gives (15 R320). -/
def Acc.ak : Acc → Nat
  | .fetch => 2
  | .load => 0
  | .store => 1
  | .prefetch => 0
  | .atomic => 3
  | .planeLoad => 0
  | .planeStore => 1
  | .herdR => 0
  | .herdW => 1
  | .herdRW => 3
  | .cpySrc => 4
  | .cpyDst => 4
  | .cpypSrc => 4
  | .cpypDst => 4
  | .tileLoad => 4
  | .tileStore => 4
  | .planeTile => 4
  | .planeOut => 4
  | .scaleLoad => 4
  | .engineRead => 4
  | .engineWrite => 4
  | .engineBoth => 4
  | .iinv => 0

/-- Where a translation leads: the location of the byte, its target type and qualifier. -/
structure Xl where
  loc : Nat
  tt : Nat
  tq : Nat
deriving DecidableEq, Repr

/-- The page size of a leaf at a level (07 R140). -/
def pageSize (e lvl : Nat) : Nat :=
  if lvl = 1 then 2 ^ 30 else if lvl = 2 then 2 ^ 21 else if bitAt e 6 then 2 ^ 16 else 2 ^ 12

/-- Qualifier bits a target type does not use are res0 (07 R144). -/
def qualifierBad (tt tq : Nat) : Bool :=
  if tt = 0 ∨ tt = 5 ∨ tt = 7 ∨ tt = 8 then tq != 0
  else if tt = 1 then tq == 0
  else if tt = 2 ∨ tt = 3 then decide (2048 ≤ tq)
  else false

/-- A malformed valid entry (07 R142, R144). -/
def entryBad (e lvl : Nat) : Bool :=
  let leaf := bitAt e 1
  let tt := bitField e 8 4
  let pa := bitField e 12 40 * 4096
  let size := pageSize e lvl
  bitAt e 7 ||
  (if leaf then
    lvl == 0 || (bitAt e 6 && lvl != 3) || pa % size != 0 || qualifierBad tt (bitField e 52 12) ||
    ((tt == 2 || tt == 3) && lvl != 3) || (decide (tt ≤ 1) && decide (hbmSize < pa + size)) ||
    (tt == 4 && pa != 0)
  else lvl == 3 || bitField e 52 12 != 0 || bitField e 2 10 != 0)

/-- The permission check of a leaf, in the order of 07 R143. -/
def checkPerm (e : Nat) (acc : Acc) (priv : Bool) (va : Word) : Chk Unit :=
  let n := acc.needs
  if !priv && !bitAt e 5 then stopTrap cPerm 4 va acc.ak
  else if n.1 && !bitAt e 2 then stopTrap cPerm 1 va acc.ak
  else if n.2.1 && !bitAt e 3 then stopTrap cPerm 2 va acc.ak
  else if n.2.2 && !bitAt e 4 then stopTrap cPerm 3 va acc.ak
  else .ok ()

/-- The target checks of a leaf and the location reached (07 R144-R146, 16 R344, 18 R379). `core` is the accessing
core, `skewed` an access with AM = 1, which only a slice refuses (09 R191). DESIGN CHOICE (log 97): AM = 1 on a
privileged load from TT 5 is ignored, as on TT 0, 1 and 6-8. -/
def checkTarget (s : State) (core : Nat) (priv skewed : Bool) (acc : Acc) (va : Word) (tt tq pa : Nat) : Chk Xl :=
  let bad (sub : Nat) : Chk Xl := stopTrap cTtype sub va acc.ak
  if 9 ≤ tt then bad 1
  else if !(acc.legal priv).contains tt then bad 2
  else if tt ≤ 1 then .ok ⟨pa, tt, tq⟩
  else if tt = 2 ∨ tt = 3 then
    if acc = .prefetch then .ok ⟨scratchLoc 0 0, tt, tq⟩
    else if 1536 ≤ tq then bad 4
    else if coreDie tq ≠ coreDie core then bad 3
    else if skewed then bad 2
    else if tt = 2 then (if pa < 0x20000 then .ok ⟨scratchLoc tq pa, tt, tq⟩ else bad 4)
    else if 0x20000 ≤ pa ∧ pa < 0x60000 then .ok ⟨scratchLoc tq pa, tt, tq⟩ else bad 4
  else if tt = 4 then .ok ⟨0, tt, tq⟩
  else if tt = 5 then (if pa < elandSize then .ok ⟨elandLoc pa, tt, tq⟩ else .error (.fault (.noMemory pa)))
  else if tt = 6 then
    if acc = .prefetch then .ok ⟨remoteLoc 0 0, tt, tq⟩
    else if 1024 ≤ tq ∨ s.boot.device = none ∨ s.boot.device = some tq then bad 4
    else .ok ⟨remoteLoc tq pa, tt, tq⟩
  else if tt = 7 then .ok ⟨hostLoc pa, tt, tq⟩
  else if acc = .prefetch then .ok ⟨telemetryLoc 0, tt, tq⟩
  else if pa < 0x10000 then .ok ⟨telemetryLoc pa, tt, tq⟩
  else bad 4

/-- The entry of a table at a level: a cached copy when the core holds one, else the entry in memory (07 R148), which
may be poisoned or uncorrectable (R161, R162) or lie in a slice in retention (R163). -/
def readEntry (s : State) (core troot table lvl : Nat) (va : Word) (ak : Nat) : Chk Nat :=
  let path := va.toNat / 2 ^ (39 - 9 * lvl)
  match s.tlb.find? fun e => e.core == core && e.troot == troot && e.lvl == lvl && e.path == path with
  | some e => .ok e.entry
  | none =>
    let a := table + 8 * bitField va.toNat (39 - 9 * lvl) 9
    if hbmSize < a + 8 then .error (.fault (.noMemory a))
    else if sleeping s (span a 8) then .error .wait
    else
      match eccSub s (span a 8) with
      | some n => stopTrap cEcc n va ak
      | none => .ok (memNat s.mem a 8)

/-- The walk of 07 R140 from a table at a level; `fuel` levels remain. -/
def walk (s : State) (core troot : Nat) (priv skewed : Bool) (acc : Acc) (va : Word) : Nat → Nat → Nat → Chk Xl
  | 0, _, _ => stopTrap cXlate 2 va acc.ak
  | fuel + 1, lvl, table =>
    match readEntry s core troot table lvl va acc.ak with
    | .error x => .error x
    | .ok e =>
      if !bitAt e 0 then stopTrap cXlate 1 va acc.ak
      else if entryBad e lvl then stopTrap cXlate 2 va acc.ak
      else if bitAt e 1 then
        let size := pageSize e lvl
        let pa := bitField e 12 40 * 4096 + va.toNat % size
        match checkPerm e acc priv va with
        | .error x => .error x
        | .ok _ => checkTarget s core priv skewed acc va (bitField e 8 4) (bitField e 52 12) pa
      else walk s core troot priv skewed acc va fuel (lvl + 1) (bitField e 12 40 * 4096)

/-- Translation of one address (07 R139, R140). -/
def translateAt (s : State) (core troot : Nat) (priv skewed : Bool) (acc : Acc) (va : Word) : Chk Xl :=
  if 2 ^ 48 ≤ va.toNat then stopTrap cXlate 3 va acc.ak
  else walk s core troot priv skewed acc va 4 0 troot

/-- Translation for a thread. -/
def translate (s : State) (c : Cx) (acc : Acc) (va : Word) (skewed : Bool := false) : Chk Xl :=
  translateAt s c.t.core c.la.troot c.th.priv skewed acc va

/-- The pieces of a range that lie in one 4 KiB page each: address and length. -/
def pagePieces : Nat → Nat → Nat → List (Nat × Nat)
  | 0, _, _ => []
  | fuel + 1, a, len =>
    if len = 0 then []
    else
      let n := min len (4096 - a % 4096)
      (a % 2 ^ 64, n) :: pagePieces fuel (a + n) (len - n)

/-- Translation of a list of pieces, each page in order (11 R232). -/
def translatePieces (s : State) (core troot : Nat) (priv : Bool) (acc : Acc) : List (Nat × Nat) → Chk (List (Extent × Xl))
  | [] => .ok []
  | (a, n) :: ps =>
    match translateAt s core troot priv false acc (BitVec.ofNat 64 a) with
    | .error x => .error x
    | .ok x =>
      match translatePieces s core troot priv acc ps with
      | .error e => .error e
      | .ok xs => .ok ((⟨x.loc, n⟩, x) :: xs)

/-- Translation of a range, every page in increasing order, as extents (11 R232). -/
def translateRange (s : State) (c : Cx) (acc : Acc) (va : Word) (len : Nat) : Chk (List Extent) :=
  match translatePieces s c.t.core c.la.troot c.th.priv acc (pagePieces (len / 4096 + 2) va.toNat len) with
  | .error x => .error x
  | .ok l => .ok (l.map Prod.fst)

end Sys2Proof.Machine
end

