-- ==== Sys2Proof/Machine/Thread.lean ====
section
/-! DEFINITION. The execution cycle of one word (01 R20-R23): what makes a thread wait, the checks of the word in
the order of R21, the guard, and how the word ends. A meaning of an instruction is its body, run by `runFull`. -/

namespace Sys2Proof.Machine

/-- How a word ends: completed with the next word; completed with a taken transfer; completed, or begun, with the PC left
as the state has it; not begun, the state unchanged; a trap; a trap that also uses up something of the state; a fault of
the machine. -/
inductive Eff
  | next (s : State)
  | jump (s : State) (pc : Word)
  | here (s : State)
  | wait
  | trap (t : Trap)
  | trapAt (s : State) (t : Trap)
  | fault (f : Fault)
deriving DecidableEq, Repr

/-- A check, and what follows when it passes. -/
def Eff.ofChk {α : Type} (x : Chk α) (k : α → Eff) : Eff :=
  match x with
  | .ok a => k a
  | .error (.trap t) => .trap t
  | .error (.fault f) => .fault f
  | .error .wait => .wait

/-- A word that meets an error of its own operands takes that trap in place of its effect (07 R161). -/
def Eff.unless (e : Eff) (t : Option Trap) : Eff :=
  match t, e with
  | some t, .next _ => .trap t
  | some t, .jump _ _ => .trap t
  | some t, .here _ => .trap t
  | _, e => e

/-- The thread can issue: it runs, its team is resident, and it does not wait inside an instruction (05 R105). -/
def Cx.canIssue (c : Cx) : Bool := c.t.live && c.th.run == .running && c.th.wait == .none

/-- Vector registers, x registers and predicates that await a result (01 R22). -/
def Thread.awaitedV (th : Thread) : List Nat :=
  th.pend.flatMap (fun p => p.vregs.map Prod.fst) ++
  th.herd.flatMap (fun h => (List.range h.nregs).map (h.d + ·))
def Thread.awaitedX (th : Thread) : List Nat :=
  th.pend.flatMap (fun p => p.xregs.map Prod.fst) ++ th.herd.filterMap (·.xs)
def Thread.awaitedP (th : Thread) : List Nat := (th.herd.map (·.ps)).filter (· < 7)

/-- The word names a register that awaits a result (01 R22). -/
def Cx.hazard (c : Cx) (vs xs ps : List Nat) : Bool :=
  vs.any (c.th.awaitedV.contains ·) || xs.any (c.th.awaitedX.contains ·) || ps.any (c.th.awaitedP.contains ·)

/-- A copy or take of the thread has not completed: no access, engine command or herd instruction but HCAN issues
(10 R227). -/
def Cx.held (c : Cx) : Bool := c.th.herd.any fun h => decide (3 ≤ h.fn) && decide (h.fn ≤ 6)

/-- An acquire atomic of the thread has not been performed: no later access issues (08 R171). -/
def awaitsAcquire (s : State) (c : Cx) : Bool := s.queue.any fun e => e.who == c.r && e.acq

/-- A release, or a WAIT for all stores: a link write that was dropped raises ECC 0x03 there (18 R380). -/
def linkStop (s : State) (c : Cx) (k : Eff) : Eff :=
  match c.th.linkFail with
  | none => k
  | some va => .trapAt (s.modThread c.r fun th => { th with linkFail := none }) { cause := cEcc, sub := 3, va := va }

/-- A tuple of a region stands in an HMU store with an error that the next copy or take may meet (07 R161, R162). -/
def Herd.flawIn (h : Herd) (region : Nat) : Bool :=
  h.flaws.any fun x => h.tuples.any fun t => t.dep == x.1 && t.region == region

/-- A copy or take of the thread is on its way to such a region: it may take ECC, which no later word precedes (01 R23,
log 80). -/
def flawAhead (s : State) (c : Cx) : Bool :=
  c.th.herd.any fun p => decide (3 ≤ p.fn) && decide (p.fn ≤ 6) &&
    s.herd.flying.any fun q => q.uid == p.uid && s.herd.flawIn q.region

/-- A word waits while a bank that holds one of its registers is in retention (07 R163), and while a copy or take of its
thread may yet take a trap. -/
def wordWaits (s : State) (c : Cx) (vs : List Nat) : Bool := sleepingBanks s c.t.core vs || flawAhead s c

/-- The accesses, engine commands and herd instructions but HCAN (10 R227): GPATCH and KVSEQ.dfs among them, whose loads
and stores are those of their thread; and the releases that are no accesses, BAR, BARA, BRINV and QREL: what an acquire before
them obtains happens before them too (08 R174, log 106). BRARV never waits (11 R241). MMA and MMAS wait in their own meaning, for their
scale loads. -/
def gatedWord (op fn : Nat) (f : Fields) : Bool :=
  match op with
  | 0x20 => fn < 4
  | 0x21 => fn < 3
  | 0x22 => fn < 3
  | 0x28 => fn != 7
  | 0x30 => fn == 5 || fn == 6
  | 0x31 => fn == 5
  | 0x38 => fn == 0 || fn == 1 || fn == 3 || fn == 5
  | 0x40 => fn == 2 || fn == 3 || fn == 4 || fn == 5 || fn == 12
  | 0x48 => fn < 3 || (fn == 3 && f.mod == 4)
  | 0x50 => fn == 2
  | _ => false

/-- The word does not use its sequential successor: a taken BRA, BRX or RET, an EXIT with a true guard (02 R43). -/
def noSuccessor (op fn : Nat) (guard : Bool) : Bool :=
  op == 0x18 && guard && (fn == 0 || fn == 1 || fn == 4 || fn == 5)

/-- The first trap of a full word's checks before its guard: TARGET of its successor, ILLEGAL, PRIV, REGRANGE
(01 R21, 02 R43, R47). DESIGN CHOICE (log 123): of a taken transfer these stand before TARGET of its target (02 R44), which
01 R21 lists before ILLEGAL. -/
def frontTrap (op fn x : Nat) (g : Guard) (f : Fields) (c : Cx) (ext : Bool) : Option Trap :=
  let sh := shape op fn f
  if (nextWord c.th.pc ext).isNone && !noSuccessor op fn (c.guard g) then some { cause := cTarget, sub := 3 }
  else
    match fullSub op fn x g f with
    | some sub => some { cause := cIllegal, sub := sub }
    | none =>
      if sh.priv != 0 && !c.th.priv then some { cause := cPriv, sub := sh.priv }
      else if outOfRange c.t.declared sh f then some { cause := cRegRange, sub := 0 }
      else none

/-- Every earlier instruction of the thread has completed its register effects (01 R23). -/
def Thread.quiet (th : Thread) : Bool := th.pend.isEmpty && th.herd.isEmpty

/-- A trap, taken in a state, of a word that stands in `s`: not before every earlier instruction of the thread has
completed its register effects (01 R23). -/
def State.trapIn (s u : State) (c : Cx) (t : Trap) : State := if c.th.quiet then u.takeTrap c t else s

/-- What ends a word in the state: PC moves to the successor or to the target, or a trap is taken. -/
def finish (s : State) (c : Cx) (ext : Bool) (e : Eff) : Out State :=
  match e with
  | .next t => .next (t.setPc c.r ((nextWord c.th.pc ext).getD 0))
  | .jump t pc => .next (t.setPc c.r pc)
  | .here t => .next t
  | .wait => .next s
  | .trap t => .next (s.trapIn s c t)
  | .trapAt u t => .next (s.trapIn u c t)
  | .fault f => .fault f

/-- The word reads D too: the values of ATOMC and RED, the value PREF refines, and the tuples and templates of the herd
instructions but HCAN. -/
def readsD (op fn : Nat) : Bool :=
  match op with
  | 0x21 => fn == 1
  | 0x22 => fn == 1 || fn == 2
  | 0x28 => fn < 7
  | _ => false

/-- The x register of field A is the word's destination: TGET (12 R258). -/
def writesA (op fn : Nat) : Bool := op == 0x40 && fn == 1

/-- The vector registers a field reads, and the x registers. -/
def fieldSources (k : Kind) (x : BitVec 10) (all : Bool) : List Nat :=
  match k with
  | .vec _ src => if src || all then fieldVecs k x else []
  | _ => fieldVecs k x

/-- The vector registers and the x registers that a word reads. -/
def sourceVecs (op fn : Nat) (f : Fields) : List Nat :=
  let sh := shape op fn f
  fieldSources sh.d f.d (readsD op fn) ++ fieldSources sh.a f.a false ++ fieldSources sh.b f.b false ++
    fieldSources sh.c f.c false
def sourceXs (op fn : Nat) (f : Fields) : List Nat :=
  let sh := shape op fn f
  (if readsD op fn then fieldXs sh.d f.d else []) ++ (if writesA op fn then [] else fieldXs sh.a f.a) ++ fieldXs sh.b f.b ++ fieldXs sh.c f.c

/-- ECC of the registers that a word reads: an uncorrectable error, or one found before and poisoned (07 R161, R162). An
x register whose newest value the thread has itself yet to show is read from that value. -/
def Cx.flawTrap (c : Cx) (vs xs : List Nat) (slot : Nat) : Option Trap :=
  ((c.th.flaws.find? fun x => vs.contains x.1) <|>
    (c.t.xflaws.find? fun x => xs.contains x.1 && (ownX c.r.tid x.1 c.t.xpend).isNone)).map fun x =>
      { cause := cEcc, sub := if x.2 then 5 else 1, slot := slot }

/-- The waits and the checks of a full word; `body` follows them, whatever the guard (01 R20, R21). `skipV` leaves out
the wait for vector registers (HCAN, 10 R225). -/
def runChecked (op fn x : Nat) (ext skipV : Bool) (g : Guard) (f : Fields) (s : State) (body : Cx → Eff) : Out State :=
  match s.view with
  | none => .refused .noThread
  | some c =>
    let sh := shape op fn f
    finish s c ext
      (if !c.canIssue then .wait
      else if c.hazard (if skipV then [] else shapeVecs sh f) (shapeXs sh f) (g.gp.toNat :: sh.preds) then .wait
      else if wordWaits s c (shapeVecs sh f) then .wait
      else
        match frontTrap op fn x g f c ext with
        | some t => .trap t
        | none => body c)

/-- The execution of a full word: waits, checks, the guard, then the body (01 R20). -/
def runWord (op fn x : Nat) (ext skipV : Bool) (g : Guard) (f : Fields) (s : State) (body : Cx → Eff) : Out State :=
  runChecked op fn x ext skipV g f s fun c =>
    if !c.guard g then .next s
    else if gatedWord op fn f && (c.held || awaitsAcquire s c) then .wait
    else (body c).unless (c.flawTrap (sourceVecs op fn f) (sourceXs op fn f) 0)

/-- The execution of a full word without extension. -/
def runFull (op fn : Nat) (g : Guard) (f : Fields) (s : State) (body : Cx → Eff) : Out State :=
  runWord op fn 0 false false g f s body

/-- A pair word's slots read and write these registers, whatever their guards (01 R22, 02 R38). -/
def slotVecs (x : Slot) : List Nat := if x.sop = 0 then [] else [x.d.toNat, x.a.toNat]

/-- The guard predicate of a slot that does something. -/
def slotPreds (x : Slot) : List Nat := if x.sop = 0 then [] else [x.g.toNat]

/-- A slot's guard (02 R34): bits 2:0 name a predicate. -/
def Cx.slotGuard (c : Cx) (x : Slot) : Bool := c.p x.g.toNat

/-- The vector registers whose values a slot takes, held or not: a hold bit changes no value (02 R36, R37). -/
def slotSources (x : Slot) : List Nat :=
  if x.sop = 0 then [] else x.a.toNat :: (if sopReadsD x.sop then [x.d.toNat] else [])

/-- ECC of the registers that a pair word's slots read, slot 0 first; a slot whose guard is false reads none (02 R35). -/
def Cx.pairFlaw (c : Cx) (s0 s1 : Slot) : Option Trap :=
  let reads (x : Slot) : List Nat := if c.slotGuard x then slotSources x else []
  (c.flawTrap (reads s0) [] 0) <|> (c.flawTrap (reads s1) [] 1)

/-- A slot names a register at or above the declared count (01 R9). -/
def Cx.slotBeyond (c : Cx) (x : Slot) : Bool := (slotVecs x).any fun n => decide (c.t.declared.regs ≤ n)

/-- The trap of a pair word for which 02 R49 reports a sub-cause and a slot: REGRANGE of slot 0 comes before ILLEGAL of slot
1, since slot 0's causes precede slot 1's (01 R21). -/
def Cx.pairIllegal (c : Cx) (s0 : Slot) (sub slot : Nat) : Trap :=
  if slot = 1 ∧ c.slotBeyond s0 then { cause := cRegRange, sub := 0, slot := 0 }
  else { cause := cIllegal, sub := sub, slot := slot }

/-- The first trap of a pair word (01 R21): TARGET, then slot 0's causes before slot 1's, ILLEGAL before REGRANGE. Where both
slots have several, R21's list of causes stands within a slot; what R49 reports for the word as a whole stands with slot
0. -/
def pairTrap (c : Cx) (s0 s1 : Slot) : Option Trap :=
  if (nextWord c.th.pc false).isNone then some { cause := cTarget, sub := 3 }
  else
    match pairSub s0 s1 with
    | some r => some (c.pairIllegal s0 r.1 r.2)
    | none =>
      if c.slotBeyond s0 then some { cause := cRegRange, sub := 0, slot := 0 }
      else if c.slotBeyond s1 then some { cause := cRegRange, sub := 0, slot := 1 }
      else none

/-- The execution of a pair word (01 R20, 02 R35). -/
def runPair (s0 s1 : Slot) (s : State) (body : Cx → Eff) : Out State :=
  match s.view with
  | none => .refused .noThread
  | some c =>
    finish s c false
      (if !c.canIssue then .wait
      else if c.hazard (slotVecs s0 ++ slotVecs s1) [] (slotPreds s0 ++ slotPreds s1) then .wait
      else if wordWaits s c (slotVecs s0 ++ slotVecs s1) then .wait
      else
        match pairTrap c s0 s1 with
        | some t => .trap t
        | none => (body c).unless (c.pairFlaw s0 s1))

end Sys2Proof.Machine
end

