-- ==== Sys2Proof/Machine/Operands.lean ====
section
/-! DEFINITION. The operand forms: data operands of chapter 04 (R71), the M-class address (02 R31, 09 R188), sizes
and register groups (09 R189), and typed values of conversions (04 R90). -/

namespace Sys2Proof.Machine

/-- The operation width of chapter 04 (R71). -/
def dataWidth (f : Fields) : Nat := if f.isX then 64 else 32

/-- A data operand's pattern, zero-extended to 64 bits (04 R71). -/
def Cx.data (c : Cx) (f : Fields) (n : BitVec 10) : Word :=
  if f.isX then c.x n.toNat else (c.v n.toNat).setWidth 64

/-- `sv` of a data operand (04 R71), signed or natural. -/
def Cx.num (c : Cx) (f : Fields) (nat : Bool) (n : BitVec 10) : Int :=
  if f.isX then sv nat (c.x n.toNat) else sv nat (c.v n.toNat)

/-- A result narrowed to the operation width (03 R55). -/
def narrowData (f : Fields) (sat nat : Bool) (x : Int) : Word :=
  if f.isX then narrow 64 sat nat x else (narrow 32 sat nat x).setWidth 64

/-- A data result written to D (04 R71, 01 R10). -/
def State.putData (s : State) (c : Cx) (f : Fields) (w : Word) : State :=
  if f.isX then s.setX c.r f.d.toNat w else s.setV c.r f.d.toNat (w.setWidth 32)

/-- Sign extension of the low `n` bits of a number (03 R62). -/
def sextNat (x n : Nat) : Int :=
  let y := x % 2 ^ n
  if y < 2 ^ (n - 1) then (y : Int) else (y : Int) - (2 ^ n : Nat)

/-- The M-class base (02 R31). -/
def Cx.base (c : Cx) (a : BitVec 10) : Word := if a.getLsbD 9 then c.x (a.toNat % 64) else c.pair a.toNat

/-- The M-class index (02 R31). -/
def Cx.index (c : Cx) (b : BitVec 10) : Word :=
  if b = 0x3FF then 0
  else if b.getLsbD 9 then c.x (b.toNat % 64)
  else (c.v b.toNat).signExtend 64

/-- The effective address of the M class (02 R31), `off` in units of `size`. -/
def Cx.address (c : Cx) (f : Fields) (size : Nat) (off : Int) : Word :=
  c.base f.a + c.index f.b + BitVec.ofInt 64 (off * size)

/-- The access size in bytes of MOD 000 to 100 (02 R31). -/
def accessSize (m : BitVec 3) : Nat := 2 ^ m.toNat

/-- The address of LD and ST, whose offset is the low six bits of C (09 R188). -/
def Cx.accessAddr (c : Cx) (f : Fields) : Word :=
  c.address f (accessSize f.mod) (sextNat f.c.toNat 6)

/-- The offset of LDS and STS, whose C is a whole signed offset (09 R192). -/
def Cx.scratchAddr (c : Cx) (f : Fields) : Word := c.address f (accessSize f.mod) (sextNat f.c.toNat 10)

/-- The registers an access of a size loads from its bytes (09 R189): B8 and B16 zero-extended. -/
def loadedRegs (d size : Nat) (bs : List Byte) : List (Nat × W32 × Tag) :=
  if size ≤ 4 then [(d, BitVec.ofNat 32 (leNat bs), {})]
  else (List.range (size / 4)).map fun j => (d + j, BitVec.ofNat 32 (leNat ((bs.drop (4 * j)).take 4)), {})

/-- The bytes a store of a size takes from its registers (09 R189). -/
def Cx.storedBytes (c : Cx) (d size : Nat) : List Byte :=
  if size ≤ 4 then leBytes size (c.v d).toNat
  else (List.range (size / 4)).flatMap fun j => leBytes 4 (c.v (d + j)).toNat

/-- The element index of the plane instructions (09 R195): vB natural, xB, or 0. -/
def Cx.element (c : Cx) (b : BitVec 10) : Nat :=
  if b = 0x3FF then 0
  else if b.getLsbD 9 then (c.x (b.toNat % 64)).toNat
  else (c.v b.toNat).toNat

/-- An integer or floating-point type of 04 R90. -/
inductive ConvType
  | int (w : Nat) (nat : Bool)
  | fp (f : Fmt)
deriving DecidableEq, Repr

/-- The type a code names (04 R90). -/
def convType (code : Nat) : ConvType :=
  if code = 8 then .fp .f32
  else if code = 9 then .fp .f16
  else if code = 10 then .fp .bf16
  else .int (8 * 2 ^ (code % 4)) (decide (4 ≤ code))

/-- An integer operand read as its type (04 R90, R93). -/
def Cx.typedInt (c : Cx) (n w : Nat) (nat : Bool) : Int :=
  let raw := if w = 64 then (c.pair n).toNat else (c.v n).toNat
  if nat then ((raw % 2 ^ w : Nat) : Int) else sextNat raw w

/-- An integer result written as its type: sign- or zero-extended, or to a pair (04 R90). -/
def State.putTyped (s : State) (r : TRef) (n w : Nat) (x : Int) : State :=
  if w = 64 then s.setPair r n (BitVec.ofInt 64 x) else s.setV r n (BitVec.ofInt 32 x)

/-- The rounding mode of the conversions (04 R90): MOD 000 takes FPMODE.RND. -/
def Cx.convMode (c : Cx) (f : Fields) : RMode :=
  if f.mod = 0 then RMode.ofBits ((c.th.fpmode >>> 1).setWidth 2) else RMode.ofBits (f.mod.setWidth 2)

end Sys2Proof.Machine
end

