-- ==== Sys2Proof/Machine/Flags.lean ====
section
/-! DEFINITION. Flag computations: what an FP instruction raises, FPST's write-one-to-clear, and the condition codes
of the compares (01 R14, R15, 03 R58-R60, 04 R79, R87). -/

namespace Sys2Proof.Machine

/-- FPMODE.FTZ (01 R14). -/
def Cx.ftz (c : Cx) : Bool := c.th.fpmode.getLsbD 0

/-- A W1C write of FPST (01 R15). -/
def clearFlags (fpst : FpFlags) (w : Word) : FpFlags := fpst &&& ~~~(w.setWidth 5)

/-- A result with its flags: the register is written and the flags are raised (03 R60). -/
def State.putFp (s : State) (c : Cx) (n : Nat) (x : W32 × FpFlags) : State :=
  (s.setV c.r n x.1).raise c.r x.2

/-- The type of OP 0x10 and 0x11 (02 R30). -/
def typeFmt (m : BitVec 3) : Fmt := if m = 1 then .f16 else if m = 2 then .bf16 else .f32
def typePacked (m : BitVec 3) : Bool := m != 0

/-- The condition codes of ICMP and ICMPI (04 R79). -/
def intCond (code : Nat) (a b : Int) : Bool :=
  if code = 0 then decide (a = b)
  else if code = 1 then decide (a ≠ b)
  else if code = 2 then decide (a < b)
  else if code = 3 then decide (a ≤ b)
  else if code = 4 then decide (b < a)
  else decide (b ≤ a)

/-- The combine of ICMP and FCMP (04 R79): AND, OR or XOR with a predicate. -/
def combineCond (code : Nat) (x q : Bool) : Bool :=
  if code = 0 then x && q else if code = 1 then x || q else x != q

end Sys2Proof.Machine
end

