-- ==== Sys2Proof/Machine/Cross.lean ====
section
/-! DEFINITION. The cross-thread instructions, OP 0x30 FN 0 to 4 (06 R122-R131): matching by counting in a lane group,
and what a complete instance writes. -/

namespace Sys2Proof.Machine

/-- The control fields of the compare key (06 R125, R127). -/
def crossControl (fn : Nat) (f : Fields) : List (BitVec 10) :=
  if fn = 1 then [f.a, f.c] else if fn = 4 then [f.d] else [f.c]

/-- The keys of two arrivals agree in OP and FN, and in MOD and the control fields (06 R125). -/
def Arrival.sameOp (x y : Arrival) : Bool := x.op == y.op && x.fn == y.fn
def Arrival.sameKey (x y : Arrival) : Bool :=
  x.sameOp y && x.fields.mod == y.fields.mod && crossControl x.fn x.fields == crossControl y.fn y.fields

/-- The members of a lane group that have not exited (06 R123, 05 R112). -/
def Team.groupAlive (t : Team) (group : Nat) : List Nat :=
  (List.range t.threads.length).filter fun i =>
    i / 32 == group && (match t.threads[i]? with
      | some th => !th.isOver
      | none => false)

/-- The arrivals kept in increasing TID order. -/
def insertArrival (a : Arrival) : List Arrival → List Arrival
  | [] => [a]
  | b :: bs => if a.tid < b.tid then a :: b :: bs else b :: insertArrival a bs

/-- The source lane of SHFL when it is valid (06 R128). -/
def shuffleLane (f : Fields) (lane n : Nat) : Option Nat :=
  let size := 2 ^ lowBits f.c 2 3
  let base := lane - lane % size
  match lowBits f.c 0 2 with
  | 0 => if n < size then some (base + n) else none
  | 1 => if n ≤ lane - base then some (lane - n) else none
  | 2 => if lane + n < base + size then some (lane + n) else none
  | _ => if n < size then some (lane ^^^ n) else none

/-- The member whose A value SHFL writes in `a` (06 R128). -/
def shuffleFrom (act : List Arrival) (a : Arrival) : Arrival :=
  match shuffleLane a.fields (a.tid % 32) a.lane.toNat with
  | none => a
  | some src => (act.find? fun b => b.tid % 32 == src).getD a

/-- The identity of a group operation (06 R131). -/
def foldIdentity (op : Nat) (nat : Bool) : W32 :=
  match op with
  | 1 => if nat then 0xFFFFFFFF else 0x7FFFFFFF
  | 2 => if nat then 0 else 0x80000000
  | 3 => 0xFFFFFFFF
  | 6 => 0x80000000
  | 7 => 0x7F800000
  | 8 => 0xFF800000
  | _ => 0

/-- One step of a group operation, with its flags (06 R131). -/
def foldOp (op : Nat) (nat : Bool) (acc x : W32) : W32 × FpFlags :=
  match op with
  | 0 => (acc + x, 0)
  | 1 => (if sv nat acc ≤ sv nat x then acc else x, 0)
  | 2 => (if sv nat acc ≤ sv nat x then x else acc, 0)
  | 3 => (acc &&& x, 0)
  | 4 => (acc ||| x, 0)
  | 5 => (acc ^^^ x, 0)
  | 6 => fpAdd .f32 .rn false acc x
  | 7 => fpMinMax .f32 false acc x
  | _ => fpMinMax .f32 true acc x

/-- The left fold of 06 R131: for each member its TID with the values before and after, then the total and flags. -/
def foldGroup (op : Nat) (nat : Bool) : List Arrival → W32 → FpFlags → List (Nat × W32 × W32) × W32 × FpFlags
  | [], acc, fl => ([], acc, fl)
  | a :: as, acc, fl =>
    let r := foldOp op nat acc a.val
    let rest := foldGroup op nat as r.1 (fl ||| r.2)
    ((a.tid, acc, r.1) :: rest.1, rest.2)

/-- The active members' fold for the operation a member names. -/
def foldOf (act : List Arrival) (f : Fields) : List (Nat × W32 × W32) × W32 × FpFlags :=
  foldGroup (lowBits f.c 0 4) f.isN act (foldIdentity (lowBits f.c 0 4) f.isN) 0

/-- What an active member writes when its instance completes (06 R128-R131). -/
def crossWrite (act : List Arrival) (a : Arrival) (th : Thread) : Thread :=
  let d := a.fields.d.toNat
  match a.fn with
  | 0 => let b := shuffleFrom act a; th.putV d b.val b.tag.moved
  | 1 =>
    match lowBits a.fields.c 0 2 with
    | 0 => th.setP d (act.all (·.bit))
    | 1 => th.setP d (act.any (·.bit))
    | 2 => th.setP d (act.all (·.bit) || act.all fun b => !b.bit)
    | _ => th.setV d (BitVec.ofNat 32 ((act.filter (·.bit)).foldl (fun n b => n + 2 ^ (b.tid % 32)) 0))
  | 2 => th.setV d (foldOf act a.fields).2.1
  | 3 =>
    match (foldOf act a.fields).1.find? fun e => e.1 == a.tid with
    | some e => th.setV d (if lowBits a.fields.c 4 1 = 1 then e.2.1 else e.2.2)
    | none => th
  | _ => th.setP d (act.head?.any fun b => b.tid == a.tid)

/-- The flags an instance raises into FPST, once (06 R131). -/
def crossFlags (act : List Arrival) : FpFlags :=
  match act with
  | a :: _ => if a.fn = 2 ∨ a.fn = 3 then (foldOf act a.fields).2.2 else 0
  | [] => 0

/-- A thread's word is over: PC moves to the successor and the thread waits no longer. -/
def Thread.advance (th : Thread) : Thread :=
  { th with pc := (nextWord th.pc false).getD 0, wait := .none, since := none }

/-- A complete instance writes its results and advances every member (06 R123, R124). -/
def completeInstance (s : State) (team : Nat) (i : Instance) : State :=
  let act := i.arrivals.filter (·.active)
  let t := i.arrivals.foldl (fun (t : State) a => t.modThread ⟨team, a.tid⟩ fun th =>
    { (if a.active then crossWrite act a th else th).advance with xseq := th.xseq + 1 }) s
  t.modTeam team fun tm => { tm with fpst := tm.fpst ||| crossFlags act }

/-- What becomes of one instance of a team when nothing more may be missing: a failed one ceases once every member has
raised or exited, a complete one writes its results (06 R123, R125). -/
def settleInstance (s : State) (team : Nat) (i : Instance) : State :=
  match s.teams[team]? with
  | none => s
  | some tm =>
    let alive := tm.groupAlive i.group
    let drop (u : State) : State :=
      u.modTeam team fun x => { x with instances := x.instances.filter fun j => !(j.group == i.group && j.count == i.count) }
    match i.failed with
    | some _ => if alive.all (i.raised.contains ·) then drop s else s
    | none =>
      if !i.arrivals.isEmpty && alive.all (fun n => i.arrivals.any fun a => a.tid == n) then
        completeInstance (drop s) team i
      else s

/-- Every instance of a team settled. -/
def settleCross (s : State) (team : Nat) : State :=
  match s.teams[team]? with
  | none => s
  | some tm => tm.instances.foldl (fun u i => settleInstance u team i) s

/-- The instance of a group at a count replaced by another. -/
def putInstance (s : State) (team : Nat) (i : Instance) : State :=
  s.modTeam team fun tm =>
    { tm with instances := i :: tm.instances.filter fun j => !(j.group == i.group && j.count == i.count) }

/-- A member raises COLLECTIVE at its own word (06 R125). One whose earlier instructions have not completed their
register effects (01 R23) waits no longer, and raises when it comes to its word again. -/
def raiseCollective (sub : Nat) (s : State) (r : TRef) : State :=
  match s.viewOf r with
  | some c =>
    if c.th.quiet then s.takeTrap c { cause := cCollective, sub := sub }
    else s.modThread r fun th => { th with wait := .none }
  | none => s

/-- A member's arrival, of a guard true or false (06 R123-R125). When it makes the instance fail, the members already
arrived raise COLLECTIVE in the order of their TIDs and then the newcomer: the order in which fault records are posted is
the model's choice (DESIGN CHOICE, log 84), since R125 says only that they raise at once. -/
def crossArrive (s : State) (c : Cx) (a : Arrival) : State :=
  let group := c.r.tid / 32
  let open? := c.t.instances.find? fun i => i.group == group && i.count == c.th.xseq
  let i : Instance := open?.getD { group := group, count := c.th.xseq }
  match i.failed with
  | some sub =>
    if c.th.quiet then
      settleCross (raiseCollective sub (putInstance s c.r.team { i with raised := c.r.tid :: i.raised }) c.r) c.r.team
    else s
  | none =>
    if i.arrivals.all (a.sameKey ·) then
      let t := putInstance s c.r.team { i with arrivals := insertArrival a i.arrivals }
      settleCross (t.modThread c.r fun th => { th with wait := .cross }) c.r.team
    else
      let sub := if i.arrivals.all (a.sameOp ·) then 2 else 1
      let here := i.arrivals.map (·.tid) ++ [c.r.tid]
      let ready := here.filter fun n => (s.thread ⟨c.r.team, n⟩).any Thread.quiet
      let t := putInstance s c.r.team { i with arrivals := [], failed := some sub, raised := ready }
      settleCross (here.foldl (fun u n => raiseCollective sub u ⟨c.r.team, n⟩) t) c.r.team

/-- The arrival raises COLLECTIVE: its instance has failed, or its key differs from those that stand (06 R125). -/
def crossFails (c : Cx) (a : Arrival) : Bool :=
  (c.t.instances.find? fun i => i.group == c.r.tid / 32 && i.count == c.th.xseq).any fun i =>
    i.failed.isSome || !(i.arrivals.all (a.sameKey ·))

/-- A cross-thread word: its checks, then the arrival, whatever the guard (06 R124). COLLECTIVE comes before an error of the
registers that an active member reads (15 R317). -/
def runCross (fn : Nat) (g : Guard) (f : Fields) (s : State) : Out State :=
  runChecked 0x30 fn 0 false false g f s fun c =>
    let a : Arrival :=
      { tid := c.r.tid, active := c.guard g, op := 0x30, fn := fn, fields := f, val := c.v f.a.toNat,
        lane := c.v f.b.toNat, bit := c.p (lowBits f.a 0 3) != bitAt f.a.toNat 3, tag := c.tag f.a.toNat }
    (Eff.here (crossArrive s c a)).unless
      (if c.guard g && !crossFails c a then c.flawTrap (sourceVecs 0x30 fn f) (sourceXs 0x30 fn f) 0 else none)

/-- SHFL (06 R128). -/
def execShfl (g : Guard) (f : Fields) (s : State) : Out State := runCross 0 g f s
/-- VOTE (06 R129). -/
def execVote (g : Guard) (f : Fields) (s : State) : Out State := runCross 1 g f s
/-- GRED (06 R131). -/
def execGred (g : Guard) (f : Fields) (s : State) : Out State := runCross 2 g f s
/-- GSCAN (06 R131). -/
def execGscan (g : Guard) (f : Fields) (s : State) : Out State := runCross 3 g f s
/-- ELECT (06 R130). -/
def execElect (g : Guard) (f : Fields) (s : State) : Out State := runCross 4 g f s

end Sys2Proof.Machine
end

