-- ==== Sys2Proof/Machine/HwBarriers.lean ====
section
/-! DEFINITION. The hardware barriers, OP 0x30 FN 5 to 7 (06 R132-R135), and the release and acquire effects that
several instructions share (08 R168, R170, R135). -/

namespace Sys2Proof.Machine

/-- Every entry of a core's store queue has left its head: all threads of the core see it (08 R168). -/
def State.leaveQueue (s : State) (core : Nat) : State :=
  { s with queue := s.queue.map fun e => if e.core = core then { e with left := true } else e }

/-- A release at team scope: the core's stores before it and the thread's x writes are visible to the team. -/
def State.releaseTeam (s : State) (c : Cx) : State :=
  (s.leaveQueue c.t.core).modTeam c.r.team fun t => t.flushX c.r.tid

/-- A core has entries not yet performed (08 R169). -/
def State.queued (s : State) (core : Nat) : Bool := s.queue.any fun e => e.core == core

/-- The number below which entries of the core's queue precede the thread's word: what other threads of the core store after
the word has begun to wait does not hold it (05 R105, log 105). -/
def Cx.sinceOf (c : Cx) (s : State) : Nat := c.th.since.getD s.uid

/-- An entry of its core that precedes the thread's word is not yet performed (08 R169). -/
def Cx.queuedBefore (c : Cx) (s : State) : Bool :=
  s.queue.any fun e => e.core == c.t.core && decide (e.uid < c.sinceOf s)

/-- The word waits for those entries, and goes on from then on. -/
def afterQueue (s : State) (c : Cx) (k : Eff) : Eff :=
  if c.queuedBefore s then .here (s.modThread c.r fun th => { th with since := some (c.sinceOf s) }) else k

/-- An acquire of cluster scope or wider (08 R170). -/
def State.dropL1 (s : State) (core : Nat) : State := { s with l1 := s.l1.filter fun l => !(l.core == core) }

/-- The number of teams of a launch (14 R299). -/
def Launch.nteams (l : Launch) : Nat := (l.tuple.getD 2 0).toNat
/-- Its resource declaration word (14 R299). -/
def Launch.rdw (l : Launch) : Word := l.tuple.getD 3 0

/-- The barrier of a scope as a team has it (06 R132). -/
def State.hwBar (s : State) (team scope num : Nat) : HwBar :=
  match s.teams[team]? with
  | none => {}
  | some t =>
    if scope = 0 then t.hbars.getD num {}
    else if scope = 1 then ((s.launch t.seq).cbars.find? fun b => b.1 == t.index / 4).elim {} Prod.snd
    else (s.launch t.seq).lbar

/-- The barrier of a scope replaced. -/
def State.putHwBar (s : State) (team scope num : Nat) (b : HwBar) : State :=
  match s.teams[team]? with
  | none => s
  | some t =>
    if scope = 0 then s.modTeam team fun x => { x with hbars := x.hbars.set num b }
    else if scope = 1 then
      s.modLaunch t.seq fun l =>
        { l with cbars := (t.index / 4, b) :: l.cbars.filter fun y => !(y.1 == t.index / 4) }
    else s.modLaunch t.seq fun l => { l with lbar := b }

/-- The teams whose threads are members (06 R133), as numbers. -/
def State.barTeams (s : State) (team scope : Nat) : List Nat :=
  match s.teams[team]? with
  | none => []
  | some t =>
    if scope = 0 then [team]
    else (List.range s.teams.length).filter fun n =>
      match s.teams[n]? with
      | some u => u.seq == t.seq && (scope == 2 || u.index / 4 == t.index / 4)
      | none => false

/-- How many teams the scope has when all are placed (06 R133, 05 R114). -/
def State.barExpected (s : State) (team scope : Nat) : Nat :=
  match s.teams[team]? with
  | none => 0
  | some t =>
    let n := (s.launch t.seq).nteams
    if scope = 0 then 1 else if scope = 1 then min 4 (n - t.index / 4 * 4) else n

/-- The threads of a team that have not exited. -/
def Team.alive (t : Team) : List Nat :=
  (List.range t.threads.length).filter fun i =>
    match t.threads[i]? with
    | some th => !th.isOver
    | none => false

/-- The members that have not exited. -/
def State.barAlive (s : State) (teams : List Nat) : List TRef :=
  teams.flatMap fun n => ((s.teams[n]?).elim [] Team.alive).map (⟨n, ·⟩)

/-- The waiters of a phase go on (06 R133, R135): those in the member teams that wait for the old phase. -/
def wakeBar (s : State) (teams : List Nat) (scope num : Nat) (old : Bool) : State :=
  let waits (n : Nat) : Bool := (s.teams[n]?).elim false fun t => t.threads.any fun th => th.wait == .bar scope num old
  let t := teams.foldl (fun (u : State) n => u.modThreads n fun th =>
    if th.wait = .bar scope num old then th.advance else th) s
  if scope = 0 then t
  else (teams.filter waits).foldl (fun u n => u.dropL1 ((s.teams[n]?).elim 0 Team.core)) t

/-- A phase completes when every member that has not exited has arrived in it (06 R133). -/
def settleBar (s : State) (team scope num : Nat) : State :=
  let b := s.hwBar team scope num
  let teams := s.barTeams team scope
  if !b.arrived.isEmpty && teams.length == s.barExpected team scope && (s.barAlive teams).all (b.arrived.contains ·) then
    wakeBar (s.putHwBar team scope num { arrived := [], phase := !b.phase }) teams scope num b.phase
  else s

/-- Every barrier of which a team's threads are members. -/
def settleBars (s : State) (team : Nat) : State :=
  settleBar (settleBar ((List.range 4).foldl (fun u n => settleBar u team 0 n) s) team 1 0) team 2 0

/-- The dynamic scope conditions (06 R134): COLLECTIVE 0x03 and 0x04. -/
def checkBarScope (c : Cx) (scope : Nat) : Chk Unit :=
  let d := declOf c.t.rdw
  if scope = 1 ∧ !d.clus then stopTrap cCollective 3
  else if scope = 2 ∧ !d.coop then stopTrap cCollective 4
  else .ok ()

/-- The scope and number of a barrier word (06 R132). -/
def barScope (f : Fields) : Nat := f.imm.toNat % 4
def barNumber (f : Fields) : Nat := f.imm.toNat / 4 % 4

/-- An arrival that can be made: the thread has not arrived in this phase, and every x write of it is known (06 R134,
R135). -/
def canArrive (c : Cx) (b : HwBar) : Bool :=
  !b.arrived.contains c.r && c.t.xpend.all fun w => w.tid != c.r.tid || w.of.isNone

/-- An arrival at a scope wider than the core follows the performance of what its core has queued before it (06 R135). -/
def arriveAfter (s : State) (c : Cx) (scope : Nat) (b : HwBar) (k : Eff) : Eff :=
  if !canArrive c b then .wait else if scope = 0 then k else afterQueue s c k

/-- The arrival itself, a release (06 R134, R135). -/
def arriveBar (s : State) (c : Cx) (scope num : Nat) (b : HwBar) : State :=
  (s.releaseTeam c).putHwBar c.r.team scope num { b with arrived := b.arrived ++ [c.r] }

/-- BAR (06 R134). -/
def execBar (g : Guard) (f : Fields) (s : State) : Out State :=
  runFull 0x30 5 g f s fun c =>
    let scope := barScope f
    let num := barNumber f
    let b := s.hwBar c.r.team scope num
    Eff.ofChk (checkBarScope c scope) fun _ =>
      let t := (arriveBar s c scope num b).modThread c.r fun th => { th with wait := .bar scope num b.phase }
      arriveAfter s c scope b (linkStop s c (.here (settleBar t c.r.team scope num)))

/-- BARA (06 R134). -/
def execBara (g : Guard) (f : Fields) (s : State) : Out State :=
  runFull 0x30 6 g f s fun c =>
    let scope := barScope f
    let num := barNumber f
    let b := s.hwBar c.r.team scope num
    Eff.ofChk (checkBarScope c scope) fun _ =>
      arriveAfter s c scope b
        (linkStop s c (.next (settleBar ((arriveBar s c scope num b).setP c.r f.d.toNat b.phase) c.r.team scope num)))

/-- BARW (06 R134): returns when the phase differs from the predicate, an acquire. -/
def execBarw (g : Guard) (f : Fields) (s : State) : Out State :=
  runFull 0x30 7 g f s fun c =>
    let scope := barScope f
    let num := barNumber f
    let b := s.hwBar c.r.team scope num
    Eff.ofChk (checkBarScope c scope) fun _ =>
      if b.phase != c.p f.d.toNat then .next (if scope = 0 then s else s.dropL1 c.t.core)
      else .here (s.modThread c.r fun th => { th with wait := .bar scope num b.phase })

end Sys2Proof.Machine
end

