-- ==== Sys2Proof/Machine/Log.lean ====
section
/-! DEFINITION. The error log and the black-box ring of each die (18 R384). -/

namespace Sys2Proof.Machine

/-- A record appended: the count rises and the last 4,096 records stay (18 R384). -/
def Log.push (l : Log) (r : LogRec) : Log :=
  { count := l.count + 1, recs := if l.recs.length < 4096 then l.recs ++ [r] else l.recs.drop 1 ++ [r] }

/-- Kinds 1 to 8 and 11 are error records (18 R384). -/
def isErrorKind (kind : Nat) : Bool := (decide (1 ≤ kind) && decide (kind ≤ 8)) || kind == 11

/-- A record posted by a die: every one to its ring, an error record also to its log (18 R384). -/
def State.postRecord (s : State) (die kind unitNo : Nat) (d0 d1 : Word) : State :=
  let r : LogRec := ⟨kind, unitNo, Config.recordCycles s.free, d0, d1⟩
  let put (ls : List Log) : List Log := ls.modify die (·.push r)
  { s with
    free := s.free + 1
    hst := { s.hst with
      rings := put s.hst.rings
      elogs := if isErrorKind kind then put s.hst.elogs else s.hst.elogs } }

/-- The die whose log has the records of a location: its stack, the Eland die, or, whatever its home slice, die 0 for compute
HBM (DESIGN CHOICE, log 130). -/
def logDie (loc : Nat) : Nat :=
  if 2 ^ 58 ≤ loc then 2
  else if isTile loc then (loc - 2 ^ 57) / 2 ^ 20 / 192
  else if isScratch loc then (loc - 2 ^ 56) / 2 ^ 20 / 768
  else 0

/-- The location is a byte of an array of the package. -/
def installed (loc : Nat) : Bool := decide (loc < hbmSize) || (decide (2 ^ 56 ≤ loc) && decide (loc < 2 ^ 59))

/-- Poison created at a granule: a record of KIND 2 (07 R162, 18 R384). -/
def State.createPoison (s : State) (g : Nat) : State :=
  { s.poisonAt (span (8 * g) 8) with errors := s.errors.filter (· != g) }.postRecord (logDie (8 * g)) 2 0
    (BitVec.ofNat 64 (8 * g)) 0

/-- An engine reads locations: an uncorrectable error that it finds has no consuming instruction, so its granule becomes
poisoned (07 R162). -/
def State.found (s : State) (locs : List Nat) : State :=
  if s.errors.isEmpty then s else ((granulesOf locs).filter (s.errors.contains ·)).foldl State.createPoison s

/-- Poison cannot appear where a returning atomic of a queue is on its way: ECC at that instruction would come after
the thread has gone on (01 R23, 08 R178, log 86). -/
def poisonWaits (s : State) (locs : List Nat) : Bool :=
  s.queue.any fun e =>
    match e.what with
    | .rmw _ _ loc _ _ _ true => locs.any fun l => l / 8 == loc / 8
    | _ => false

end Sys2Proof.Machine
end

