-- ==== Sys2Proof/Machine/Access.lean ====
section
/-! DEFINITION. What the accesses of threads share: reading bytes through the store queue, the L1 and the homes
(08 R168-R170, 07 R154), entering the store queue, and the outstanding counters (09 R204). -/

namespace Sys2Proof.Machine

/-- The scopes of 09 R187 that reach beyond the core: cluster and wider, which all order alike; thread scope orders as
team scope does. DESIGN CHOICE (log 95): 08 R164 requires less of the narrower scopes. -/
def wideScope (code : Nat) : Bool := decide (2 ≤ code)

/-- The size of an atomic's operand (09 R200). -/
def atomicSize (ty : Nat) : Nat := if ty = 1 then 8 else 4

/-- The locations an entry of the store queue writes. -/
def QEntry.locs (e : QEntry) : List Nat :=
  match e.what with
  | .write bs => bs.map Prod.fst
  | .rmw _ ty loc _ _ _ _ => (List.range (atomicSize ty)).map (loc + ·)
  | .fence => []

/-- The byte an entry gives a location, unless only its performance decides it. -/
def QEntry.byteAt (e : QEntry) (loc : Nat) : Option Byte :=
  match e.what with
  | .write bs => (bs.reverse.find? fun w => w.1 == loc).map Prod.snd
  | _ => none

/-- The youngest entry of its core's queue that a thread sees over a location: its own, or one that has left (08 R168). -/
def seenEntry (q : List QEntry) (core : Nat) (r : TRef) (loc : Nat) : Option QEntry :=
  q.reverse.find? fun e => e.core == core && (e.who == r || e.left) && e.locs.contains loc

/-- A core's L1 byte of a location, if a line holds it (07 R154). -/
def l1Byte (s : State) (core loc : Nat) : Option Byte :=
  (s.l1.find? fun l => l.core == core && decide (l.loc ≤ loc) && decide (loc < l.loc + 128)).map fun l =>
    l.bytes.getD (loc - l.loc) 0

/-- A byte as a thread's load reads it; none while an atomic that it sees there has not been performed (08 R168, R170).
`wide` for a load of cluster scope or wider. -/
def readByte (s : State) (c : Cx) (wide : Bool) (n loc : Nat) : Option Byte :=
  match seenEntry s.queue c.t.core c.r loc with
  | some e => e.byteAt loc
  | none =>
    if wide || !isHbm loc then some (homeByte s c.th.priv n loc)
    else some ((l1Byte s c.t.core loc).getD (homeByte s c.th.priv n loc))

/-- Several bytes; `n` numbers the free values of bytes outside the device. -/
def readBytes (s : State) (c : Cx) (wide : Bool) : Nat → List Nat → Option (List Byte)
  | _, [] => some []
  | n, l :: ls =>
    match readByte s c wide n l, readBytes s c wide (n + 1) ls with
    | some b, some bs => some (b :: bs)
    | _, _ => none

/-- The bytes of a thread's load that its core's store queue does not serve (08 R168). -/
def unserved (s : State) (c : Cx) (locs : List Nat) : List Nat :=
  locs.filter fun l => (seenEntry s.queue c.t.core c.r l).isNone

/-- What a read leaves: free values used; for a load beyond L1 its core's copies taken anew from their home, never from
the store queue (08 R168, R170); and the lines it reads at their home filled in L2, with the plane index the access names
(07 R160). What is read outside the device is asked for over its link (18 R379). -/
def afterRead (s : State) (c : Cx) (wide : Bool) (plane : Nat → Nat) (locs : List Nat) : State :=
  { s with
    free := if locs.any isOutside then s.free + locs.length else s.free
    outbound := if (unserved s c locs).any isOutside then s.outbound ++ outReads locs else s.outbound
    l1 := if wide then refreshL1 s.mem c.t.core (unserved s c locs) s.l1 else s.l1
    l2 := (unserved s c locs).foldl (fun x l => if wide || (l1Byte s c.t.core l).isNone then x.touch (plane l) [l] else x) s.l2 }

/-- A read over UALink fails after retry: no port is up, or the link has failed it (18 R380). -/
def linkReadFails (s : State) (locs : List Nat) : Bool :=
  locs.any isRemote && (s.readFail || s.boot.ports.isEmpty)

/-- The ECC sub-cause of a core's L1 copies of these locations (07 R161, R162). -/
def l1Sub (s : State) (core : Nat) (locs : List Nat) : Option Nat :=
  (s.l1.filter fun ln => ln.core == core).findSome? fun ln =>
    (ln.flaws.find? fun x => locs.any fun l => l / 8 == x.1).map fun x => if x.2 then 5 else 3

/-- The ECC sub-cause that a thread's read of these locations meets. -/
def readSub (s : State) (core : Nat) (wide : Bool) (locs : List Nat) : Option Nat :=
  match eccSub s locs with
  | some n => some n
  | none => if wide then none else l1Sub s core locs

/-- The granules of these locations that no store waiting in the core's queue writes whole: such a store clears what stands
there before any later access of its core is performed (07 R162, 08 R168). -/
def notOverwritten (s : State) (core : Nat) (locs : List Nat) : List Nat :=
  locs.filter fun l => !(s.queue.any fun e => e.core == core &&
    (match e.what with
    | .write bs => (wholeGranules (bs.map Prod.fst)).contains (l / 8)
    | _ => false))

/-- ECC of an access that reads these locations at their homes. -/
def checkDamage (s : State) (locs : List Nat) (va : Word) (ak : Nat) : Chk Unit :=
  match eccSub s locs with
  | some n => stopTrap cEcc n va ak
  | none => .ok ()

/-- The first error that a read meets among its parts, each with its address (07 R161, R162, 18 R380): the address, the ECC
sub-cause, and whether it is a failed link read. Only the bytes that the store queue does not serve are read from an array
or a link (08 R168). -/
def readFlaw (s : State) (c : Cx) (wide : Bool) : List (Word × List Nat) → Option (Word × Nat × Bool)
  | [] => none
  | (va, locs) :: ps =>
    let out := unserved s c locs
    if linkReadFails s out then some (va, 3, true)
    else
      match readSub s c.t.core wide out with
      | some n => some (va, n, false)
      | none => readFlaw s c wide ps

/-- A read for a thread's instruction, in parts with an address each: it waits, raises ECC, or goes on with the bytes. A
failed link read is used up. `plane` is the plane index that a location's access names (07 R160). -/
def withParts (s : State) (c : Cx) (wide : Bool) (plane : Nat → Nat) (parts : List (Word × List Nat)) (ak : Nat)
    (k : State → List Byte → Eff) : Eff :=
  let locs := parts.flatMap Prod.snd
  if sleeping s (unserved s c locs) then .wait
  else
    match readFlaw s c wide parts with
    | some (va, n, link) =>
      .trapAt { s with readFail := s.readFail && !link } { cause := cEcc, sub := n, va := va, ak := ak }
    | none =>
      match readBytes s c wide 0 locs with
      | none => .wait
      | some bs => k (afterRead s c wide plane locs) bs

/-- A read at one address that names no plane. -/
def withBytes (s : State) (c : Cx) (wide : Bool) (locs : List Nat) (va : Word) (ak : Nat)
    (k : State → List Byte → Eff) : Eff :=
  withParts s c wide (fun _ => 0) [(va, locs)] ak k

/-- A load-class operation issued: its results are awaited and it counts on LD (01 R22, 09 R204). -/
def State.addPending (s : State) (r : TRef) (p : Pending) : State :=
  ({ s with uid := s.uid + 1 }.modThread r fun th =>
      { th with pend := th.pend ++ [p], cntLd := if p.counted then th.cntLd + 1 else th.cntLd }).awaitX r
    (p.xregs.map Prod.fst) p.uid

/-- An entry put at the end of a core's store queue; a fence that nothing precedes leaves no mark (08 R168, R176). -/
def State.enqueue (s : State) (e : QEntry) : State :=
  { s with uid := s.uid + 1, queue := s.queue ++ [e] }

/-- A store issued: the bytes enter the queue and it counts on ST (09 R190, R204). -/
def State.issueStore (s : State) (c : Cx) (va : Word) (bytes : List Host.Cell) (rel : Bool) : State :=
  (s.enqueue { uid := s.uid, core := c.t.core, who := c.r, va := va, what := .write bytes, rel := rel }).modThread c.r
    fun th => { th with cntSt := th.cntSt + 1 }

/-- The same of a PST, which writes two bytes at each address (09 R198). -/
def State.issuePlanes (s : State) (c : Cx) (vas : List Word) (bytes : List Host.Cell) : State :=
  (s.enqueue { uid := s.uid, core := c.t.core, who := c.r, va := vas.headD 0, what := .write bytes, planes := vas }).modThread
    c.r fun th => { th with cntSt := th.cntSt + 1 }

/-- The alignment check of 01 R18. -/
def checkAligned (va : Word) (size ak : Nat) : Chk Unit := failIf (va.toNat % size != 0) cAlign 0 va ak

/-- Steps whose operation completes on a counter: the counter drops by one. -/
def Thread.doneLd (th : Thread) : Thread := { th with cntLd := th.cntLd - 1 }
def Thread.doneSt (th : Thread) : Thread := { th with cntSt := th.cntSt - 1 }
def Thread.doneAs (th : Thread) : Thread := { th with cntAs := th.cntAs - 1 }
def Thread.doneMx (th : Thread) : Thread := { th with cntMx := th.cntMx - 1 }

end Sys2Proof.Machine
end

