-- ==== Sys2Proof/Machine/BarrierRegs.lean ====
section
/-! DEFINITION. Barrier registers (11 R237-R244): their events, what each event completes and whom it wakes, and the
instructions of OP 0x31. -/

namespace Sys2Proof.Machine

/-- A barrier register and a stream register of a team. -/
def Team.bar (t : Team) (b : Nat) : BarReg := t.bars.getD b {}
def Team.strm (t : Team) (q : Nat) : StreamReg := t.strms.getD q {}

/-- The descriptor of a stream (11 R245): slots, bytes of a slot, offset of a slot, barrier of a slot. -/
def StreamReg.slots (q : StreamReg) : Nat := bitField q.desc.toNat 48 3 + 1
def StreamReg.size (q : StreamReg) : Nat := bitField q.desc.toNat 32 16 * 16
def StreamReg.offset (q : StreamReg) (slot : Nat) : Nat := bitField q.desc.toNat 0 32 + slot * q.size
def StreamReg.barOf (q : StreamReg) (slot : Nat) : Nat := bitField q.desc.toNat 52 4 + slot

/-- The completion of a phase after an event (11 R238). -/
def BarReg.settle (b : BarReg) : BarReg :=
  if b.valid && b.ra == 0 && b.rb == 0 then { b with phase := !b.phase, ra := b.ea, rb := b.eb } else b

/-- The core of a team. -/
def State.coreOf (s : State) (team : Nat) : Nat := (s.teams[team]?).elim 0 Team.core

/-- A QPOP returns (11 R248): its result, the claim over, an acquire. -/
def returnPop (s : State) (r : TRef) (q slot d : Nat) (k : StreamReg) : State :=
  let t := (s.wakeBanks (s.coreOf r.team) [d, d + 1]).setPair r d (BitVec.ofNat 64 (k.offset slot))
  let u := t.modTeam r.team fun tm =>
    { tm with strms := tm.strms.set q { k with claims := k.claims.filter fun x => !(x == (slot, r.tid)) } }
  u.dropL1 (u.coreOf r.team)

/-- What an event on a barrier register does for one thread that waits there in BRWAIT or QPOP (11 R242, R243, R248).
DESIGN CHOICE (log 112): the barrier and the offset of a claimed slot are those of the descriptor that the stream register
holds now, also where QCFG has replaced the one of the claim. -/
def wakeOn (s : State) (team b tid : Nat) : State :=
  match s.viewOf ⟨team, tid⟩ with
  | none => s
  | some c =>
    let k := c.t.bar b
    if c.th.run != .running then s
    else
      match c.th.wait with
      | .brwait n pr ph =>
        if n ≠ b then s
        else if !k.valid then s.modThread c.r fun th => (th.setP pr false).advance
        else if k.phase != ph then (s.modThread c.r fun th => (th.setP pr true).advance).dropL1 c.t.core
        else s
      | .qpop q slot d =>
        let st := c.t.strm q
        if st.barOf slot ≠ b then s
        else if !k.valid then (if c.th.quiet then s.takeTrap c { cause := cBarBusy, sub := 6 } else s)
        else if k.phase then (returnPop s c.r q slot d st).modThread c.r Thread.advance
        else s
      | _ => s

/-- A thread that waits in QPOP looks at its slot's register again (11 R248). -/
def State.rewait (s : State) (r : TRef) : State :=
  match s.viewOf r with
  | none => s
  | some c =>
    match c.th.wait with
    | .qpop q slot _ => wakeOn s r.team ((c.t.strm q).barOf slot) r.tid
    | _ => s

/-- An event on a barrier register (11 R238). -/
def State.barEvent (s : State) (team b : Nat) (f : BarReg → BarReg) : State :=
  match s.teams[team]? with
  | none => s
  | some t =>
    let u := s.modTeam team fun x => { x with bars := x.bars.set b (f (t.bar b)).settle }
    (List.range t.threads.length).foldl (fun v i => wakeOn v team b i) u

/-- Bytes of a transfer arrive on a register (11 R238): counted only while it is valid. -/
def State.land (s : State) (team b n : Nat) : State :=
  s.barEvent team b fun k => if k.valid then { k with rb := k.rb - n } else k

/-- Every granule of a plane of a copy has landed: a bit of `landed` per 16 bytes. -/
def CopyPlane.complete (p : CopyPlane) : Bool := p.landed == 2 ^ (p.len / 16) - 1

/-- A queued or started transfer names the register (11 R239). A CPYP names each of its registers until its own plane has
landed whole, though other planes are pending (DESIGN CHOICE, log 91). -/
def transfersOn (s : State) (team b : Nat) : Bool :=
  (s.copies.any fun x => x.who.team == team && x.planes.any fun p => p.bar == some b && !p.complete) ||
  (s.smpls.any fun x => x.who.team == team && x.bar == some b) ||
  (s.attns.any fun x => x.who.team == team && x.bar == some b)

/-- A thread of the team waits on the register in BRWAIT or QPOP. -/
def waitersOn (t : Team) (b : Nat) : Bool :=
  t.threads.any fun th => th.run == .running &&
    (match th.wait with
      | .brwait n _ _ => n == b
      | .qpop q slot _ => (t.strm q).barOf slot == b
      | _ => false)

/-- The register is busy: BARBUSY 0x01 (11 R239). -/
def barBusy (s : State) (team b : Nat) : Bool :=
  transfersOn s team b || (s.teams[team]?).any fun t => waitersOn t b

/-- BRINIT's effect (11 R239). -/
def BarReg.init (ea eb : Nat) : BarReg := { valid := true, phase := false, ea := ea, ra := ea, rb := eb, eb := eb }

/-- BRINIT (11 R239). -/
def execBrinit (g : Guard) (f : Fields) (s : State) : Out State :=
  runFull 0x31 0 g f s fun c =>
    let b := f.d.toNat
    let w := (c.x f.a.toNat).toNat
    let ea := bitField w 0 11
    let eb := bitField w 32 32
    if bitField w 11 21 ≠ 0 ∨ 1024 < ea ∨ (ea = 0 ∧ eb = 0) then .trap { cause := cBarBusy, sub := 2 }
    else if barBusy s c.r.team b then .trap { cause := cBarBusy, sub := 1 }
    else .next (s.barEvent c.r.team b fun _ => BarReg.init ea eb)

/-- BRDUE (11 R240). -/
def execBrdue (g : Guard) (f : Fields) (s : State) : Out State :=
  runFull 0x31 1 g f s fun c =>
    let b := f.d.toNat
    let n := (c.x f.a.toNat).toNat
    let k := c.t.bar b
    if 2 ^ 32 ≤ n then .trap { cause := cBarBusy, sub := 2 }
    else if !k.valid || n == 0 then .next s
    else if 2 ^ 39 - 1 < k.rb + n then .trap { cause := cBarBusy, sub := 3 }
    else .next (s.barEvent c.r.team b fun k => { k with rb := k.rb + n })

/-- BRARV (11 R241): a release at team scope. -/
def execBrarv (g : Guard) (f : Fields) (s : State) : Out State :=
  runFull 0x31 2 g f s fun c =>
    let b := f.d.toNat
    let k := c.t.bar b
    if k.valid && k.ra == 0 then .trap { cause := cBarBusy, sub := 4 }
    else
      let t := (s.releaseTeam c).setP c.r (lowBits f.a 0 3) k.phase
      linkStop s c (.next (t.barEvent c.r.team b fun k => if k.valid then { k with ra := k.ra - 1 } else k))

/-- The predicates of BRWAIT and BRTRY: compared, and written (11 R231). -/
def brPp (f : Fields) : Nat := lowBits f.a 0 3
def brPr (f : Fields) : Nat := lowBits f.a 3 3

/-- BRWAIT (11 R242). -/
def execBrwait (g : Guard) (f : Fields) (s : State) : Out State :=
  runFull 0x31 3 g f s fun c =>
    let b := f.d.toNat
    let k := c.t.bar b
    let ph := c.p (brPp f)
    if !k.valid then .next (s.setP c.r (brPr f) false)
    else if k.phase != ph then .next ((s.setP c.r (brPr f) true).dropL1 c.t.core)
    else .here (s.modThread c.r fun th => { th with wait := .brwait b (brPr f) ph })

/-- BRTRY (11 R242). -/
def execBrtry (g : Guard) (f : Fields) (s : State) : Out State :=
  runFull 0x31 4 g f s fun c =>
    let k := c.t.bar f.d.toNat
    let seen := k.valid && k.phase != c.p (brPp f)
    let t := s.setP c.r (brPr f) seen
    .next (if seen then t.dropL1 c.t.core else t)

/-- BRINV (11 R243): a release at team scope; nothing on an invalid register. -/
def execBrinv (g : Guard) (f : Fields) (s : State) : Out State :=
  runFull 0x31 5 g f s fun c =>
    let b := f.d.toNat
    if !(c.t.bar b).valid then .next s
    else linkStop s c (.next ((s.releaseTeam c).barEvent c.r.team b fun k => { k with valid := false }))

end Sys2Proof.Machine
end

