-- ==== Sys2Proof/Machine/Herd.lean ====
section
/-! DEFINITION. The herd at its homes (10 R208-R219, R225, R226): patterns, selection, ageing, parking, offering,
waiting and admission, the arrival of each kind of request, and its completion (R221). -/

namespace Sys2Proof.Machine

/-! ### Patterns and tuples -/

/-- The operation, the mask field and the field count of a pattern (10 R212). -/
def patternOp (pat : W32) (f : Nat) : Nat := if f = 0 then 1 else bitField pat.toNat (3 * f - 3) 3
def patternMask (pat : W32) : Nat := bitField pat.toNat 21 3
def patternCount (pat : W32) : Nat := bitField pat.toNat 24 4

/-- One field compared (10 R212), natural. -/
def fieldMatches (op : Nat) (t v m : Word) : Bool :=
  match op with
  | 0 => true
  | 1 => t == v
  | 2 => t != v
  | 3 => decide (t.toNat < v.toNat)
  | 4 => decide (t.toNat ≤ v.toNat)
  | 5 => decide (v.toNat < t.toNat)
  | 6 => decide (v.toNat ≤ t.toNat)
  | _ => (t ^^^ v) &&& m == 0

/-- A tuple's fields match a pattern with its template (10 R212). -/
def tupleMatches (pat : W32) (template fields : List Word) : Bool :=
  (List.range 8).all fun f =>
    fieldMatches (patternOp pat f) (fields.getD f 0) (template.getD f 0) (template.getD (patternMask pat) 0)

/-- A malformed pattern register: HERD 0x02 (10 R212). -/
def patternBad (x : Word) : Bool :=
  let pat : W32 := x.setWidth 32
  bitField x.toNat 28 36 != 0 || patternCount pat == 0 || decide (8 < patternCount pat) ||
    (patternMask pat == 0 && (List.range 8).any fun f => patternOp pat f == 7) ||
    (patternMask pat != 0 && patternOp pat (patternMask pat) != 0)

/-- A request names a tuple's region and kind, and matches it. -/
def HReq.accepts (q : HReq) (region : Nat) (fields : List Word) : Bool :=
  q.region == region && tupleMatches q.pat q.fields fields

/-- Field 7 of an ordered region: the effective class and the age (10 R211). -/
def classOf (w : Word) : Nat := bitField w.toNat 4 3
def ageOf (w : Word) : Nat := bitField w.toNat 8 5

/-- Field 7 as an ordered region stores a deposit's (10 R211). -/
def storedClass (w : Word) : Word :=
  let cls := w.toNat % 8
  BitVec.ofNat 64 (w.toNat / 65536 * 65536 + cls * 16 + cls)

/-- One pass counted on a tuple's field 7 (10 R216). -/
def ageWord (w : Word) : Word :=
  let age := ageOf w + 1
  let up := if age = 16 then min (classOf w + 1) 7 else classOf w
  let kept := if age = 16 ∨ up = 7 then 0 else age
  BitVec.ofNat 64 (w.toNat / 65536 * 65536 + kept * 256 + up * 16 + w.toNat % 8)

/-- The fields of a free page (17 R354). -/
def pageFields (pn : Nat) : List Word := [0, BitVec.ofNat 64 pn, 0, 0, 0, 0, 0, 0]

/-! ### The herd -/

def Herd.region? (h : Herd) (n : Nat) : Option Region := h.regions.find? fun r => r.num == n

/-- The tuples a region may hold (10 R210). -/
def Region.capacity (r : Region) : Nat := r.size * 512

/-- The free pages in runs. -/
def Herd.freeRuns (h : Herd) : Nat := h.pages.foldl (fun n r => n + r.2) 0

/-- The tuples a region holds, pending ones among them (10 R210). -/
def Herd.count (h : Herd) (region : Nat) : Nat :=
  (h.tuples.filter fun t => t.region == region).length + if region = pageRegion then h.freeRuns else 0

/-- The lowest page of the runs that a request accepts. -/
def pageFor (q : HReq) : List (Nat × Nat) → Option Nat
  | [] => none
  | (a, n) :: rs =>
    match firstFrom (fun i => q.accepts pageRegion (pageFields i)) n a with
    | some i => some i
    | none => pageFor q rs

/-- A page taken out of the runs. -/
def withoutPage (pn : Nat) : List (Nat × Nat) → List (Nat × Nat)
  | [] => []
  | (a, n) :: rs =>
    if a ≤ pn ∧ pn < a + n then
      ((if a < pn then [(a, pn - a)] else []) ++ if pn + 1 < a + n then [(pn + 1, a + n - pn - 1)] else []) ++ rs
    else (a, n) :: withoutPage pn rs

/-- The better of two visible tuples by 10 R215. -/
def preferred (ordered : Bool) (x y : HTuple) : HTuple :=
  let cx := classOf (x.fields.getD 7 0)
  let cy := classOf (y.fields.getD 7 0)
  if ordered && cx != cy then (if cx < cy then y else x) else if x.arr ≤ y.arr then x else y

/-- The best of a list of visible tuples. -/
def bestOf (ordered : Bool) : List HTuple → Option HTuple
  | [] => none
  | t :: ts => some (ts.foldl (preferred ordered) t)

/-- What a copy or take selects (10 R215): the pages of the runs are the oldest of their kind. -/
def Herd.select (h : Herd) (ordered : Bool) (q : HReq) : Option HTuple :=
  match (if q.region = pageRegion ∧ q.fields.getD 0 0 = 0 then pageFor q h.pages else none) with
  | some n => some ⟨pageRegion, pageFields n, 0, 0, 0⟩
  | none => bestOf ordered (h.tuples.filter fun t => t.pending == 0 && q.accepts t.region t.fields)

/-- A tuple taken away. -/
def Herd.without (h : Herd) (t : HTuple) : Herd :=
  if t.arr = 0 ∧ t.dep = 0 then { h with pages := withoutPage (t.fields.getD 1 0).toNat h.pages }
  else { h with tuples := h.tuples.filter fun x => !(x.dep == t.dep) }

/-- The ageing of an ordered take that selects a tuple (10 R216). -/
def Herd.age (h : Herd) (q : HReq) (w : HTuple) : Herd :=
  { h with tuples := h.tuples.map fun x =>
      if x.pending = 0 ∧ x.dep ≠ w.dep ∧ q.accepts x.region x.fields ∧
          classOf (x.fields.getD 7 0) < classOf (w.fields.getD 7 0) then
        { x with fields := x.fields.set 7 (ageWord (x.fields.getD 7 0)) }
      else x }

/-- A request completed with a status code and fields (10 R221). -/
def Herd.finish (h : Herd) (q : HReq) (code : Nat) (fields : List Word) : Herd :=
  { h with done := h.done ++ [⟨q.uid, q.src, q.op, q.region, code, fields⟩] }

/-- The request copies and does not take. -/
def HReq.copies (q : HReq) : Bool :=
  match q.op with
  | .cpy _ => true
  | _ => false

/-- The offer of a visible tuple to the parked requests, in park order (10 R218): those that stay parked, the
completions, and whether a taker took it. -/
def offerTo (t : HTuple) : List HReq → List HReq × List HDone × Bool
  | [] => ([], [], false)
  | r :: rs =>
    if r.accepts t.region t.fields then
      let d : HDone := ⟨r.uid, r.src, r.op, r.region, 0, t.fields⟩
      if r.copies then
        let x := offerTo t rs
        (x.1, d :: x.2.1, x.2.2)
      else (rs, [d], true)
    else
      let x := offerTo t rs
      (r :: x.1, x.2)

/-- `offer` of 10 R218, of a tuple that is stored and visible. -/
def Herd.offer (h : Herd) (t : HTuple) : Herd :=
  let x := offerTo t h.parked
  let g : Herd := { h with parked := x.1, done := h.done ++ x.2.1 }
  if x.2.2 then g.without t else g

/-- The next place in the arrival order (10 R213, R214). -/
def Herd.tick (h : Herd) : Herd := { h with arrivals := h.arrivals + 1 }

/-- HDEP and HDEPC at their home (10 R218). -/
def Herd.deposit (h : Herd) (rg : Region) (q : HReq) (pending : Nat) (tryForm : Bool) : Herd :=
  if rg.capacity ≤ h.count rg.num then
    if tryForm then h.finish q 2 [] else { h with waiting := h.waiting ++ [q] }
  else
    let n := h.arrivals
    let fields := if rg.ordered then q.fields.set 7 (storedClass (q.fields.getD 7 0)) else q.fields
    let t : HTuple := ⟨rg.num, fields, pending, n, n⟩
    let g := { h with tuples := h.tuples ++ [t] }.finish q 0 []
    if pending = 0 then g.offer t else g

/-- Copies and takes at their home (10 R218). -/
def Herd.matchReq (h : Herd) (rg : Region) (q : HReq) (take tryForm : Bool) : Herd :=
  match h.select rg.ordered q with
  | none => if tryForm then h.finish q 1 [] else { h with parked := h.parked ++ [q] }
  | some w =>
    if take then (((if rg.ordered then h.age q w else h).without w).finish q 0 w.fields) else h.finish q 0 w.fields

/-- The oldest pending tuple by deposit order that a request accepts (10 R219). -/
def Herd.oldestPending (h : Herd) (q : HReq) : Option HTuple :=
  match h.tuples.filter fun t => t.pending != 0 && q.accepts t.region t.fields with
  | [] => none
  | t :: ts => some (ts.foldl (fun x y => if y.dep < x.dep then y else x) t)

/-- HDEC at its home (10 R218). -/
def Herd.decrement (h : Herd) (q : HReq) : Herd :=
  match h.oldestPending q with
  | none => h.finish q 5 []
  | some p =>
    let new : HTuple := { p with pending := p.pending - 1, arr := h.arrivals }
    let g := { h with tuples := h.tuples.map fun (t : HTuple) => if t.dep = p.dep then new else t }.finish q 0 []
    if p.pending = 1 then g.offer new else g

/-- HCAN at its home (10 R225). -/
def Herd.withdraw (h : Herd) (q : HReq) (target : Nat) : Herd :=
  match h.parked.find? fun r => r.uid == target with
  | some r => ({ h with parked := h.parked.filter fun x => !(x.uid == target) }.finish r 3 []).finish q 0 []
  | none => h.finish q 6 []

/-! ### Arrivals -/

/-- A waiting deposit of the region must be admitted before anything else is performed in it (10 R218). -/
def Herd.admissionDue (h : Herd) (region : Nat) : Bool :=
  match h.region? region with
  | none => false
  | some r => decide (h.count region < r.capacity) && h.waiting.any fun q => q.region == region

/-- A request can arrive: what it releases is performed, its agent's earlier requests to the home have arrived
(10 R213, R227), and no admission of the region is due. -/
def arrives (s : State) (q : HReq) : Bool :=
  !(s.queue.any fun e => e.core == q.core && decide (e.uid < q.mark)) &&
  !(s.herd.flying.any fun p => p.src == q.src && p.region == q.region && p.fields.getD 0 0 == q.fields.getD 0 0 &&
    decide (p.uid < q.uid)) &&
  !s.herd.admissionDue q.region

/-- A request on its way that can arrive. -/
def arrival (s : State) (uid : Nat) : Option HReq :=
  match s.herd.flying.find? fun q => q.uid == uid with
  | none => none
  | some q => if arrives s q then some q else none

/-- A request leaves the network and is performed whole, at the next place of the arrival order (10 R213). One to a
region deleted before it arrives completes with DELETED (R226). -/
def arriveAt (s : State) (q : HReq) (k : Herd → Region → Herd) : State :=
  let h := { s.herd with flying := s.herd.flying.filter fun p => !(p.uid == q.uid) }.tick
  { s with herd := match h.region? q.region with
      | none => h.finish q 4 []
      | some r => k h r }

/-- HERD_DEPOSIT_ARRIVAL. -/
def arriveDeposit (s : State) (uid : Nat) : Option State :=
  match arrival s uid with
  | none => none
  | some q =>
    match q.op with
    | .dep pending tryForm => some (arriveAt s q fun h r => h.deposit r q pending tryForm)
    | _ => none

/-- A stored tuple whose record fails its check code is discarded, with a record of KIND 3 of its die (10 R226, 18 R384).
The same happens to one that holds an uncorrectable error where no instruction of a thread consumes it (log 87). -/
def discardTuple (s : State) (dep die unitNo : Nat) : Option State :=
  (s.herd.tuples.find? fun t => t.dep == dep).map fun t =>
    { s with herd := { s.herd with tuples := s.herd.tuples.filter fun x => x.dep != dep } }.postRecord die 3 unitNo
      (BitVec.ofNat 64 t.region) 0

/-- The error that a copy or take meets in the tuple it selects: the tuple's place, and whether the error has been found
(07 R161, R162). -/
def Herd.flawMet (h : Herd) (q : HReq) : Option (Nat × Bool) :=
  (h.region? q.region).bind fun r => (h.select r.ordered q).bind fun w => h.flaws.find? fun x => x.1 == w.dep && w.dep != 0

/-- The counter a herd instruction is counted on (10 R221): deposits on ST, the others on LD. -/
def HPend.uncount (p : HPend) (th : Thread) : Thread := if p.fn ≤ 1 then th.doneSt else th.doneLd

/-- A request of a thread taken back: it is counted no more, and the thread stands at its word again. -/
def takeBack (s : State) (r : TRef) (q : HReq) (p : HPend) : State :=
  ({ s with herd := { s.herd with flying := s.herd.flying.filter fun x => !(x.uid == q.uid) } }.modThread r fun th =>
    p.uncount { th with herd := th.herd.filter (fun x => !(x.uid == q.uid)), pc := p.pc }).dropX r q.uid

/-- A parked request as a herd record (15 R335), with its place in the order of parking. -/
def herdRecord (p : HPend) (tid : Nat) (q : HReq) (park : Nat) : Reissue :=
  let w := p.fn + tid * 16 + p.d * 2 ^ 14 + p.ps * 2 ^ 24 + bitNat p.xs.isSome 27 + p.xs.getD 0 * 2 ^ 28
  { kind := 6, words := [BitVec.ofNat 64 w, q.handle, q.pat.setWidth 64] ++ q.fields, park := park }

/-- A thread stopped by a re-issued command, its wait kept (15 R337). DESIGN CHOICE (log 127): a thread that stood stopped
already, at an ordinary fault or at a later command, stands stopped under the new FID. -/
def stopReissued (s : State) (c : Cx) (x : Reissue) (t : Trap) : State :=
  let y := s.postFault c t c.th.pc true c.th.hnd
  y.1.modThread c.r fun th =>
    { th with trapCause := t.word, trapPc := th.pc, trapVa := t.va, run := .faulted y.2, finished := th.isOver,
              reissue := th.reissue.map fun z => { z with failed := z == x } }

/-- A request that a restore sent anew, recorded with its thread again (15 R335, R337): its LD count stands. -/
def recordAgain (s : State) (r : TRef) (q : HReq) (p : HPend) : State :=
  ({ s with herd := { s.herd with flying := s.herd.flying.filter fun x => !(x.uid == q.uid) } }.modThread r fun th =>
    { th with herd := th.herd.filter (fun x => !(x.uid == q.uid)), reissue := herdRecord p r.tid q 0 :: th.reissue }).dropX r q.uid

/-- A copy or take meets an error in the tuple it selects: its thread takes ECC at the instruction, once everything before
it has completed its register effects (01 R23, 07 R161). One that a restore sent anew stops its thread as a re-issued
command that fails does (15 R337). Where no instruction takes it (the thread has ended or been stopped, or the request is
not a thread's) the tuple is discarded. DESIGN CHOICE (log 80): sub-cause 0x03 of an error not yet found. -/
def meetFlaw (s : State) (q : HReq) (flaw : Nat × Bool) : Option State :=
  match q.src with
  | .thread r =>
    match s.viewOf r, (s.thread r).bind fun th => th.herd.find? fun p => p.uid == q.uid with
    | some c, some p =>
      let ak := if p.fn = 3 ∨ p.fn = 5 then Acc.herdR.ak else Acc.herdRW.ak
      let trap : Trap := { cause := cEcc, sub := if flaw.2 then 5 else 3, va := q.handle, ak := ak }
      if c.th.run ≠ .running then discardTuple s flaw.1 0 0
      else if p.pc = 0 then
        let t := recordAgain s r q p
        (t.viewOf r).map fun d => stopReissued t d (herdRecord p r.tid q 0) trap
      else if !c.th.pend.isEmpty || c.th.herd.length != 1 then none
      else
        let t := takeBack s r q p
        (t.viewOf r).map fun d => t.takeTrap d trap
    | _, _ => discardTuple s flaw.1 0 0
  | _ => discardTuple s flaw.1 0 0

/-- HERD_MATCH_ARRIVAL. -/
def arriveMatch (s : State) (uid : Nat) : Option State :=
  match arrival s uid with
  | none => none
  | some q =>
    let go (take tryForm : Bool) : Option State :=
      match s.herd.flawMet q with
      | some flaw => meetFlaw s q flaw
      | none => some (arriveAt s q fun h r => h.matchReq r q take tryForm)
    match q.op with
    | .cpy tryForm => go false tryForm
    | .tak tryForm => go true tryForm
    | _ => none

/-- The tuple with an error in it that an HDEC makes visible to a parked request (07 R161). -/
def Herd.flawRipe (h : Herd) (q : HReq) : Option Nat :=
  match h.oldestPending q with
  | none => none
  | some p =>
    if p.pending = 1 ∧ (h.parked.any fun x => x.accepts p.region p.fields) ∧ h.flaws.any fun x => x.1 == p.dep then some p.dep
    else none

/-- HERD_HDEC_ARRIVAL. A tuple with an error in it is offered to no parked request, whose thread may have gone on past it:
it is discarded (DESIGN CHOICE, log 87). -/
def arriveHdec (s : State) (uid : Nat) : Option State :=
  match arrival s uid with
  | none => none
  | some q =>
    match q.op with
    | .dec =>
      match s.herd.flawRipe q with
      | some dep => discardTuple (arriveAt s q fun h _ => h.finish q 0 []) dep 0 0
      | none => some (arriveAt s q fun h _ => h.decrement q)
    | _ => none

/-- HERD_HCAN_ARRIVAL: after the request it names, in its thread's order, and not while an admission is due (10 R213,
R218, R225). One that arrives after an HDEL of the region has been performed finds its target completed, and answers NOREQ
(DESIGN CHOICE, log 107: R226 gives DELETED to a request that arrives then, R225 NOREQ to this one). -/
def arriveHcan (s : State) (uid : Nat) : Option State :=
  match s.herd.flying.find? fun q => q.uid == uid with
  | none => none
  | some q =>
    match q.op with
    | .can target =>
      if (s.herd.flying.any fun p => p.uid == target) || !arrives s q then none
      else
        let h := { s.herd with flying := s.herd.flying.filter fun p => !(p.uid == uid) }.tick
        some { s with herd := h.withdraw q target }
    | _ => none

/-- A waiting deposit admitted: performed as a new arrival (10 R218). -/
def Herd.admitFirst (h : Herd) (r : Region) (q : HReq) : Herd :=
  match q.op with
  | .dep pending tryForm =>
    Herd.deposit ({ h with waiting := h.waiting.filter fun p => !(p.uid == q.uid) }.tick) r q pending tryForm
  | _ => h

/-- DEPOSIT_ADMIT: the oldest waiting deposit of a home, which a region and a kind name (10 R218). -/
def admitDeposit (s : State) (region : Nat) (kind : Word) : Option State :=
  match s.herd.region? region, s.herd.waiting.find? fun q => q.region == region && q.fields.getD 0 0 == kind with
  | some r, some q => if s.herd.count region < r.capacity then some { s with herd := s.herd.admitFirst r q } else none
  | _, _ => none

/-- Every admission of a region that is due, which comes before any other request of it (10 R218). -/
def Herd.admitAll (region : Nat) : Nat → Herd → Herd
  | 0, h => h
  | n + 1, h =>
    match h.region? region, h.waiting.find? fun q => q.region == region with
    | some r, some q => if h.count region < r.capacity then (h.admitFirst r q).admitAll region n else h
    | _, _ => h

/-- Every admission that is due, in every region. -/
def Herd.admitEvery (h : Herd) : Herd := h.regions.foldl (fun g r => g.admitAll r.num g.waiting.length) h

/-- The number given to requests whose region is gone: no region has it. -/
def goneRegion : Nat := 4096

/-- HERD_HDEL_PERFORM (10 R226): tuples discarded, parked requests and waiting deposits completed with DELETED, the
range free; the threads that wait for it go on. Their earlier requests to the region have arrived, and no admission is
due. The model performs it at every home of the region in one step (DESIGN CHOICE, log 90). -/
def performHdel (s : State) (region : Nat) : Option State :=
  let waiting : List TRef := (List.range s.teams.length).flatMap fun n =>
    match s.teams[n]? with
    | none => []
    | some t => ((List.range t.threads.length).filter fun i =>
        (t.threads[i]?).any fun th => th.wait == .hdel region).map (⟨n, ·⟩)
  if waiting.isEmpty ∨ s.herd.admissionDue region = true ∨ (s.herd.flying.any fun q => q.region == region && waiting.any fun r => q.src == .thread r) then none
  else
    let h := s.herd
    let ended := (h.parked ++ h.waiting).filter fun q => q.region == region
    let keep (l : List HReq) : List HReq := l.filter fun q => !(q.region == region)
    let g : Herd := { h with
      regions := h.regions.filter fun r => !(r.num == region)
      tuples := h.tuples.filter fun t => !(t.region == region)
      pages := if region = pageRegion then [] else h.pages
      pagesTouched := h.pagesTouched && region != pageRegion
      parked := keep h.parked
      waiting := keep h.waiting
      flying := h.flying.map fun q => if q.region = region then { q with region := goneRegion } else q }
    let t : State := { s with herd := (ended.foldl (fun g q => g.finish q 4 []) g).tick }
    some (waiting.foldl (fun (u : State) r => u.modThread r Thread.advance) t)

/-! ### Completion -/

/-- DROPS and BAD of a window (14 R301). -/
def windowCount (s : State) (isRegion : Bool) (num : Nat) : WindowCount :=
  (s.hst.windows.find? fun w => w.isRegion == isRegion && w.num == num).getD ⟨isRegion, num, 0, 0⟩

/-- A window's counts replaced. -/
def State.putWindow (s : State) (w : WindowCount) : State :=
  let rest := s.hst.windows.filter fun x => !(x.isRegion == w.isRegion && x.num == w.num)
  { s with hst := { s.hst with windows := w :: rest } }

/-- A completion reaches the thread's registers (10 R221, R223): the status predicate, xXS, and on OK the fields that
the pattern delivers. A copy or take is then an acquire (R227). -/
def deliverTo (s : State) (r : TRef) (d : HDone) : State :=
  match (s.thread r).bind fun th => th.herd.find? fun p => p.uid == d.uid with
  | none => s
  | some p =>
    let regs := if d.code = 0 then
      (List.range p.nregs).map fun i =>
        let w := d.fields.getD (i / 2) 0
        (p.d + i, if i % 2 = 0 then w.setWidth 32 else (w >>> 32).setWidth 32, ({} : Tag))
      else []
    let t := (s.wakeBanks (s.coreOf r.team) (regs.map Prod.fst)).modThread r fun th =>
      let u := (th.setVs regs).setP p.ps (d.code == 0)
      p.uncount { u with herd := th.herd.filter fun q => !(q.uid == d.uid) }
    let u := t.giveX r d.uid (BitVec.ofNat 64 d.code)
    (if d.code = 0 ∧ 3 ≤ p.fn ∧ p.fn ≤ 6 then u.dropL1 (u.coreOf r.team) else u).rewait r

/-- HERD_REQUEST_COMPLETE (10 R221), by who made the request: a thread; the fault unit, which then holds the resume
tuple (15 R322); a window, which counts a refused deposit (14 R301). -/
def completeHerd (s : State) (uid : Nat) : Option State :=
  match s.herd.done.find? fun d => d.uid == uid with
  | none => none
  | some d =>
    let t : State := { s with herd := { s.herd with done := s.herd.done.filter fun x => !(x.uid == uid) } }
    some (match d.src with
      | .thread r => deliverTo t r d
      | .fu fid =>
        if d.code = 0 then
          { t with fu := { t.fu with
              resumes := t.fu.resumes ++ [⟨fid, d.fields.getD 2 0, d.fields.getD 3 0⟩]
              records := t.fu.records.map (FaultRec.closed fid) } }
        else t
      | .window isRegion num _ =>
        if d.code = 2 then
          let w := windowCount t isRegion num
          t.putWindow { w with drops := w.drops + 1 }
        else t
      | .record => t
      | .eland => t)

end Sys2Proof.Machine
end

