-- ==== Sys2Proof/Machine/Planes16.lean ====
section
/-! DEFINITION. PB16 plane blocks (03 R63-R67), group-quantised values (03 R68), and the block accumulation of the
matrix engine (03 R69), over exact values. -/

namespace Sys2Proof.Machine

/-- A PB16 block (03 R63): plane E, plane S and the mantissa planes held, M1 first. -/
structure Block where
  e : BitVec 16
  s : BitVec 16
  m : List (BitVec 16)
deriving DecidableEq, Repr

namespace Block

/-- The shared exponent E, bits 7:0 of plane E. -/
def exp (b : Block) : Nat := b.e.toNat % 256
/-- The micro-exponent of element pair `j`. -/
def mu (b : Block) (j : Nat) : Nat := (b.e.toNat >>> (8 + j)) % 2
/-- Bit `i` of mantissa plane `k` (1 to 16); a plane not held reads zero. -/
def mbit (b : Block) (k i : Nat) : Nat := ((b.m.getD (k - 1) 0).toNat >>> i) % 2
/-- The first `n` fraction bits of element `i`, M1 the most significant. -/
def frac (b : Block) (i : Nat) : Nat → Nat
  | 0 => 0
  | n + 1 => 2 * frac b i n + b.mbit (n + 1) i

end Block

/-- The exact value of element `i` read with `n` planes of a finite block (03 R64): sign, mantissa, exponent. -/
def pb16Value (b : Block) (i n : Nat) (mid : Bool) : Bool × Nat × Int :=
  let f := b.frac i n
  let m := if f ≠ 0 ∧ mid ∧ n < 16 then 2 * f + 1 else 2 * f
  (b.s.getLsbD i, m, (b.exp : Int) - 126 - b.mu (i / 2) - (n : Int) - 1)

/-- `pb16_read` of 03 R64: exact, never flushed. -/
def pb16Read (b : Block) (i n : Nat) (mid : Bool) : W32 :=
  let s := b.s.getLsbD i
  if b.exp = 255 then
    if n < 2 ∨ b.mbit 1 i = 1 then quiet .f32 (fpInf .f32 s)
    else if b.mbit 2 i = 1 then fpInf .f32 s
    else fpZero .f32 s
  else
    let v := pb16Value b i n mid
    (roundVal .f32 .rn false (.fin v.1 v.2.1 v.2.2)).1

/-- `rnd16(|x| / 2^sc)` of 03 R62 as a count of 2^-16 units, ties to even, for a finite magnitude `m * 2^e`. -/
def rnd16 (m : Nat) (e sc : Int) : Nat := (roundToInt .rn false m (e - sc + 16)).1.toNat

/-- The sum of `2^i` over the positions of a list where `p` holds. -/
def planeOf {α : Type} (p : α → Bool) : List α → Nat
  | [] => 0
  | a :: as => (if p a then 1 else 0) + 2 * planeOf p as

/-- `pb16_encode` of 03 R66: 16 F32 values to a block of 16 planes, with the flags OF and NX. -/
def pb16Encode (xs : List W32) : Block × FpFlags :=
  let sgn := BitVec.ofNat 16 (planeOf (fun x => x.getLsbD 31) xs)
  if xs.any (fun x => isNan .f32 x || isInf .f32 x) then
    let m1 := BitVec.ofNat 16 (planeOf (isNan .f32) xs)
    let m2 := BitVec.ofNat 16 (planeOf (isInf .f32) xs)
    (⟨255, sgn, m1 :: m2 :: List.replicate 14 0⟩, 0)
  else
    let mags := xs.map fun x =>
      match fpValue .f32 x with
      | .fin _ m e => (m, e)
      | _ => (0, 0)
    let emax := mags.foldl (fun acc v => if v.1 = 0 then acc else max acc (log2Of v.1 v.2)) (-127)
    let e0 := max (emax + 127) 0
    let e1 := if e0 < 254 ∧ mags.any (fun v => rnd16 v.1 v.2 (e0 - 126) == 65536) then e0 + 1 else e0
    let small := mags.map fun v => decide (rnd16 v.1 v.2 (e1 - 127) < 65536)
    let mus := (List.range 8).map fun j => small.getD (2 * j) true && small.getD (2 * j + 1) true
    let coded := (indexed 0 mags).map fun iv =>
      let sc := e1 - 126 - (if mus.getD (iv.1 / 2) false then 1 else 0)
      let f0 := rnd16 iv.2.1 iv.2.2 sc
      let f := if f0 = 65536 then 65535 else f0
      let same := decide ((addExact false f (sc - 16) true iv.2.1 iv.2.2).1 = 0)
      (f, (if f0 = 65536 then flagOF else 0) ||| (if same then 0 else flagNX))
    let plane (k : Nat) : BitVec 16 := BitVec.ofNat 16 (planeOf (fun (c : Nat × FpFlags) => bitAt c.1 (16 - k)) coded)
    (⟨BitVec.ofNat 16 (e1.toNat + 256 * planeOf id mus), sgn, (List.range 16).map fun k => plane (k + 1)⟩,
      coded.foldl (fun a c => a ||| c.2) 0)

/-- An exact element value of the matrix engine: a NaN, an infinity, or `m * 2^e` (03 R68, R69). -/
inductive Elem
  | nan
  | inf (s : Bool)
  | fin (m : Int) (e : Int)
deriving DecidableEq, Repr

namespace Elem

/-- Exact zero. -/
def zero : Elem := .fin 0 0
def isZero : Elem → Bool
  | .fin m _ => m == 0
  | _ => false
def isNeg : Elem → Bool
  | .nan => false
  | .inf s => s
  | .fin m _ => decide (m < 0)

/-- The value a pattern encodes, as an exact element. -/
def ofFp (f : Fmt) (w : W32) : Elem :=
  match fpValue f w with
  | .nan => .nan
  | .inf s => .inf s
  | .fin s m e => .fin (if s then -(m : Int) else m) e

/-- `prod` of 03 R69: zero wins over every partner. -/
def prod (x y : Elem) : Elem :=
  if x.isZero || y.isZero then zero
  else
    match x, y with
    | .fin m e, .fin n k => .fin (m * n) (e + k)
    | .nan, _ => .nan
    | _, .nan => .nan
    | _, _ => .inf (x.isNeg != y.isNeg)

/-- The exact sum of two finite values, or the special value of `exact_sum` (03 R69). -/
def add (x y : Elem) : Elem :=
  match x, y with
  | .fin m e, .fin n k =>
    let b := min e k
    .fin (m * (2 ^ (e - b).toNat : Nat) + n * (2 ^ (k - b).toNat : Nat)) b
  | .nan, _ => .nan
  | _, .nan => .nan
  | .inf s, .inf t => if s = t then .inf s else .nan
  | .inf s, _ => .inf s
  | _, .inf t => .inf t

/-- `exact_sum` of 03 R69. -/
def sum (l : List Elem) : Elem := l.foldl add zero

/-- Rounding to an F32 pattern by a mode, every NaN made canonical (`rne32`, `rceil32`, `rfloor32`). -/
def round32 (mode : RMode) : Elem → W32
  | .nan => Fmt.qnan .f32
  | .inf s => fpInf .f32 s
  | .fin m e => (roundVal .f32 mode false (.fin (decide (m < 0)) m.natAbs e)).1

end Elem

/-- Every NaN made 0x7FC0_0000. -/
def canonNan (w : W32) : W32 := if isNan .f32 w then Fmt.qnan .f32 else w

/-- One block step of `mxe_dot` (03 R69): the partial of a block is added unless it is an exact zero. -/
def dotStep (acc : W32) (partialSum : Elem) : W32 :=
  if partialSum.isZero then acc
  else canonNan (fpAdd .f32 .rn false acc (partialSum.round32 .rn)).1

/-- `mxe_dot` of 03 R69 over `n` blocks of 16 positions, in increasing order. DESIGN CHOICE (log 93): an accumulator to
which no partial is added is returned as it stands, a NaN's payload with it, as the rule's pseudocode does. -/
def mxeDot (acc : W32) (a b : Nat → Elem) : Nat → W32
  | 0 => acc
  | n + 1 =>
    dotStep (mxeDot acc a b n) (Elem.sum ((List.range 16).map fun j => Elem.prod (a (16 * n + j)) (b (16 * n + j))))

/-- `g_value` of 03 R68. -/
def gValue (q zp : Nat) (scale : W32) : Elem :=
  let d : Int := (q : Int) - zp
  if d = 0 then .zero
  else
    match Elem.ofFp .f16 scale with
    | .nan => .nan
    | .inf s => .inf (s != decide (d < 0))
    | .fin m e => .fin (m * d) e

/-- `pb16_read` as an exact element value. -/
def pb16Elem (b : Block) (i n : Nat) (mid : Bool) : Elem := Elem.ofFp .f32 (pb16Read b i n mid)

end Sys2Proof.Machine
end

