-- ==== Sys2Proof/Machine/PlaneInstr.lean ====
section
/-! DEFINITION. The plane group, OP 0x21 (09 R195-R199), on plane sets (07 R156-R159). -/

namespace Sys2Proof.Machine

/-- A plane-set descriptor (07 R157). -/
structure PlaneSet where
  base : Word
  npl : Nat
  stride : Nat
deriving DecidableEq, Repr

/-- A descriptor read, or PLANE 0x01 (07 R157). -/
def planeSet (base desc : Word) : Chk PlaneSet :=
  let d := desc.toNat
  let npl := bitField d 12 5
  let stride := bitField d 0 12
  if base.toNat % 128 ≠ 0 ∨ stride = 0 ∨ 16 < npl ∨ bitField d 17 47 ≠ 0 then stopTrap cPlane 1
  else .ok ⟨base, npl, stride⟩

/-- The address of plane `j` of block `b` (07 R156). -/
def PlaneSet.address (p : PlaneSet) (j b : Nat) : Word := p.base + BitVec.ofNat 64 (j * p.stride * 128 + 2 * b)

/-- The address signature (07 R158): bits 16:1, 32:17 and 47:33 of the address, and the element's position. -/
def planeSig (a : Word) (i : Nat) : BitVec 16 :=
  (a >>> 1).setWidth 16 ^^^ (a >>> 17).setWidth 16 ^^^ BitVec.ofNat 16 (bitField a.toNat 33 15) ^^^
    BitVec.ofNat 16 (i * 0x1000)

/-- One plane translated, with PLANE 0x02 (07 R157, 09 R195). -/
def planeAt (s : State) (c : Cx) (acc : Acc) (p : PlaneSet) (j b : Nat) : Chk Nat :=
  match translate s c acc (p.address j b) with
  | .error e => .error e
  | .ok x => if x.tq ≠ p.stride then stopTrap cPlane 2 (p.address j b) acc.ak else .ok x.loc

/-- Several planes of a block translated, in order. -/
def planesAt (s : State) (c : Cx) (acc : Acc) (p : PlaneSet) (b : Nat) : List Nat → Chk (List Nat)
  | [] => .ok []
  | j :: js =>
    match planeAt s c acc p j b with
    | .error e => .error e
    | .ok l =>
      match planesAt s c acc p b js with
      | .error e => .error e
      | .ok ls => .ok (l :: ls)

/-- The operands of PLD, PREF and PST (09 R195). -/
structure PlaneOps where
  set : PlaneSet
  block : Nat
  elem : Nat
  planes : Nat
  mid : Bool
  count : Nat
deriving DecidableEq, Repr

/-- The operands with their checks, steps 1 to 4 of 09 R195. -/
def planeOps (c : Cx) (f : Fields) (ak : Nat) : Chk PlaneOps :=
  let n := f.a.toNat % 64
  let e := c.element f.b
  let planes := lowBits f.c 0 5
  match planeSet (c.x n) (c.x (n + 1)) with
  | .error x => .error x
  | .ok p =>
    if e % planeElems f ≠ 0 then stopTrap cAlign 0 (p.address 0 (e / 16)) ak
    else if p.npl < planes then stopTrap cPlane 3
    else if p.stride * 64 ≤ e / 16 then stopTrap cPlane 6
    else .ok ⟨p, e / 16, e % 16, planes, f.c.getLsbD 5, planeElems f⟩

/-- The 16-bit planes in little-endian bytes. -/
def planeWords : List Byte → List (BitVec 16)
  | lo :: hi :: bs => (hi ++ lo) :: planeWords bs
  | _ => []

/-- The bytes of a list of plane locations, two at each. -/
def planeBytes (locs : List Nat) : List Nat := locs.flatMap fun l => [l, l + 1]

/-- Planes read, each with its address in the set. -/
def PlaneSet.heldOf (p : PlaneSet) (b : Nat) (js : List Nat) (ws : List (BitVec 16)) : List (BitVec 16 × Word) :=
  ws.zip (js.map (p.address · b))

/-- The values that a plane load or a refine gives, noted for a refine of a value moved since (03 R67, log 88). -/
def State.noteReads (s : State) (regs : List (Nat × W32 × Tag)) : State :=
  let new := regs.map fun x => (⟨x.2.1, x.2.2⟩ : PlaneRead)
  { s with planeReads := s.planeReads ++ new.filter fun x => !s.planeReads.contains x }

/-- Planes E, S, M1 and so on as a block (03 R63). -/
def blockOf (ws : List (BitVec 16)) : Block := ⟨ws.getD 0 0, ws.getD 1 0, ws.drop 2⟩

/-- The plane index that a location of a gather names (07 R160): planes from `first` on. -/
def planeIndex (first : Nat) (locs : List Nat) (l : Nat) : Nat := first + (locs.findIdx? fun a => l / 2 == a / 2).getD 0

/-- The parts of a plane gather, each plane with its address, which ECC reports (07 R161). DESIGN CHOICE (log 129): where
several planes hold an error, the one of the lowest plane index is reported. -/
def planeParts (p : PlaneSet) (b : Nat) (js locs : List Nat) : List (Word × List Nat) :=
  (js.zip locs).map fun x => (p.address x.1 b, [x.2, x.2 + 1])

/-- PLD (09 R196); log 129 of ECC in one of its planes. -/
def execPld (g : Guard) (f : Fields) (s : State) : Out State :=
  runFull 0x21 0 g f s fun c =>
    if 63 ≤ c.th.cntLd then .wait
    else
      Eff.ofChk (planeOps c f Acc.planeLoad.ak) fun o =>
        Eff.ofChk (planesAt s c .planeLoad o.set o.block (List.range (o.planes + 2))) fun locs =>
          let a := o.set.address 0 o.block
          let parts := planeParts o.set o.block (List.range (o.planes + 2)) locs
          withParts s c true (planeIndex 0 locs) parts Acc.planeLoad.ak fun t bs =>
            let ws := planeWords bs
            let reg (k : Nat) : Nat × W32 × Tag :=
              (f.d.toNat + k, pb16Read (blockOf ws) (o.elem + k) o.planes o.mid,
                { pval := true, pcnt := BitVec.ofNat 5 o.planes, sig := planeSig a (o.elem + k)
                  held := o.set.heldOf o.block (List.range (o.planes + 2)) ws })
            let regs := (List.range o.count).map reg
            .next ((t.noteReads regs).addPending c.r
              { uid := s.uid, vregs := regs, xregs := [], ready := true, counted := true })

/-- The checks of PREF on its registers, in order (07 R159, 09 R197). -/
def refineChecks (c : Cx) (a : Word) : List (Nat × Nat) → Chk Unit
  | [] => .ok ()
  | (n, i) :: rs =>
    if !(c.tag n).pval then stopTrap cPlane 4
    else if (c.tag n).sig ≠ planeSig a i then stopTrap cPlane 5
    else refineChecks c a rs

/-- The value of a plane at the refine, where it can be read without a fault or a wait (03 R67). -/
def quietPlane (s : State) (c : Cx) (p : PlaneSet) (j b : Nat) : Option (BitVec 16) :=
  match planeAt s c .planeLoad p j b with
  | .error _ => none
  | .ok l =>
    if sleeping s [l, l + 1] || damaged s [l, l + 1] then none
    else (readBytes s c true 0 [l, l + 1]).bind fun bs => (planeWords bs).head?

/-- The planes that a register's value was read from (03 R67): those that have gone with it through the registers (MOV, SEL,
SHFL and the pair word's move); else, for a value that went through an x register or memory before PTAG.set (09 R199), those
of a plane load or refine that gave this value, whatever count and signature the tag has since been given. Where several
gave it, those whose count and signature the tag has come first, and a free value takes one of them (log 88). -/
def readFrom (s : State) (v : W32) (tg : Tag) : List (BitVec 16 × Word) :=
  if !tg.held.isEmpty then tg.held
  else
    let found := s.planeReads.filter fun x => x.val == v
    let like := found.filter fun x => x.tag.pcnt == tg.pcnt && x.tag.sig == tg.sig
    let among := if like.isEmpty then found else like
    (among[(Config.planeBits (s.free + 18)).toNat % among.length]?).elim [] fun x => x.tag.held

/-- A plane that the earlier value was read from, in the block of a refine (03 R67), with its address: its value at the
earlier read; where the refine's own plane is the same one, that or its value at the refine, by a free value for each
plane; where no plane is known, a free value (log 88). -/
def earlierPlane (s : State) (c : Cx) (p : PlaneSet) (b : Nat) (held : List (BitVec 16 × Word)) (j : Nat) :
    BitVec 16 × Word :=
  match held[j]? with
  | none => (Config.planeBits (s.free + j), p.address j b)
  | some (w, a) =>
    if a = p.address j b ∧ (Config.planeBits (s.free + j)).getLsbD 0 then ((quietPlane s c p j b).getD w, a) else (w, a)

/-- PREF (09 R197); log 129 of ECC in one of its planes. -/
def execPref (g : Guard) (f : Fields) (s : State) : Out State :=
  runFull 0x21 1 g f s fun c =>
    Eff.ofChk (planeOps c f Acc.planeLoad.ak) fun o =>
      let a := o.set.address 0 o.block
      let regs := (List.range o.count).map fun k => (f.d.toNat + k, o.elem + k)
      Eff.ofChk (refineChecks c a regs) fun _ =>
        let need := regs.filter fun r => decide ((c.tag r.1).pcnt.toNat < o.planes)
        if need.isEmpty then .next s
        else if 63 ≤ c.th.cntLd then .wait
        else
          let first := need.foldl (fun m r => min m ((c.tag r.1).pcnt.toNat + 2)) (o.planes + 2)
          let js := (List.range (o.planes + 2)).filter fun j => decide (first ≤ j)
          Eff.ofChk (planesAt s c .planeLoad o.set o.block js) fun locs =>
            withParts s c true (planeIndex first locs) (planeParts o.set o.block js locs) Acc.planeLoad.ak fun t bs =>
              let later := planeWords bs
              let reg (r : Nat × Nat) : Nat × W32 × Tag :=
                let tg := c.tag r.1
                let held := readFrom s (c.v r.1) tg
                let ws := (List.range (o.planes + 2)).map fun j =>
                  if j < tg.pcnt.toNat + 2 then earlierPlane s c o.set o.block held j
                  else (later.getD (j - first) 0, o.set.address j o.block)
                (r.1, pb16Read (blockOf (ws.map Prod.fst)) r.2 o.planes o.mid,
                  { tg with pcnt := BitVec.ofNat 5 o.planes, held := ws })
              let regs := need.map reg
              .next (({ t with free := t.free + 19 }.noteReads regs).addPending c.r
                { uid := s.uid, vregs := regs, xregs := [], ready := true, counted := true })

/-- PST (09 R198). -/
def execPst (g : Guard) (f : Fields) (s : State) : Out State :=
  runFull 0x21 2 g f s fun c =>
    if 63 ≤ c.th.cntSt then .wait
    else
      Eff.ofChk (planeOps c f Acc.planeStore.ak) fun o =>
        Eff.ofChk (planesAt s c .planeStore o.set o.block (List.range (o.planes + 2))) fun locs =>
          let enc := pb16Encode ((List.range 16).map fun k => c.v (f.d.toNat + k))
          let ws := enc.1.e :: enc.1.s :: enc.1.m
          let bytes := (ws.take (o.planes + 2)).flatMap fun w => leBytes 2 w.toNat
          let vas := (List.range (o.planes + 2)).map (o.set.address · o.block)
          .next ((s.issuePlanes c vas ((planeBytes locs).zip bytes)).raise c.r enc.2)

/-- The tag word of 09 R199. -/
def tagWord (t : Tag) : W32 := BitVec.ofNat 32 (t.sig.toNat * 65536 + (if t.pval then 32 else 0) + t.pcnt.toNat)

/-- PTAG_GET (09 R199). -/
def execPtagGet (g : Guard) (f : Fields) (s : State) : Out State :=
  runFull 0x21 3 g f s fun c => .next (s.setV c.r f.d.toNat (tagWord (c.tag f.a.toNat)))

/-- PTAG_SET (09 R199): the tag changes; the value of vD and the planes it was read from do not. -/
def execPtagSet (g : Guard) (f : Fields) (s : State) : Out State :=
  runFull 0x21 3 g f s fun c =>
    let w := (c.v f.a.toNat).toNat
    if 16 < w % 32 ∨ bitField w 6 10 ≠ 0 then .trap { cause := cPlane, sub := 7 }
    else
      let tg : Tag := { c.tag f.d.toNat with
        pval := bitAt w 5, pcnt := BitVec.ofNat 5 (w % 32), sig := BitVec.ofNat 16 (w / 65536) }
      .next (s.modThread c.r fun th => { th with tags := th.tags.set f.d.toNat tg })

end Sys2Proof.Machine
end

