-- ==== Sys2Proof/Machine/TileGeo.lean ====
section
/-! DEFINITION. Tile descriptors, the layout of tile bytes, and the tile order (12 R250-R256). -/

namespace Sys2Proof.Machine

/-- A tile descriptor read (12 R251). `ew` is the element width in bits. -/
structure TileGeo where
  valid : Bool
  pcap : Nat
  pt : Bool
  ew : Nat
  rows : Nat
  cols : Nat
  off : Nat
deriving DecidableEq, Repr

def tileGeo (desc : Word) : TileGeo :=
  let w := desc.toNat
  { valid := bitAt w 63, pcap := bitField w 25 5, pt := bitAt w 24, ew := 4 * 2 ^ bitField w 22 2,
    rows := 16 * (bitField w 19 3 + 1), cols := 16 * (bitField w 16 3 + 1), off := bitField w 0 12 * 128 }

/-- The bytes a tile occupies (12 R251). -/
def TileGeo.bytes (t : TileGeo) : Nat :=
  if t.pt then t.rows * (t.cols / 16) * (t.pcap + 2) * 2 else t.rows * t.cols * t.ew / 8

/-- Two tiles share a byte. -/
def TileGeo.meets (x y : TileGeo) : Bool :=
  decide (x.off < y.off + y.bytes) && decide (y.off < x.off + x.bytes)

/-- A malformed descriptor for a team with this many tile bytes: TILE 0x02 (12 R258). -/
def tileBad (desc : Word) (teamBytes : Nat) : Bool :=
  let w := desc.toNat
  let t := tileGeo desc
  !t.valid || bitField w 30 33 != 0 || bitField w 12 4 != 0 || (t.pt && t.ew != 16) || (!t.pt && t.pcap != 0) ||
    decide (16 < t.pcap) || decide (teamBytes < t.off + t.bytes)

/-- A team's descriptor and tag of a tile register. -/
def Team.tdescOf (t : Team) (n : Nat) : Word := t.tdesc.getD n 0
def Team.geo (t : Team) (n : Nat) : TileGeo := tileGeo (t.tdescOf n)
def Team.tileTag (t : Team) (n : Nat) : Tag := t.ttag.getD n {}

/-- The fields of a tile-set word (12 R263). -/
def tsTC (w : Nat) : Nat := bitField w 0 6
def tsTA (w : Nat) : Nat := bitField w 6 6
def tsTB (w : Nat) : Nat := bitField w 12 6
def tsTSA (w : Nat) : Nat := bitField w 18 6
def tsTSB (w : Nat) : Nat := bitField w 24 6
def tsTM (w : Nat) : Nat := bitField w 30 6

/-- The scale source of an operand specifier (12 R264). -/
def specScs (sp : Nat) : Nat := bitField sp 12 2

/-- The tile registers an operand record names (12 R256, R263). -/
def ConvRec.tiles (r : ConvRec) : List Nat :=
  let w := r.a.toNat
  let a := r.b.toNat % 2 ^ 32
  let b := r.b.toNat / 2 ^ 32
  [tsTC w, tsTA w, tsTB w] ++ (if specScs a = 1 then [tsTSA w] else []) ++
    (if specScs b = 1 then [tsTSB w] else []) ++ (if r.mmas then [tsTM w] else [])

/-- A tile of a signature that is pending on a convergence register of the team (12 R256). -/
def Team.pendingTile (t : Team) (n : Nat) : Bool :=
  t.convs.any fun k => !k.signed.isEmpty &&
    (match k.opRec with
      | some r => r.tiles.contains n
      | none => false)

/-- TSET of a tile register with a value, and MOVRC to its descriptor (12 R251, R258). -/
def setTile (s : State) (c : Cx) (n : Nat) (w : Word) : Chk State :=
  let put : State := s.modTeam c.r.team fun t => { t with tdesc := t.tdesc.set n w, ttag := t.ttag.set n {} }
  if c.t.pendingTile n then stopTrap cTile 4
  else if w = 0 then .ok put
  else if tileBad w (declOf c.t.rdw).tile then stopTrap cTile 2
  else if (List.range 64).any fun m => m != n && (c.t.geo m).valid && (c.t.geo m).meets (tileGeo w) then stopTrap cTile 3
  else .ok put

/-- The location of a byte of a team's tile bytes. -/
def tileAt (t : Team) (i : Nat) : Nat := tileLoc (coreCluster t.core) (t.tileBase + i)

/-- The locations of a tile's bytes. -/
def tileLocs (t : Team) (g : TileGeo) : List Nat := (List.range g.bytes).map fun i => tileAt t (g.off + i)

/-- The bytes of a tile row with PT = 0 (12 R252, R259). -/
def TileGeo.rowBytes (g : TileGeo) : Nat := g.cols * g.ew / 8

/-- The first byte of an element and its bit within it (12 R252). -/
def TileGeo.bitOf (g : TileGeo) (r c : Nat) : Nat := (r * g.cols + c) * g.ew

/-- An element of a tile with PT = 0, zero-extended. -/
def tileElem (s : State) (t : Team) (g : TileGeo) (r c : Nat) : Nat :=
  let bit := g.bitOf r c
  let n := if g.ew = 4 then 1 else g.ew / 8
  memNat s.mem (tileAt t (g.off + bit / 8)) n / 2 ^ (bit % 8) % 2 ^ g.ew

/-- The cells that write an element. -/
def tileElemCells (s : State) (t : Team) (g : TileGeo) (r c v : Nat) : List Host.Cell :=
  let bit := g.bitOf r c
  let loc := tileAt t (g.off + bit / 8)
  if g.ew = 4 then
    let old := (memGet s.mem loc).toNat
    let sh := 2 ^ (bit % 8)
    [(loc, BitVec.ofNat 8 (old - old / sh % 16 * sh + v % 16 * sh))]
  else cellsAt loc (leBytes (g.ew / 8) v)

/-- The first byte of plane `j` of block (r, kb) of a plane tile (12 R252). -/
def TileGeo.planeByte (g : TileGeo) (j r kb : Nat) : Nat := g.off + ((j * g.rows + r) * (g.cols / 16) + kb) * 2

/-- A plane of a block of a plane tile. -/
def tilePlane (s : State) (t : Team) (g : TileGeo) (j r kb : Nat) : BitVec 16 :=
  BitVec.ofNat 16 (memNat s.mem (tileAt t (g.planeByte j r kb)) 2)

/-- A tile command whose effect is not yet whole touches these bytes of a team (12 R254, R271). -/
def TileCmd.touches (x : TileCmd) (team : Nat) (gs : List TileGeo) : Bool :=
  x.team == team && !x.done && x.descs.any fun d => (tileGeo d).valid && gs.any fun g => (tileGeo d).meets g

/-- No command that has entered the team's tile order touches these bytes. -/
def tilesQuiet (s : State) (team : Nat) (gs : List TileGeo) : Bool := !(s.tiles.any fun x => x.touches team gs)

/-- The reservation table of a cluster's engine has a free entry (12 R271). -/
def tableRoom (s : State) (cluster : Nat) : Bool :=
  decide ((s.tiles.filter fun x => x.cluster == cluster).length < 64)

end Sys2Proof.Machine
end

