-- ==== Sys2Proof/Machine/TileInstr.lean ====
section
/-! DEFINITION. The tile group, OP 0x40 (12 R257-R267, R273, R275; KINIT, 06 R137; signing, R138). -/

namespace Sys2Proof.Machine

/-- A tile command enters the reservation table and the tile order (12 R254, R271). -/
def enterTile (s : State) (c : Cx) (x : TileCmd) : State :=
  { s with
    uid := s.uid + 1
    tiles := s.tiles ++ [{ x with
      uid := s.uid
      cluster := coreCluster c.t.core
      team := c.r.team
      tid := c.r.tid
      issue := c.th.issues
      mark := s.uid
      priv := c.th.priv }] }

/-- A command with nothing in it. -/
def blankTile : TileCmd :=
  ⟨0, 0, 0, 0, 0, 0, false, [], [], [], [], [], [], 0, 0, none, false, none, 0, 0, false, [], []⟩

/-- An operation issued that counts on AS (09 R204). -/
def Thread.issueAs (th : Thread) : Thread := { th with cntAs := th.cntAs + 1, issues := th.issues + 1 }

/-- The AS counter or the reservation table is full: the thread is not ready (09 R204, 12 R271). -/
def tileFull (s : State) (c : Cx) : Bool := decide (63 ≤ c.th.cntAs) || !tableRoom s (coreCluster c.t.core)

/-- TSET (12 R258). -/
def execTset (g : Guard) (f : Fields) (s : State) : Out State :=
  runFull 0x40 0 g f s fun c => Eff.ofChk (setTile s c f.d.toNat (c.x f.a.toNat)) .next

/-- TGET (12 R258). -/
def execTget (g : Guard) (f : Fields) (s : State) : Out State :=
  runFull 0x40 1 g f s fun c =>
    .next (s.setX c.r f.a.toNat
      (if f.opt then (tagWord (c.t.tileTag f.d.toNat)).setWidth 64 else c.t.tdescOf f.d.toNat))

/-- TILE 0x01 and 0x05 of a tile that must be valid and of a kind. -/
def needTile (g : TileGeo) (pt : Bool) : Chk Unit :=
  if !g.valid then stopTrap cTile 1 else if g.pt != pt then stopTrap cTile 5 else .ok ()

/-- A run of bytes of the team's scratchpad or column extension (07 R149): PERM 0x05 outside. -/
def partitionRun (c : Cx) (o : Word) (len : Nat) : Chk (List Extent) :=
  let d := declOf c.t.rdw
  let a := o.toNat
  if a + len ≤ d.scr then .ok [⟨scratchLoc c.t.core (c.t.scrBase + a), len⟩]
  else if 0x20000 ≤ a ∧ a + len ≤ 0x20000 + d.ext then .ok [⟨scratchLoc c.t.core (c.t.extBase + a), len⟩]
  else stopTrap cPerm 5 o 4

/-- The runs of each of several ranges, in order. -/
def rangeRuns (s : State) (c : Cx) (acc : Acc) (sp : Bool) (len : Nat) : List Word → Chk (List (List Extent))
  | [] => .ok []
  | a :: as =>
    match (if sp then partitionRun c a len else translateRange s c acc a len) with
    | .error e => .error e
    | .ok x =>
      match rangeRuns s c acc sp len as with
      | .error e => .error e
      | .ok xs => .ok (x :: xs)

/-- The addresses of `n` rows (12 R259). -/
def rowAddrs (base stride : Word) (n : Nat) : List Word := (List.range n).map fun r => base + BitVec.ofNat 64 r * stride

/-- The checks of TLD and TST and the runs of their rows, in the order of 12 R259. -/
def rowChecks (s : State) (c : Cx) (f : Fields) (store : Bool) : Chk (List (List Extent)) :=
  let t := c.t.geo f.d.toNat
  let a := c.x f.a.toNat
  let b := c.x f.b.toNat
  match needTile t false with
  | .error e => .error e
  | .ok _ =>
    if a.toNat % 8 ≠ 0 then stopTrap cAlign 0 a 4
    else if b.toNat % 8 ≠ 0 then stopTrap cAlign 0 b 4
    else if store && decide (b.toNat < t.rowBytes) then stopTrap cTile 7
    else rangeRuns s c (if store then .tileStore else .tileLoad) f.isX t.rowBytes (rowAddrs a b t.rows)

/-- TLD and TST: checked, translated and entered (12 R259). -/
def rowCommand (s : State) (c : Cx) (f : Fields) (fn : Nat) (store : Bool) : Eff :=
  if tileFull s c then .wait
  else
    Eff.ofChk (rowChecks s c f store) fun runs =>
      let cmd : TileCmd := { blankTile with
        fn := fn
        d := f.d.toNat
        sp := f.isX
        words := [c.x f.a.toNat, c.x f.b.toNat]
        descs := [c.t.tdescOf f.d.toNat]
        extents := runs }
      .next ((enterTile s c cmd).modThread c.r Thread.issueAs)

/-- TLD (12 R259). -/
def execTld (g : Guard) (f : Fields) (s : State) : Out State :=
  runFull 0x40 2 g f s fun c => rowCommand s c f 2 false

/-- TST (12 R259). -/
def execTst (g : Guard) (f : Fields) (s : State) : Out State :=
  runFull 0x40 5 g f s fun c => rowCommand s c f 5 true

/-- One plane of a block translated for a tile (12 R260). -/
def planeRuns (s : State) (c : Cx) (acc : Acc) (p : PlaneSet) : List (Nat × Nat) → Chk (List (List Extent))
  | [] => .ok []
  | (j, b) :: ps =>
    match planeAt s c acc p j b with
    | .error e => .error e
    | .ok l =>
      match planeRuns s c acc p ps with
      | .error e => .error e
      | .ok ls => .ok ([⟨l, 2⟩] :: ls)

/-- The block of each row and block column of a plane tile, row by row (12 R260). -/
def tileBlocks (g : TileGeo) (first stride : Nat) : List Nat :=
  (List.range g.rows).flatMap fun r => (List.range (g.cols / 16)).map fun kb => first + r * stride + kb

/-- TLDP and TREF (12 R260): the checks in order, then the planes that are read. DESIGN CHOICE (log 125): step 8 gives the
plane pages no order, and the model translates them plane by plane, and within a plane row by row and block by block. -/
def planeCommand (s : State) (c : Cx) (f : Fields) (refine : Bool) : Eff :=
  let n := f.d.toNat
  let t := c.t.geo n
  let tg := c.t.tileTag n
  let xb := (c.x f.b.toNat).toNat
  let xc := (c.x f.c.toNat).toNat
  let np := bitField xc 0 5
  if tileFull s c then .wait
  else if c.t.pendingTile n then .trap { cause := cTile, sub := 4 }
  else
    Eff.ofChk (needTile t true) fun _ =>
      if bitField xb 24 40 ≠ 0 ∨ bitField xc 32 32 ≠ 0 ∨ bitField xc 5 3 ≠ 0 then .trap { cause := cTile, sub := 7 }
      else
        Eff.ofChk (planeSet (c.x f.a.toNat) (c.x (f.a.toNat + 1))) fun p =>
          let blocks := tileBlocks t xb (bitField xc 8 24)
          let sig := planeSig (p.address 0 xb) 0
          if p.npl < np then .trap { cause := cPlane, sub := 3 }
          else if t.pcap < np then .trap { cause := cTile, sub := 8 }
          else if blocks.any fun b => decide (p.stride * 64 ≤ b) then .trap { cause := cPlane, sub := 6 }
          else if refine && !tg.pval then .trap { cause := cPlane, sub := 4 }
          else if refine && tg.sig != sig then .trap { cause := cPlane, sub := 5 }
          else if refine && decide (np ≤ tg.pcnt.toNat) then .next s
          else
            let held := if refine then tg.pcnt.toNat else 0
            let first := if refine then held + 2 else 0
            let js := (List.range (np + 2)).filter fun j => decide (first ≤ j)
            Eff.ofChk (planeRuns s c .planeTile p (js.flatMap fun j => blocks.map fun b => (j, b))) fun runs =>
              let cmd : TileCmd := { blankTile with
                fn := if refine then 4 else 3
                d := n
                words := [c.x f.a.toNat, c.x (f.a.toNat + 1), c.x f.b.toNat, c.x f.c.toNat]
                descs := [c.t.tdescOf n]
                tags := [tg]
                extents := runs
                arg := [held, np] }
              let new : Tag := { pval := true, pcnt := BitVec.ofNat 5 np, sig := if refine then tg.sig else sig }
              .next (((enterTile s c cmd).modThread c.r Thread.issueAs).modTeam c.r.team fun tm =>
                { tm with ttag := tm.ttag.set n new })

/-- TLDP (12 R260). -/
def execTldp (g : Guard) (f : Fields) (s : State) : Out State :=
  runFull 0x40 3 g f s fun c => planeCommand s c f false

/-- TREF (12 R260). -/
def execTref (g : Guard) (f : Fields) (s : State) : Out State :=
  runFull 0x40 4 g f s fun c => planeCommand s c f true

/-- TZERO (12 R261). -/
def execTzero (g : Guard) (f : Fields) (s : State) : Out State :=
  runFull 0x40 6 g f s fun c =>
    if 63 ≤ c.th.cntMx ∨ !tableRoom s (coreCluster c.t.core) then .wait
    else
      Eff.ofChk (needTile (c.t.geo f.d.toNat) false) fun _ =>
        let cmd : TileCmd := { blankTile with fn := 6, d := f.d.toNat, descs := [c.t.tdescOf f.d.toNat] }
        .next ((enterTile s c cmd).modThread c.r fun th => { th with cntMx := th.cntMx + 1 })

/-- The element TRDV and TWRV name, with its checks (12 R262). -/
def elementChecks (g : TileGeo) (row col : Nat) : Chk Unit :=
  match needTile g false with
  | .error e => .error e
  | .ok _ => failIf (decide (g.rows ≤ row) || decide (g.cols ≤ col)) cTile 9

/-- The locations of an element's bytes. -/
def elementLocs (t : Team) (g : TileGeo) (row col : Nat) : List Nat :=
  span (tileAt t (g.off + g.bitOf row col / 8)) (if g.ew = 4 then 1 else g.ew / 8)

/-- TRDV (12 R262): takes effect at its place in the tile order, once no earlier command touches the tile; its result
is awaited. -/
def execTrdv (g : Guard) (f : Fields) (s : State) : Out State :=
  runFull 0x40 7 g f s fun c =>
    let t := c.t.geo f.a.toNat
    let row := (c.v f.b.toNat).toNat
    let col := (c.v f.c.toNat).toNat
    Eff.ofChk (elementChecks t row col) fun _ =>
      let locs := elementLocs c.t t row col
      if !tilesQuiet s c.r.team [t] || !tableRoom s (coreCluster c.t.core) || sleeping s locs then .wait
      else
        Eff.ofChk (checkDamage s locs (BitVec.ofNat 64 (t.off + t.bitOf row col / 8)) 4) fun _ => .next (s.addPending c.r
          { uid := s.uid, vregs := [(f.d.toNat, BitVec.ofNat 32 (tileElem s c.t t row col), {})], xregs := [],
            ready := true, counted := false })

/-- TWRV (12 R262): likewise at its place in the tile order. It leaves the poison of the bytes it writes, as a store of
less than a granule does (07 R162, 12 R269). -/
def execTwrv (g : Guard) (f : Fields) (s : State) : Out State :=
  runFull 0x40 8 g f s fun c =>
    let t := c.t.geo f.d.toNat
    let row := (c.v f.b.toNat).toNat
    let col := (c.v f.c.toNat).toNat
    Eff.ofChk (elementChecks t row col) fun _ =>
      if !tilesQuiet s c.r.team [t] || !tableRoom s (coreCluster c.t.core) || sleeping s (elementLocs c.t t row col) then
        .wait
      else .next { s.writeHome (tileElemCells s c.t t row col (c.v f.a.toNat).toNat) with tilePoison := s.tilePoison }

/-- KINIT (06 R137). Where the descriptor is malformed and a signature is pending, it reports 0x23 (DESIGN CHOICE, log
84: R137 gives the two no order). -/
def execKinit (g : Guard) (f : Fields) (s : State) : Out State :=
  runFull 0x40 9 g f s fun c =>
    let k := f.d.toNat
    let w := (c.x f.a.toNat).toNat
    let first := bitField w 0 10
    let count := bitField w 10 11
    let old := c.t.convs.getD k {}
    if bitField w 21 43 ≠ 0 ∨ count = 0 ∨ (declOf c.t.rdw).size < first + count then .trap { cause := cTile, sub := 0x23 }
    else if !old.signed.isEmpty then .trap { cause := cTile, sub := 0x22 }
    else
      let new : ConvReg := { old with valid := true, first := first, count := count, signed := [], opRec := none }
      .next (s.modTeam c.r.team fun t => { t with convs := t.convs.set k new })

/-! ### Signing -/

/-- An operand of MMA and MMAS as its specifier gives it (12 R264). -/
structure Spec where
  enc : Nat
  npl : Nat
  mid : Bool
  lay : Nat
  scs : Nat
  gs : Nat
  zp : Bool
deriving DecidableEq, Repr

def specOf (x : Nat) : Spec :=
  ⟨bitField x 0 4, bitField x 4 5, bitAt x 9, bitField x 10 2, bitField x 12 2, bitField x 14 2, bitAt x 16⟩

/-- G4 and G8, and their group size (12 R264). -/
def Spec.grouped (p : Spec) : Bool := p.enc == 3 || p.enc == 4
def Spec.group (p : Spec) : Nat := 32 * 2 ^ p.gs

/-- A malformed specifier: TILE 0x07 (12 R266). -/
def specBad (x : Nat) : Bool :=
  let p := specOf x
  bitField x 17 15 != 0 || decide (4 < p.enc) || p.lay == 3 || p.scs == 3 || p.gs == 3 ||
    (!p.grouped && (p.zp || p.gs != 0 || p.scs != 0)) || (p.enc != 2 && (p.npl != 0 || p.mid)) ||
    decide (16 < p.npl) || (p.lay != 0 && decide (2 ≤ p.enc))

/-- The lines and K of an operand tile by its layout (12 R264). -/
def Spec.lines (p : Spec) (g : TileGeo) : Nat := if p.lay = 1 then g.cols else g.rows
def Spec.depth (p : Spec) (g : TileGeo) : Nat := if p.lay = 1 then g.rows else g.cols

/-- The tile is of the kind its encoding wants (12 R264). -/
def Spec.kindOk (p : Spec) (g : TileGeo) : Bool :=
  if p.enc = 2 then g.pt
  else !g.pt && (if p.enc = 3 then g.ew == 4 else if p.enc = 4 then g.ew == 8 else g.ew == 16)

/-- The scale tile of an operand is of the right kind and size (12 R265). -/
def Spec.scaleOk (p : Spec) (g sg : TileGeo) : Bool :=
  !sg.pt && sg.ew == 32 && decide (p.lines g ≤ sg.rows) && decide (p.depth g / p.group ≤ sg.cols)

/-- The checks of a signature before its scale address, in the order of 12 R266. -/
def signChecks (t : Team) (mmas : Bool) (a b xc : Word) : Chk Unit :=
  let w := a.toNat
  let xa := b.toNat % 2 ^ 32
  let xb := b.toNat / 2 ^ 32
  let pa := specOf xa
  let pb := specOf xb
  let gc := t.geo (tsTC w)
  let ga := t.geo (tsTA w)
  let gb := t.geo (tsTB w)
  let gsa := t.geo (tsTSA w)
  let gsb := t.geo (tsTSB w)
  let gm := t.geo (tsTM w)
  let memory := pa.scs == 2 || pb.scs == 2
  if bitField w 37 27 ≠ 0 ∨ (!mmas && tsTM w != 0) ∨ (pa.scs ≠ 1 ∧ tsTSA w ≠ 0) ∨ (pb.scs ≠ 1 ∧ tsTSB w ≠ 0) ∨
      specBad xa ∨ specBad xb ∨ (pa.scs = 2 ∧ pb.scs = 2) ∨ (!memory && xc != 0) then stopTrap cTile 7
  else if !(gc.valid && ga.valid && gb.valid && (pa.scs != 1 || gsa.valid) && (pb.scs != 1 || gsb.valid) &&
      (!mmas || gm.valid)) then stopTrap cTile 1
  else if gc.pt ∨ gc.ew ≠ 32 ∨ !pa.kindOk ga ∨ !pb.kindOk gb ∨ (pa.scs = 1 ∧ !pa.scaleOk ga gsa) ∨
      (pb.scs = 1 ∧ !pb.scaleOk gb gsb) then stopTrap cTile 5
  else if pa.lines ga ≠ gc.rows ∨ pb.lines gb ≠ gc.cols ∨ pa.depth ga ≠ pb.depth gb ∨
      (pa.grouped ∧ pa.depth ga % pa.group ≠ 0) ∨ (pb.grouped ∧ pb.depth gb % pb.group ≠ 0) then stopTrap cTile 6
  else
    let short (p : Spec) (n : Nat) : Bool :=
      p.enc == 2 && (!(t.tileTag n).pval || decide ((t.tileTag n).pcnt.toNat < p.npl))
    if short pa (tsTA w) || short pb (tsTB w) then stopTrap cTile 8
    else if mmas && decide (8 * gm.bytes < pa.depth ga / 8 * (gc.cols / 8)) then stopTrap cTile 0xA
    else if memory && xc.toNat % 4 != 0 then stopTrap cAlign 0 xc 4
    else .ok ()

/-- The bytes of the scale records in memory, 0 when neither operand takes them (12 R265). -/
def scaleBytes (t : Team) (a b : Word) : Nat :=
  let w := a.toNat
  let pa := specOf (b.toNat % 2 ^ 32)
  let pb := specOf (b.toNat / 2 ^ 32)
  let size (p : Spec) (g : TileGeo) : Nat := p.lines g * (p.depth g / p.group) * 4
  if pa.scs = 2 then size pa (t.geo (tsTA w)) else if pb.scs = 2 then size pb (t.geo (tsTB w)) else 0

/-- The members of a convergence register that have not exited (06 R136, R138). -/
def convAlive (t : Team) (k : ConvReg) : List Nat :=
  t.alive.filter fun n => decide (k.first ≤ n) && decide (n < k.first + k.count)

/-- The operation of a convergence register issues when every member has signed or exited (06 R138 rule 4): it enters
the tile order, the phase inverts and the signed set clears. A full reservation table keeps it waiting. Descriptors and
tags of the tile-set fields that the operation does not use are zero (15 R335). -/
def settleConv (s : State) (team n : Nat) : State :=
  match s.teams[team]? with
  | none => s
  | some t =>
    let k := t.convs.getD n {}
    match k.opRec with
    | none => s
    | some r =>
      if k.signed.isEmpty || !(convAlive t k).all (k.signed.contains ·) || !tableRoom s (coreCluster t.core) then s
      else
        let w := r.a.toNat
        let tiles := [(tsTC w, true), (tsTA w, true), (tsTB w, true), (tsTSA w, specScs (r.b.toNat % 2 ^ 32) == 1),
          (tsTSB w, specScs (r.b.toNat / 2 ^ 32) == 1), (tsTM w, r.mmas)]
        let cmd : TileCmd := { blankTile with
          uid := s.uid
          cluster := coreCluster t.core
          team := team
          tid := k.signed.getLastD 0
          fn := if r.mmas then 11 else 10
          d := n
          words := [r.a, r.b, r.c]
          descs := tiles.map fun x => if x.2 then t.tdescOf x.1 else 0
          tags := tiles.map fun x => if x.2 then t.tileTag x.1 else {}
          extents := [k.scale]
          signers := k.signed
          mark := s.uid
          priv := k.priv }
        { s with uid := s.uid + 1, tiles := s.tiles ++ [cmd] }.modTeam team fun x =>
          { x with convs := x.convs.set n { k with phase := !k.phase, signed := [], opRec := none, scale := [], priv := false } }

/-- Every convergence register of a team. -/
def settleConvs (s : State) (team : Nat) : State := (List.range 8).foldl (fun u n => settleConv u team n) s

/-- The teams of a cluster, as numbers, but for those that FORCING has stopped: they keep their signatures pending (15
R330). -/
def clusterTeams (s : State) (cluster : Nat) : List Nat :=
  (List.range s.teams.length).filter fun n =>
    (s.teams[n]?).any fun t => t.live && coreCluster t.core == cluster && !(t.threads.any fun th => th.run == .stopped)

/-- A cluster's reservation table has room again: the operations that waited for it issue (06 R138). -/
def settleCluster (s : State) (cluster : Nat) : State := (clusterTeams s cluster).foldl settleConvs s

/-- The same for the clusters of several teams. -/
def settleClusters (s : State) (teams : List Nat) : State :=
  ((teams.filterMap fun n => (s.teams[n]?).map fun t => coreCluster t.core).eraseDups).foldl settleCluster s

/-- MMA and MMAS (06 R138, 12 R266, R267): the loads of scale records wait as loads do (10 R227). A full table keeps
the signature that completes a phase from issuing. -/
def signConv (s : State) (c : Cx) (f : Fields) (mmas : Bool) : Eff :=
  let n := f.d.toNat
  let k := c.t.convs.getD n {}
  let r : ConvRec := ⟨mmas, c.x f.a.toNat, c.x f.b.toNat, c.x f.c.toNat⟩
  if 63 ≤ c.th.cntMx then .wait
  else if !k.valid then .trap { cause := cTile, sub := 0x24 }
  else if c.r.tid < k.first ∨ k.first + k.count ≤ c.r.tid then .trap { cause := cTile, sub := 0x20 }
  else if k.signed.contains c.r.tid then .wait
  else if k.opRec.any (· != r) then .trap { cause := cTile, sub := 0x21 }
  else
    Eff.ofChk (signChecks c.t mmas r.a r.b r.c) fun _ =>
      let bytes := scaleBytes c.t r.a r.b
      if bytes != 0 && (c.held || awaitsAcquire s c) then .wait
      else Eff.ofChk (if bytes = 0 then .ok [] else translateRange s c .scaleLoad r.c bytes) fun runs =>
        let last := (convAlive c.t k).all fun m => m == c.r.tid || k.signed.contains m
        if last && !tableRoom s (coreCluster c.t.core) then .wait
        else
          let new : ConvReg :=
            { k with signed := k.signed ++ [c.r.tid], opRec := some r, scale := runs, priv := c.th.priv }
          let t := (s.modTeam c.r.team fun t => { t with convs := t.convs.set n new }).modThread c.r fun th =>
            { th with cntMx := th.cntMx + 1 }
          .next (settleConv t c.r.team n)

/-- MMA (12 R267). -/
def execMma (g : Guard) (f : Fields) (s : State) : Out State :=
  runFull 0x40 10 g f s fun c => signConv s c f false

/-- MMAS (12 R268). -/
def execMmas (g : Guard) (f : Fields) (s : State) : Out State :=
  runFull 0x40 11 g f s fun c => signConv s c f true

end Sys2Proof.Machine
end

