-- ==== Sys2Proof/Machine/TileRun.lean ====
section
/-! DEFINITION. The matrix engine at work: passes (12 R271), migration (R272), the effects of the tile commands (R259 to
R268, R273 to R275) and their completion. -/

namespace Sys2Proof.Machine

/-- A command that brings poison to these locations waits (log 86). -/
def bringsPoison (s : State) (src dst : List Nat) : Bool := damaged s src && poisonWaits s dst

/-- An engine's reads pass L1: they fill their lines with the plane index that each names (07 R160), and those outside the
device leave as requests (18 R379). -/
def State.readL2 (s : State) (plane : Nat) (locs : List Nat) : State :=
  { s with l2 := s.l2.touch plane locs, outbound := s.outbound ++ outReads locs }

/-- Bytes copied at their homes: poison goes with them, by byte pairs (07 R162, 12 R269). -/
def copyBytes (s : State) (priv : Bool) (src dst : List Nat) : State :=
  let t := s.writeHome (dst.zip (homeBytes s priv 0 src))
  let bad := if s.unpoisoned then [] else (src.zip dst).filter fun x => s.poisoned x.1
  let u := { t with free := if src.any isOutside then t.free + src.length else t.free }
  if bad.isEmpty then u else u.poisonAt (bad.map Prod.snd)

/-! ### Operands -/

/-- The tile row and column of the element at line `i` and position `k`, outside PB16 (12 R264). -/
def Spec.place (p : Spec) (g : TileGeo) (i k : Nat) : Nat × Nat :=
  if p.grouped || p.lay = 0 then (i, k)
  else if p.lay = 1 then (k, i)
  else (i, 2 * ((k / 2 + i) % (g.cols / 2)) + k % 2)

/-- The tile bytes that hold that element, of PB16 its block with the planes that are read. -/
def Spec.cellLocs (p : Spec) (t : Team) (g : TileGeo) (i k : Nat) : List Nat :=
  if p.enc = 2 then (List.range (p.npl + 2)).flatMap fun j => span (tileAt t (g.planeByte j i (k / 16))) 2
  else
    let e := p.place g i k
    span (tileAt t (g.off + g.bitOf e.1 e.2 / 8)) (if g.ew = 4 then 1 else g.ew / 8)

/-- The value of an operand element at line `i` and position `k`, its tile valid (12 R264, R265). `scale` gives the
record of a line and group. -/
def operandValue (s : State) (t : Team) (p : Spec) (g : TileGeo) (scale : Nat → Nat → Nat) (i k : Nat) : Elem :=
  if p.enc = 2 then
    let b : Block := ⟨tilePlane s t g 0 i (k / 16), tilePlane s t g 1 i (k / 16),
      (List.range p.npl).map fun j => tilePlane s t g (j + 2) i (k / 16)⟩
    pb16Elem b (k % 16) p.npl p.mid
  else if p.grouped then
    let q := tileElem s t g i k
    let r := if p.scs = 0 then 0x3C00 else scale i (k / p.group)
    gValue q (if p.zp && p.scs != 0 then bitField r 16 8 else 0) (BitVec.ofNat 32 (r % 65536))
  else
    let e := p.place g i k
    Elem.ofFp (if p.enc = 0 then .bf16 else .f16) (BitVec.ofNat 32 (tileElem s t g e.1 e.2))

/-- The scale record of a line and group (12 R265): from the scale tile, or from memory, whose bytes were read. -/
def scaleRecord (s : State) (t : Team) (p : Spec) (sg : TileGeo) (groups : Nat) (bytes : List Byte) (i g : Nat) : Nat :=
  if p.scs = 1 then tileElem s t sg i g else leNat ((bytes.drop (4 * (i * groups + g))).take 4)

/-- The locations that hold that record. -/
def Spec.scaleLocs (p : Spec) (t : Team) (sg : TileGeo) (groups : Nat) (locs : List Nat) (i g : Nat) : List Nat :=
  if p.scs = 0 then []
  else if p.scs = 1 then span (tileAt t (sg.off + sg.bitOf i g / 8)) (sg.ew / 8)
  else (locs.drop (4 * (i * groups + g))).take 4

/-- A bit of a bitmap tile (12 R267). -/
def bitmapBit (s : State) (t : Team) (g : TileGeo) (j : Nat) : Bool :=
  bitAt (memGet s.mem (tileAt t (g.off + j / 8))).toNat (j % 8)

/-- A tile of an operation, in the order C, A, B, scales of A, scales of B, bitmap; its operand specifiers. -/
def TileCmd.geo (x : TileCmd) (i : Nat) : TileGeo := tileGeo (x.descs.getD i 0)
def TileCmd.specA (x : TileCmd) : Spec := specOf ((x.words.getD 1 0).toNat % 2 ^ 32)
def TileCmd.specB (x : TileCmd) : Spec := specOf ((x.words.getD 1 0).toNat / 2 ^ 32)
/-- The depth of an operation, and whether it accumulates. -/
def TileCmd.depth (x : TileCmd) : Nat := x.specA.depth (x.geo 1)
def TileCmd.acc (x : TileCmd) : Bool := bitAt (x.words.getD 0 0).toNat 36

/-- The bitmap of MMAS marks the B block of column `n` and position `k` (12 R267). -/
def TileCmd.marked (s : State) (t : Team) (x : TileCmd) (n k : Nat) : Bool :=
  x.fn == 11 && bitmapBit s t (x.geo 5) (k / 8 * ((x.geo 0).cols / 8) + n / 8)

/-- One element of MMA or MMAS (12 R267, R268), with the bytes of the scale records in memory. -/
def mmaElem (s : State) (t : Team) (x : TileCmd) (bytes : List Byte) (m n : Nat) : W32 :=
  let va := operandValue s t x.specA (x.geo 1) (scaleRecord s t x.specA (x.geo 3) (x.depth / x.specA.group) bytes)
  let vb := operandValue s t x.specB (x.geo 2) (scaleRecord s t x.specB (x.geo 4) (x.depth / x.specB.group) bytes)
  let acc : W32 := if x.acc then BitVec.ofNat 32 (tileElem s t (x.geo 0) m n) else 0
  mxeDot acc (va m) (fun k => if x.marked s t n k then .zero else vb n k) (x.depth / 16)

/-- The locations that the elements of an operand read: with them their scale records, but for elements left out. -/
def operandReads (t : Team) (p : Spec) (g sg : TileGeo) (lines depth : Nat) (locs : List Nat) (skip : Nat → Nat → Bool) :
    List Nat :=
  (List.range lines).flatMap fun i => (List.range depth).flatMap fun k =>
    if skip i k then [] else p.cellLocs t g i k ++ p.scaleLocs t sg (depth / p.group) locs i (k / p.group)

/-- The locations an MMA or MMAS reads (12 R269): no plane above NPL, no unused record, no marked block of B. -/
def mmaReads (s : State) (t : Team) (x : TileCmd) : List Nat :=
  let locs := extentLocs (x.extents.headD [])
  (if x.acc then tileLocs t (x.geo 0) else []) ++
  operandReads t x.specA (x.geo 1) (x.geo 3) (x.geo 0).rows x.depth locs (fun _ _ => false) ++
  operandReads t x.specB (x.geo 2) (x.geo 4) (x.geo 0).cols x.depth locs (x.marked s t) ++
  (if x.fn = 11 then span (tileAt t (x.geo 5).off) ((x.depth / 8 * ((x.geo 0).cols / 8) + 7) / 8) else [])

/-- Every (row, column) of a tile, row by row. -/
def tileCells (g : TileGeo) : List (Nat × Nat) :=
  (List.range g.rows).flatMap fun r => (List.range g.cols).map fun c => (r, c)

/-- The effect of MMA and MMAS, every source read before C is written (12 R267, R269). DESIGN CHOICE (log 114): a scale
record on a TT 6 page reads free values, also where its link read fails. -/
def runMma (s : State) (t : Team) (x : TileCmd) : State :=
  let g := x.geo 0
  let locs := extentLocs (x.extents.headD [])
  let bytes := homeBytes s x.priv 0 locs
  let poisoned := anyPoison s (mmaReads s t x)
  let value (m n : Nat) : W32 := if poisoned then Fmt.qnan .f32 else mmaElem s t x bytes m n
  let u : State := { s.readL2 0 locs with free := if locs.any isOutside then s.free + locs.length else s.free }
  u.writeHome ((tileCells g).flatMap fun e =>
    cellsAt (tileAt t (g.off + g.bitOf e.1 e.2 / 8)) (leBytes 4 (value e.1 e.2).toNat))

/-! ### Epilogues -/

/-- The fields of the epilogue control (12 R273). -/
def tepiFormat (xb : Nat) : Nat := bitField xb 8 2
def tepiKv? (xb : Nat) : Bool := bitAt xb 15
def tepiGroup (xb : Nat) : Nat := 32 * 2 ^ bitField xb 18 2

/-- The activation of an element (12 R274). -/
def tepiElem (act : Nat) (alpha v : W32) : W32 :=
  let mul (a b : W32) : W32 := (fpMul .f32 .rn false a b).1
  let add (a b : W32) : W32 := (fpAdd .f32 .rn false a b).1
  let sp (fn : SpFun) (a : W32) : W32 := (specialFn fn .f32 false a).1
  let x := mul v alpha
  canonNan
    (match act with
    | 0 => x
    | 1 => if isNan .f32 x then Fmt.qnan .f32 else (fpMinMax .f32 true x 0).1
    | 2 => mul (mul x 0x3F000000) (add (sp .erf (mul x 0x3F3504F3)) 0x3F800000)
    | 3 => mul x (sp .rcp (add (sp .ex2 (mul x 0xBFB8AA3B)) 0x3F800000))
    | _ => sp .tanh x)

/-- The result element of an epilogue. -/
def tepiValue (s : State) (t : Team) (x : TileCmd) (m n : Nat) : W32 :=
  let g := tileGeo (x.descs.headD 0)
  let xb := (x.words.getD 2 0).toNat
  tepiElem (bitField xb 0 4) ((x.words.getD 3 0).setWidth 32) (BitVec.ofNat 32 (tileElem s t g m n))

/-- Rounding of a quotient of natural numbers to an integer, ties to even. -/
def rneQuot (n d : Nat) : Nat :=
  let q := n / d
  let r := n % d
  if d < 2 * r ∨ (2 * r = d ∧ q % 2 = 1) then q + 1 else q

/-- A finite value divided by a positive scale, rounded to an integer (12 R275). -/
def rneScaled (m : Int) (e : Int) (sm : Nat) (se : Int) : Int :=
  let n := m.natAbs * 2 ^ (e - se).toNat
  let d := sm * 2 ^ (se - e).toNat
  let q : Int := (rneQuot n d : Nat)
  if m < 0 then -q else q

/-- The lesser and the greater of two finite values. -/
def Elem.lt (x y : Elem) : Bool := (Elem.add x (Elem.prod y (.fin (-1) 0))).isNeg
def Elem.pickMin (x y : Elem) : Elem := if Elem.lt y x then y else x
def Elem.pickMax (x y : Elem) : Elem := if Elem.lt x y then y else x

/-- The codes and the record of a G8 group (12 R275). -/
def quantise (ys : List W32) : List Nat × Nat :=
  if ys.any (fun y => isNan .f32 y || isInf .f32 y) then (ys.map fun _ => 255, 0x7E00)
  else
    let vs := ys.map (Elem.ofFp .f32)
    let lo := vs.foldl Elem.pickMin .zero
    let hi := vs.foldl Elem.pickMax .zero
    match Elem.add hi (Elem.prod lo (.fin (-1) 0)) with
    | .fin d e =>
      if d = 0 then (ys.map fun _ => 0, 0x3C00)
      else
        let n := d.natAbs * 2 ^ 64
        let r := (roundFp .f16 .rn false false (n / 255) (e - 64) (n % 255 != 0)).1
        let sc : W32 := if isInf .f16 r then 0x7BFF else if fpMag .f16 r = 0 then 1 else r
        match fpValue .f16 sc with
        | .fin _ sm se =>
          let q (v : Elem) : Int :=
            match v with
            | .fin m k => rneScaled m k sm se
            | _ => 0
          let zp := clampInt (-(q lo)) 0 255
          (vs.map fun v => (clampInt (q v + zp) 0 255).toNat, sc.toNat + 65536 * zp.toNat)
        | _ => (ys.map fun _ => 0, sc.toNat)
    | _ => (ys.map fun _ => 255, 0x7E00)

/-- The bytes of a G8 row: its codes, then its records (12 R275). -/
def g8Row (group : Nat) (ys : List W32) : List Byte :=
  let gs := (List.range (ys.length / group)).map fun i => quantise ((ys.drop (i * group)).take group)
  gs.flatMap (fun r => r.1.map (BitVec.ofNat 8)) ++ gs.flatMap fun r => leBytes 4 r.2

/-- The bytes of row `m` of an epilogue's result, in the order of its extents (12 R275). -/
def tepiRow (s : State) (t : Team) (x : TileCmd) (m : Nat) : List Byte :=
  let g := tileGeo (x.descs.headD 0)
  let xb := (x.words.getD 2 0).toNat
  let ys := (List.range g.cols).map fun n => tepiValue s t x m n
  match tepiFormat xb with
  | 0 => ys.flatMap fun y =>
      leBytes 2 (canonHalf (convertFp .f32 .bf16 (RMode.ofBits (BitVec.ofNat 2 (bitField xb 20 2))) false y).1).toNat
  | 1 => (List.range (g.cols / 16)).flatMap fun j =>
      let enc := (pb16Encode ((ys.drop (16 * j)).take 16)).1
      ((enc.e :: enc.s :: enc.m).take (bitField xb 22 5 + 2)).flatMap fun w => leBytes 2 w.toNat
  | _ => g8Row (tepiGroup xb) ys
where
  /-- The low half of a pattern. -/
  canonHalf (w : W32) : W32 := loHalf w

/-- The effect of TEPI outside KV-append mode (12 R275, R269). -/
def runTepi (s : State) (t : Team) (x : TileCmd) : State :=
  let g := tileGeo (x.descs.headD 0)
  let locs := x.extents.flatMap extentLocs
  let bytes := (List.range g.rows).flatMap fun m => tepiRow s t x m
  let u := s.writeHome (locs.zip bytes)
  if anyPoison s (tileLocs t g) then u.poisonAt locs else u

/-! ### Commands -/

/-- The slots that TLDP or TREF fills: plane by plane, block by block (12 R260). -/
def planeSlots (t : Team) (g : TileGeo) (first np : Nat) : List Nat :=
  ((List.range (np + 2)).filter fun j => decide (first ≤ j)).flatMap fun j =>
    (List.range g.rows).flatMap fun r => (List.range (g.cols / 16)).flatMap fun kb =>
      let l := tileAt t (g.planeByte j r kb)
      [l, l + 1]

/-- Whether any tile byte a command wrote is poisoned; then an error record is posted (12 R269). -/
def noteTilePoison (s : State) (t : Team) (x : TileCmd) (locs : List Nat) : State :=
  if anyPoison s locs then
    s.postRecord (coreStack t.core) 2 (x.cluster % 96) (BitVec.ofNat 64 (locs.headD 0)) 0
  else s

/-- The memory locations of a command, in order. -/
def TileCmd.memLocs (x : TileCmd) : List Nat := x.extents.flatMap extentLocs

/-- The planes of a TLDP or TREF: the first, and how many mantissa planes. -/
def TileCmd.firstPlane (x : TileCmd) : Nat := if x.fn = 4 then x.arg.getD 0 0 + 2 else 0
def TileCmd.planes (x : TileCmd) : Nat := x.arg.getD 1 0

/-- The locations a command reads, and those it writes (12 R259-R261, R267, R275). -/
def tileReads (s : State) (t : Team) (x : TileCmd) : List Nat :=
  match x.fn with
  | 2 => x.memLocs
  | 3 => x.memLocs
  | 4 => x.memLocs
  | 5 => tileLocs t (x.geo 0)
  | 6 => []
  | 12 => tileLocs t (x.geo 0)
  | _ => mmaReads s t x
def tileWrites (t : Team) (x : TileCmd) : List Nat :=
  match x.fn with
  | 3 => planeSlots t (x.geo 0) x.firstPlane x.planes
  | 4 => planeSlots t (x.geo 0) x.firstPlane x.planes
  | 5 => x.memLocs
  | 12 => x.memLocs
  | _ => tileLocs t (x.geo 0)

/-- The lines that a plane-tile load fills, plane by plane (07 R160). -/
def readPlanesL2 (s : State) (x : TileCmd) : State :=
  let size := 2 * ((x.geo 0).rows * ((x.geo 0).cols / 16))
  (List.range (x.planes + 2 - x.firstPlane)).foldl (fun u i =>
    u.readL2 (x.firstPlane + i) ((x.memLocs.drop (size * i)).take size)) s

/-- The effect of a tile command, whole (12 R254). -/
def runTile (s0 : State) (t : Team) (x : TileCmd) : State :=
  let s := s0.found (tileReads s0 t x)
  let load (u : State) : State := noteTilePoison (copyBytes u x.priv x.memLocs (tileWrites t x)) t x (tileWrites t x)
  match x.fn with
  | 2 => load (s.readL2 0 x.memLocs)
  | 3 => load (readPlanesL2 s x)
  | 4 => load (readPlanesL2 s x)
  | 5 => copyBytes s x.priv (tileLocs t (x.geo 0)) x.memLocs
  | 6 => s.writeHome ((tileLocs t (x.geo 0)).map fun l => (l, 0))
  | 12 => runTepi s t x
  | _ => runMma s t x

/-- The passes a command needs (12 R271): blocks of output for MMA, MMAS, TZERO and TEPI, else tile rows. -/
def TileCmd.needs (x : TileCmd) : Nat :=
  let g := tileGeo (x.descs.headD 0)
  if x.fn = 10 ∨ x.fn = 11 ∨ x.fn = 6 ∨ x.fn = 12 then (g.rows / 16) * (g.cols / 16) else g.rows

/-- The engine that runs a command: its cluster's, or the one it migrated to (12 R272). -/
def TileCmd.engine (x : TileCmd) : Nat := x.migrated.getD x.cluster

/-- The commands of a team that entered before one. -/
def earlierTiles (s : State) (x : TileCmd) : List TileCmd := s.tiles.filter fun y => decide (y.uid < x.uid)

/-- An entry is ready: every earlier command of its tile order that touches its tiles has taken effect, and the stores
its operands follow are performed (12 R271, 08 R180). A KV append waits for the Eland die instead (17 R358). -/
def tileReady (s : State) (x : TileCmd) : Bool :=
  match s.teams[x.team]? with
  | none => false
  | some t =>
    !x.done && x.kv.isNone && !((earlierTiles s x).any fun y => y.touches x.team (x.descs.map tileGeo)) &&
      !(s.queue.any fun e => e.core == t.core && decide (e.uid < x.mark)) &&
      !sleeping s (tileReads s t x ++ tileWrites t x) && !bringsPoison s (tileReads s t x) (tileWrites t x)

/-- The arbiter's choice among ready entries (12 R271): the oldest that waited 16 passes, else the highest class. -/
def arbiterPick (s : State) (ready : List TileCmd) : Option TileCmd :=
  let cls (x : TileCmd) : Nat := (s.launch (((s.teams[x.team]?).map Team.seq).getD 0)).cls
  match ready.find? fun x => decide (16 ≤ x.skipped) with
  | some x => some x
  | none =>
    let top := ready.foldl (fun m x => max m (cls x)) 0
    ready.find? fun x => cls x == top

/-- A command replaced in the table. -/
def State.modTile (s : State) (uid : Nat) (f : TileCmd → TileCmd) : State :=
  { s with tiles := s.tiles.map fun x => if x.uid = uid then f x else x }

/-- MXE_PASS_GRANT (12 R271): one pass; the command takes effect, whole, with its last one. -/
def grantPass (s : State) (cluster : Nat) : Option State :=
  let ready := s.tiles.filter fun x => x.engine == cluster && tileReady s x
  match arbiterPick s ready with
  | none => none
  | some x =>
    let count (y : TileCmd) : TileCmd :=
      if y.uid = x.uid then { y with passes := y.passes + 1, skipped := 0 }
      else if ready.any (fun r => r.uid == y.uid) then { y with skipped := y.skipped + 1 }
      else y
    let counted : State := { s with tiles := s.tiles.map count }
    if x.needs ≤ x.passes + 1 then
      match s.teams[x.team]? with
      | none => none
      | some t => some ((runTile counted t x).modTile x.uid fun y => { y with done := true })
    else some counted

/-- MXE_MIGRATION (12 R272): the command runs on an adjacent cluster's idle engine; only timing shows it. -/
def migrateTile (s : State) (uid engine : Nat) : Option State :=
  match s.tiles.find? fun x => x.uid == uid with
  | none => none
  | some x =>
    if (x.fn = 10 ∨ x.fn = 11) ∧ tileReady s x ∧ x.passes = 0 ∧ 8 < x.skipped ∧ x.migrated = none ∧
        (engine = x.cluster + 1 ∨ engine + 1 = x.cluster) ∧ engine / 96 = x.cluster / 96 ∧
        !(s.tiles.any fun y => y.cluster == engine || y.engine == engine) then
      some (s.modTile uid fun y => { y with migrated := some engine })
    else none

/-- TILE_COMMAND_COMPLETE (12 R259, R267): the entry is free and the counts drop; an operation that waited for room in
the table may issue. -/
def completeTile (s : State) (uid : Nat) : Option State :=
  match s.tiles.find? fun x => x.uid == uid && x.done with
  | none => none
  | some x =>
    let t : State := { s with tiles := s.tiles.filter fun y => !(y.uid == uid) }
    let u :=
      if x.fn = 10 ∨ x.fn = 11 then
        x.signers.foldl (fun (v : State) n => v.modThread ⟨x.team, n⟩ Thread.doneMx) t
      else if x.fn = 6 then t.modThread ⟨x.team, x.tid⟩ Thread.doneMx
      else t.modThread ⟨x.team, x.tid⟩ Thread.doneAs
    some (settleCluster u x.cluster)

end Sys2Proof.Machine
end

