-- ==== Sys2Proof/Machine/KvPages.lean ====
section
/-! DEFINITION. KV pages, the free pool, and sequence records with their chains (17 R352-R356, R364): what the commands
of the Eland die share. -/

namespace Sys2Proof.Machine

/-! ### Pages -/

/-- The location of a byte of a page (17 R352). -/
def pageLoc (pn off : Nat) : Nat := elandLoc (pn * 0x14000 + off)

/-- A little-endian value in a page, and a write of one. -/
def pageNat (s : State) (pn off n : Nat) : Nat := memNat s.mem (pageLoc pn off) n
def State.putPage (s : State) (pn off n v : Nat) : State := s.writeHome (cellsAt (pageLoc pn off) (leBytes n v))

/-- The fields of the header (17 R353). -/
def pagePbase (s : State) (pn : Nat) : Nat := pageNat s pn 4 4
def noPage : Nat := 0xFFFFFFFF

/-- WMASK of a slot (17 R352). -/
def wmask (s : State) (pn slot : Nat) : Nat := pageNat s pn (0x280 + 4 * slot) 4

/-- The offset of plane `j` of a block of a slot; part 0 is K and part 1 is V (17 R352). -/
def planeOff (part j slot block : Nat) : Nat := 0x400 + part * 0x9000 + j * 2048 + (16 * slot + block) * 2

/-- A block of a page read with its first planes. -/
def pageBlock (s : State) (pn part slot block planes : Nat) : Block :=
  let w (j : Nat) : BitVec 16 := BitVec.ofNat 16 (pageNat s pn (planeOff part j slot block) 2)
  ⟨w 0, w 1, (List.range planes).map fun k => w (k + 2)⟩

/-- How many chains hold a page (17 R353). -/
def pageRefs (s : State) (pn : Nat) : Nat :=
  s.seqs.foldl (fun n r => r.chains.foldl (fun m k => if k.pages.contains pn then m + 1 else m) n) 0

/-- REFS of a page's header brought up to date, modulo 256 (DESIGN CHOICE, log 117: REFS is 1 to 255, and nothing stops a
fork that shares a page once more). -/
def noteRefs (s : State) (pn : Nat) : State := s.putPage pn 0x0F 1 (pageRefs s pn)

/-! ### The free pool -/

/-- The request by which the Eland die takes or frees a page (17 R354). -/
def pageRequest (s : State) (op : HOp) (pn : Nat) : HReq := ⟨s.uid, .eland, op, pageRegion, pageFields pn, 0x01000000, 0, 0, 0⟩

/-- The herd with every admission of the free-page region made that is due (10 R218). -/
def State.poolHerd (s : State) : Herd := s.herd.admitAll pageRegion s.herd.waiting.length

/-- Free pages whose tuples hold an uncorrectable error are discarded when the Eland die takes from the pool (DESIGN CHOICE,
log 87). -/
def discardBadPages (s : State) : State :=
  let bad := s.herd.tuples.filter fun t => t.region == pageRegion && t.pending == 0 && s.herd.flaws.any fun x => x.1 == t.dep
  bad.foldl (fun u t => (discardTuple u t.dep 0 0).getD u) s

/-- A page taken from the pool: the oldest free one (17 R354). -/
def allocPage (s0 : State) : Option (Nat × State) :=
  let s := discardBadPages s0
  let h := s.poolHerd
  match h.region? pageRegion with
  | none => none
  | some r =>
    match h.select r.ordered (pageRequest s (.tak true) 0) with
    | none => none
    | some t => some ((t.fields.getD 1 0).toNat % 2 ^ 24, { s with herd := h.without t })

/-- Several pages taken, all or none. -/
def allocPages : Nat → State → Option (List Nat × State)
  | 0, s => some ([], s)
  | n + 1, s =>
    match allocPage s with
    | none => none
    | some (p, t) =>
      match allocPages n t with
      | none => none
      | some (ps, u) => some (p :: ps, u)

/-- A started scan reads the page (17 R363). -/
def scanReads (s : State) (pn : Nat) : Bool :=
  s.attns.any fun a =>
    match a.gate with
    | some g => g.2.contains pn
    | none => false

/-- A page deposited back into the pool. -/
def freePage (s : State) (pn : Nat) : State :=
  let q := pageRequest s (.dep 0 false) pn
  let h := s.poolHerd.tick
  match h.region? pageRegion with
  | none => s
  | some r => { s.fresh with herd := h.deposit r q 0 false }

/-- The blocks of a slot that a sequence has: 16 K bits and 16 V bits (17 R352, R353). -/
def fullMask (hd : Nat) : Nat := (2 ^ (hd / 16) - 1) * 65537

/-- FILL of a page brought up to date: its leading complete slots (17 R353). -/
def State.noteFill (s : State) (pn : Nat) : State :=
  let full := fullMask (16 * pageNat s pn 0x0E 1)
  s.putPage pn 0x0C 1 ((firstFrom (fun i => (wmask s pn i &&& full) != full) 64 0).getD 64)

/-- Slots of a page at or above a position stand as not written. -/
def clearSlots (s : State) (pn pos : Nat) : State :=
  let b := pagePbase s pn
  let first := if b < pos then min (pos - b) 64 else 0
  if first = 64 then s
  else (s.writeHome (cellsAt (pageLoc pn (0x280 + 4 * first)) (List.replicate (4 * (64 - first)) 0))).noteFill pn

/-- The page of a chain after the one at a position, as NEXT names it (17 R353). -/
def Chain.next (s : State) (k : Chain) (pbase : Nat) : Nat := (k.pages.find? fun p => pagePbase s p == pbase + 64).getD noPage

/-- A page that a chain has left (17 R353, R354, R363): its REFS falls; at none it returns to the pool, once no started
scan reads it; a last holder keeps only its own complete slots, and NEXT names its own successor. -/
def releasePage (s : State) (pn : Nat) : State :=
  let n := pageRefs s pn
  let t := noteRefs s pn
  if n = 0 then (if scanReads s pn then t else freePage t pn)
  else if n = 1 then
    match s.seqs.findSome? fun r => r.chains.find? fun k => k.pages.contains pn with
    | some k => (clearSlots t pn k.len).putPage pn 0 4 (k.next s (pagePbase s pn))
    | none => t
  else t

def releasePages (s : State) (ps : List Nat) : State := ps.foldl releasePage s

/-! ### Sequences -/

def State.seq? (s : State) (n : Nat) : Option SeqRec := s.seqs.find? fun r => r.num == n
def State.modSeq (s : State) (n : Nat) (f : SeqRec → SeqRec) : State :=
  { s with seqs := s.seqs.map fun r => if r.num = n then f r else r }

/-- The place of a chain in its record, layer by layer. -/
def SeqRec.chainIndex (r : SeqRec) (layer head : Nat) : Nat := layer * r.nh + head
def SeqRec.chain (r : SeqRec) (layer head : Nat) : Chain := r.chains.getD (r.chainIndex layer head) {}
def SeqRec.setChain (r : SeqRec) (layer head : Nat) (k : Chain) : SeqRec :=
  { r with chains := r.chains.set (r.chainIndex layer head) k }

/-- The record a command names, KV 0x01 when it is not open or another context's (17 R371). -/
def openSeq (s : State) (c : Cx) (n : Nat) : Chk SeqRec :=
  match s.seq? n with
  | none => stopTrap cKv 1
  | some r => if r.ctx = c.la.ctx then .ok r else stopTrap cKv 1

/-- The lowest number that no open record has (17 R355). -/
def freeSeq (s : State) : Option Nat := firstFrom (fun n => (s.seq? n).isNone) 65536 0

/-- The pair that a page's slot takes at its creation (17 R364). -/
def SeqRec.dfsPair (r : SeqRec) (pos : Nat) : Nat × Nat :=
  if r.w0 ≤ pos then r.window.getD (pos - r.w0) (0, 0xFFFFFFFF) else (0, 0xFFFFFFFF)

/-- The position of the slot 0 of the next page of a chain. -/
def Chain.nextPbase (s : State) (k : Chain) : Nat :=
  match k.pages.getLast? with
  | some p => pagePbase s p + 64
  | none => k.base / 64 * 64

/-- The pages a chain lacks to cover a position. -/
def Chain.lacks (s : State) (k : Chain) (pos : Nat) : Nat :=
  let next := k.nextPbase s
  if next ≤ pos then (pos - next) / 64 + 1 else 0

/-- The header and tables of a page as it joins a chain (17 R353, R358, R364). -/
def writeHeader (s : State) (r : SeqRec) (layer head pn pbase : Nat) : State :=
  let pairs := (List.range 64).flatMap fun i =>
    let p := r.dfsPair (pbase + i)
    leBytes 4 p.1 ++ leBytes 4 p.2
  let bytes := leBytes 4 noPage ++ leBytes 4 pbase ++ leBytes 2 r.num ++ leBytes 1 layer ++ leBytes 1 head ++
    leBytes 1 0 ++ leBytes 1 r.npl ++ leBytes 1 (r.hd / 16) ++ leBytes 1 1 ++ List.replicate 112 0 ++ pairs ++
    List.replicate 256 0 ++ List.replicate 128 0
  s.writeHome (cellsAt (pageLoc pn 0) bytes)

/-- The page of a chain that holds a position. -/
def Chain.pageOf (s : State) (k : Chain) (pos : Nat) : Option Nat :=
  k.pages.find? fun p => pagePbase s p == pos / 64 * 64

/-- A block of a position is written, for this chain: in a page that other chains share, only its complete positions
stand (17 R359). -/
def blockWritten (s : State) (k : Chain) (pos bit : Nat) : Bool :=
  match k.pageOf s pos with
  | none => false
  | some p => if 1 < pageRefs s p then decide (pos < k.len) else bitAt (wmask s p (pos % 64)) bit

/-- Every block of a position is written. -/
def positionComplete (s : State) (hd : Nat) (k : Chain) (pos : Nat) : Bool :=
  match k.pageOf s pos with
  | none => false
  | some p => !(decide (1 < pageRefs s p) && decide (k.len ≤ pos)) &&
      (wmask s p (pos % 64) &&& fullMask hd) == fullMask hd

/-- LEN advanced over the leading complete positions (17 R358). -/
def advanceLen (s : State) (hd : Nat) (k : Chain) : Nat → Chain
  | 0 => k
  | n + 1 => if positionComplete s hd k k.len then advanceLen s hd { k with len := k.len + 1 } n else k

/-- The first slots of a page copied to another, and the DFS numbers of `pairs` slots (17 R358, R370). -/
def copySlots (s : State) (npl src dst slots pairs : Nat) : State :=
  let run (off n : Nat) (t : State) : State := copyBytes t false (span (pageLoc src off) n) (span (pageLoc dst off) n)
  let planes (part : Nat) (t : State) : State :=
    (List.range (npl + 2)).foldl (fun u j => run (planeOff part j 0 0) (32 * slots) u) t
  (planes 1 (planes 0 (run 0x280 (4 * slots) (run 0x80 (8 * pairs) s)))).noteFill dst

/-- A page of a chain replaced by a private copy: its complete slots, the DFS numbers of all, and NEXT as this chain goes
on (17 R353, R358). NEXT of a page before it that other chains share stays (log 52). -/
def privatePage (s : State) (r : SeqRec) (layer head : Nat) (old new : Nat) : State :=
  let k := r.chain layer head
  let b := pagePbase s old
  let t := writeHeader s r layer head new b
  let u := copySlots t r.npl old new (if k.len ≤ b then 0 else min (k.len - b) 64) 64
  let v := u.putPage new 0 4 (k.next s b)
  let prev := k.pages.find? fun p => pagePbase s p + 64 == b
  let w := match prev with
    | some p => if 1 < pageRefs s p then v else v.putPage p 0 4 new
    | none => v
  let x := w.modSeq r.num fun q =>
    let k := q.chain layer head
    q.setChain layer head { k with pages := k.pages.map fun p => if p = old then new else p }
  releasePage (noteRefs x new) old

end Sys2Proof.Machine
end

