-- ==== Sys2Proof/Machine/Append.lean ====
section
/-! DEFINITION. TEPI (12 R273-R275), its KV-append mode (17 R357-R359), and the events by which the Eland die answers an
append and writes it. -/

namespace Sys2Proof.Machine

/-! ### Issue of TEPI -/

/-- A res0 bit or an invalid code of the epilogue control: TILE 0x07 (12 R273). NPW is limited by NPL alone (R275). In
KV-append mode the fields of the formats are left to KV 0x03 (17 R357). -/
def tepiControlBad (xb : Nat) : Bool :=
  let outf := tepiFormat xb
  let gsz := bitField xb 18 2
  bitField xb 27 13 != 0 || bitField xb 16 2 != 0 || bitField xb 10 5 != 0 || bitField xb 4 4 != 0 ||
    decide (4 < bitField xb 0 4) || outf == 3 ||
    (!bitAt xb 15 &&
      ((outf != 1 && (bitField xb 40 24 != 0 || bitField xb 22 5 != 0)) ||
        (outf != 0 && bitField xb 20 2 != 0) || (outf != 2 && gsz != 0) || gsz == 3))

/-- TEPI names the pair xA:xA+1: PB16 output and the KV-append mode. -/
def tepiPaired (xb : Nat) : Bool := bitAt xb 15 || tepiFormat xb == 1

/-- The operand words of TEPI as the command keeps them: xA, xA+1 where the pair is named, xB and xC. -/
def tepiWords (c : Cx) (f : Fields) : List Word :=
  let xb := c.x f.b.toNat
  [c.x f.a.toNat, if tepiPaired xb.toNat then c.x (f.a.toNat + 1) else 0, xb, c.x f.c.toNat]

/-- An accumulator tile: TILE 0x01 and 0x05 (12 R273). -/
def accumulator (g : TileGeo) : Chk Unit :=
  match needTile g false with
  | .error e => .error e
  | .ok _ => failIf (g.ew != 32) cTile 5

/-- The tile checks of TEPI: the accumulator, then the control (12 R273). -/
def tepiTileChecks (g : TileGeo) (xb : Nat) : Chk Unit :=
  match accumulator g with
  | .error e => .error e
  | .ok _ => failIf (tepiControlBad xb) cTile 7

/-- The runs of a PB16 result: row by row, block by block, planes E, S and M1 on (12 R275). DESIGN CHOICE (log 48): the
rule orders no translation before another, and the model translates in this order. -/
def tepiPlanes (s : State) (c : Cx) (p : PlaneSet) (planes : Nat) : List Nat → Chk (List (List Extent))
  | [] => .ok []
  | b :: bs =>
    match planesAt s c .planeOut p b (List.range (planes + 2)) with
    | .error e => .error e
    | .ok ls =>
      match tepiPlanes s c p planes bs with
      | .error e => .error e
      | .ok xs => .ok (ls.map (⟨·, 2⟩) :: xs)

/-- The bytes of a row of a BF16 or G8 result (12 R275). -/
def tepiRowBytes (g : TileGeo) (xb : Nat) : Nat :=
  if tepiFormat xb = 0 then 2 * g.cols else g.cols + 4 * (g.cols / tepiGroup xb)

/-- Where the result of TEPI goes outside KV-append mode (12 R275): the faults of the PB16 form in the order in which
R275 names them, then those of the translation. A tile that is not valid, and an invalid output code, give no result to
translate; the plane set and NPW are looked at all the same, since PLANE comes before TILE (15 R317). -/
def tepiTarget (s : State) (c : Cx) (g : TileGeo) (words : List Word) : Chk (List (List Extent)) :=
  let xa := words.getD 0 0
  let xb := (words.getD 2 0).toNat
  let stride := (words.getD 3 0) >>> 32
  if tepiFormat xb ≠ 1 then
    if !g.valid || tepiFormat xb == 3 || (tepiFormat xb == 2 && bitField xb 18 2 == 3) then .ok []
    else rangeRuns s c .tileStore false (tepiRowBytes g xb) (rowAddrs xa stride g.rows)
  else
    match planeSet xa (words.getD 1 0) with
    | .error e => .error e
    | .ok p =>
      let npw := bitField xb 22 5
      let blocks := tileBlocks g (bitField xb 40 24) stride.toNat
      if p.npl < npw then stopTrap cPlane 3
      else if !g.valid then .ok []
      else if blocks.any fun b => decide (p.stride * 64 ≤ b) then stopTrap cPlane 6
      else tepiPlanes s c p npw blocks

/-- The checks of TEPI outside KV-append mode, and where its result goes, in the order of 01 R21 and 15 R317: ALIGN, the
target, then TILE (log 48). -/
def tepiChecks (s : State) (c : Cx) (g : TileGeo) (words : List Word) : Chk (List (List Extent)) :=
  let xa := words.getD 0 0
  let xb := (words.getD 2 0).toNat
  let stride := (words.getD 3 0) >>> 32
  let flat := tepiFormat xb == 0 || tepiFormat xb == 2
  if flat && xa.toNat % 16 != 0 then stopTrap cAlign 0 xa 4
  else if flat && stride.toNat % 16 != 0 then stopTrap cAlign 0 stride 4
  else
    match tepiTarget s c g words with
    | .error e => .error e
    | .ok runs =>
      match tepiTileChecks g xb with
      | .error e => .error e
      | .ok _ =>
        if tepiFormat xb = 2 ∧ g.cols % tepiGroup xb ≠ 0 then stopTrap cTile 6
        else if flat && decide (stride.toNat < tepiRowBytes g xb) then stopTrap cTile 7
        else .ok runs

/-- A TEPI command of a tile with its operands. -/
def tepiCommand (c : Cx) (f : Fields) (runs : List (List Extent)) : TileCmd :=
  { blankTile with
    fn := 12, d := f.d.toNat, words := tepiWords c f, descs := [c.t.tdescOf f.d.toNat], extents := runs }

/-- TEPI in KV-append mode asks the Eland die (17 R357): the tile checks, then the wait for the answer. -/
def askAppend (s : State) (c : Cx) (f : Fields) : Eff :=
  let words := tepiWords c f
  let rot := words.getD 1 0
  if bitAt (words.getD 0 0).toNat 32 && rot.toNat % 8 != 0 then .trap { cause := cAlign, sub := 0, va := rot, ak := 4 }
  else
    Eff.ofChk (tepiTileChecks (c.t.geo f.d.toNat) (words.getD 2 0).toNat) fun _ =>
      let cmd : TileCmd := { tepiCommand c f [] with team := c.r.team, tid := c.r.tid }
      .here ({ s with appends := s.appends ++ [cmd] }.modThread c.r fun th => { th with wait := .append })

/-- TEPI in either mode: KV of xB selects the mode. Where the pair is named, an odd xA raises ILLEGAL 0x08, and xA+1 is a
register that the word reads. -/
def issueTepi (s : State) (c : Cx) (f : Fields) : Eff :=
  let xb := (c.x f.b.toNat).toNat
  let paired := tepiPaired xb
  if tileFull s c then .wait
  else if paired && f.a.toNat % 2 == 1 then .trap { cause := cIllegal, sub := 8 }
  else if paired && c.hazard [] [f.a.toNat + 1] [] then .wait
  else
    (if bitAt xb 15 then askAppend s c f
    else
      Eff.ofChk (tepiChecks s c (c.t.geo f.d.toNat) (tepiWords c f)) fun runs =>
        .next ((enterTile s c (tepiCommand c f runs)).modThread c.r Thread.issueAs)).unless
      (if paired then c.flawTrap [] [f.a.toNat + 1] 0 else none)

/-- TEPI (12 R273-R275). -/
def execTepi (g : Guard) (f : Fields) (s : State) : Out State := runFull 0x40 12 g f s fun c => issueTepi s c f

/-- TEPI_KV (17 R357): the same word, its mode chosen by xB. -/
def execTepiKv (g : Guard) (f : Fields) (s : State) : Out State := runFull 0x40 12 g f s fun c => issueTepi s c f

/-! ### The answer -/

/-- The fields of a target word (17 R357), which a query word shares (R360). -/
def kvSeq (w : Nat) : Nat := bitField w 48 16
def kvLayer (w : Nat) : Nat := bitField w 40 8
def kvHead (w : Nat) : Nat := bitField w 34 6
def kvPart (w : Nat) : Nat := bitField w 33 1
def kvPos (w : Nat) : Nat := bitField w 0 32

/-- The blocks an append writes, as position and WMASK bit (17 R352, R357). -/
def appendBlocks (g : TileGeo) (target xb : Nat) : List (Nat × Nat) :=
  (List.range g.rows).flatMap fun m => (List.range (g.cols / 16)).map fun j =>
    (kvPos target + m, 16 * kvPart target + bitField xb 40 4 + j)

/-- KV 0x01 to 0x03 of an append (17 R357). -/
def appendChecks (s : State) (c : Cx) (g : TileGeo) (words : List Word) : Chk SeqRec :=
  let w := (words.getD 0 0).toNat
  let xb := (words.getD 2 0).toNat
  match openSeq s c (kvSeq w) with
  | .error e => .error e
  | .ok r =>
    if r.nl ≤ kvLayer w ∨ r.nh ≤ kvHead w ∨ r.hd < 16 * bitField xb 40 4 + g.cols ∨
        kvPos w < (r.chain (kvLayer w) (kvHead w)).base ∨ 2 ^ 32 < kvPos w + g.rows then stopTrap cKv 2
    else if tepiFormat xb ≠ 1 ∨ bitField xb 22 5 ≠ 0 ∨ bitField xb 20 2 ≠ 0 ∨ bitField xb 18 2 ≠ 0 ∨
        bitField xb 44 20 ≠ 0 ∨ 2 ^ 32 ≤ (words.getD 3 0).toNat ∨ (bitAt w 32 ∧ kvPart w = 1) ∨
        (!bitAt w 32 ∧ words.getD 1 0 ≠ 0) then stopTrap cKv 3
    else .ok r

/-- The rotation rows an append reads (17 R358): for each position, its pairs' two words from the first column on. A
sequence that is not open gives no rows. -/
def rotationRuns (s : State) (c : Cx) (g : TileGeo) (words : List Word) : Chk (List (List Extent)) :=
  let w := (words.getD 0 0).toNat
  match (if bitAt w 32 then openSeq s c (kvSeq w) else stopTrap cKv 1) with
  | .error _ => .ok []
  | .ok r =>
    let cb := bitField (words.getD 2 0).toNat 40 4
    rangeRuns s c .scaleLoad false (4 * g.cols) ((List.range g.rows).map fun m =>
      words.getD 1 0 + BitVec.ofNat 64 (((kvPos w + m) * (r.hd / 2) + 8 * cb) * 8))

/-- The pages of a chain that hold one of these blocks and other chains hold. -/
def sharedPages (s : State) (k : Chain) (blocks : List (Nat × Nat)) : List Nat :=
  k.pages.filter fun p =>
    let b := pagePbase s p
    decide (1 < pageRefs s p) && blocks.any fun x => decide (b ≤ x.1) && decide (x.1 < b + 64)

/-- The last position of some blocks. -/
def lastOf (blocks : List (Nat × Nat)) : Nat := blocks.foldl (fun n x => max n x.1) 0

/-- The pages of a chain that an append changes and other chains hold (17 R358): those of its blocks, and the tail, whose
NEXT changes, where the chain is extended. -/
def changedPages (s : State) (k : Chain) (blocks : List (Nat × Nat)) : List Nat :=
  let ps := sharedPages s k blocks
  match k.pages.getLast? with
  | none => ps
  | some p => if 1 < pageRefs s p ∧ k.lacks s (lastOf blocks) ≠ 0 ∧ !(ps.contains p) then ps ++ [p] else ps

/-- The new pages that an append needs. -/
def pagesWanted (s : State) (k : Chain) (blocks : List (Nat × Nat)) : Nat :=
  if blocks.isEmpty then 0 else k.lacks s (lastOf blocks) + (changedPages s k blocks).length

/-- A tile command is an accepted append to this chain that has not been written. -/
def TileCmd.appendsTo (x : TileCmd) (n layer head : Nat) : Bool :=
  let w := (x.words.headD 0).toNat
  x.kv == some n && !x.done && kvLayer w == layer && kvHead w == head

/-- The blocks of a chain that accepted appends have reserved (17 R357), those in save areas with them (R358). -/
def reservedBlocks (s : State) (r : SeqRec) (layer head : Nat) : List (Nat × Nat) :=
  (s.tiles.filter fun x => x.appendsTo r.num layer head).flatMap TileCmd.blocks ++
    (r.saved.filter fun a => a.layer == layer && a.head == head).flatMap SavedAppend.blocks

/-- The rest of the acceptance (17 R357): the blocks and the pages that the append reserves. -/
def reserveAppend (s : State) (r : SeqRec) (g : TileGeo) (words : List Word) :
    Chk (List (Nat × Nat) × List Nat × State) :=
  let w := (words.getD 0 0).toNat
  let k := r.chain (kvLayer w) (kvHead w)
  let blocks := appendBlocks g w (words.getD 2 0).toNat
  let n := pagesWanted s k blocks
  let held := reservedBlocks s r (kvLayer w) (kvHead w)
  if 8 < n then stopTrap cKv 7
  else if blocks.any fun x => blockWritten s k x.1 x.2 || held.contains x then stopTrap cKv 5
  else
    match allocPages n s with
    | none => stopTrap cKv 4
    | some (ps, t) => .ok (blocks, ps, t)

/-- The append a thread has asked for. -/
def appendOf (s : State) (team tid : Nat) : Option TileCmd := s.appends.find? fun x => x.team == team && x.tid == tid

/-- The checks at the answer, in the order of 17 R357: the tile, as it stands at the append's place in the tile order (12
R256), the rotation rows, the Eland die. Gives the state after, with the command accepted. -/
def acceptAppend (s : State) (c : Cx) (x : TileCmd) : Chk State :=
  let desc := c.t.tdescOf x.d
  let g := tileGeo desc
  match accumulator g with
  | .error e => .error e
  | .ok _ =>
    match rotationRuns s c g x.words with
    | .error e => .error e
    | .ok runs =>
      match appendChecks s c g x.words with
      | .error e => .error e
      | .ok r =>
        match reserveAppend s r g x.words with
        | .error e => .error e
        | .ok (blocks, ps, u) =>
          .ok (enterTile u c
            { x with descs := [desc], extents := runs, kv := some r.num, blocks := blocks, pages := ps })

/-- APPEND_ACCEPT (17 R357): accepted, it enters the tile order and counts on AS; refused, its thread traps. -/
def answerAppend (s : State) (team tid : Nat) : Option (Out State) :=
  match appendOf s team tid, s.viewOf ⟨team, tid⟩ with
  | some x, some c =>
    let t : State := { s with appends := s.appends.filter fun y => !(y.team == team && y.tid == tid) }
    if !tableRoom s (coreCluster c.t.core) then none
    else
      match acceptAppend t c x with
      | .ok v => some (.next (v.modThread c.r fun th => (th.issueAs).advance))
      | .error (.trap tr) => if c.th.quiet then some (.next (t.takeTrap c tr)) else none
      | .error (.fault ft) => some (.fault ft)
      | .error .wait => none
  | _, _ => none

/-! ### The write -/

/-- A page for a chain: one that the append has reserved, else one from the pool (DESIGN CHOICE, log 118: a tail that a
later KVFORK has shared needs a page that no reservation covers, and the write waits while the pool is empty). -/
def takePage (ps : List Nat) (s : State) : Option (Nat × List Nat × State) :=
  match ps with
  | p :: qs => some (p, qs, s)
  | [] => (allocPage s).map fun x => (x.1, [], x.2)

/-- A page joined to the tail of a chain through the tail's NEXT (17 R358). -/
def joinPage (s : State) (n layer head pn : Nat) : State :=
  match s.seq? n with
  | none => s
  | some r =>
    let k := r.chain layer head
    let t := writeHeader s r layer head pn (k.nextPbase s)
    let u := match k.pages.getLast? with
      | some p => t.putPage p 0 4 pn
      | none => t
    u.modSeq n fun q => q.setChain layer head { k with pages := k.pages ++ [pn] }

/-- A chain extended until it covers a position, with the pages that are left. -/
def extendTo (n layer head pos : Nat) : Nat → List Nat → State → Option (List Nat × State)
  | 0, ps, s => some (ps, s)
  | fuel + 1, ps, s =>
    match s.seq? n with
    | none => none
    | some r =>
      if (r.chain layer head).lacks s pos = 0 then some (ps, s)
      else
        match takePage ps s with
        | none => none
        | some (p, qs, t) => extendTo n layer head pos fuel qs (joinPage t n layer head p)

/-- The shared pages that an append changes replaced by private copies, with the pages that are left. -/
def makePrivate (n layer head : Nat) : List Nat → List Nat → State → Option (List Nat × State)
  | [], ps, s => some (ps, s)
  | old :: rest, ps, s =>
    match takePage ps s with
    | none => none
    | some (new, qs, t) =>
      match t.seq? n with
      | none => none
      | some r => makePrivate n layer head rest qs (privatePage t r layer head old new)

/-- Words read from bytes. -/
def wordsOf : List Byte → List W32
  | a :: b :: c :: d :: bs => (d ++ c ++ b ++ a) :: wordsOf bs
  | _ => []

/-- A row rotated pair by pair with the words of its rotation row (17 R358). -/
def rotateRow : List W32 → List W32 → List W32
  | cs :: sn :: rs, a :: b :: ys =>
    let mul (x y : W32) : W32 := (fpMul .f32 .rn false x y).1
    (fpSub .f32 .rn false (mul a cs) (mul b sn)).1 :: (fpAdd .f32 .rn false (mul a sn) (mul b cs)).1 :: rotateRow rs ys
  | _, ys => ys

/-- The values of a row of an append; `rot` are the bytes of all rotation rows. -/
def appendRow (s : State) (t : Team) (x : TileCmd) (rot : List Byte) (m : Nat) : List W32 :=
  let g := x.geo 0
  let ys := (List.range g.cols).map fun n => tepiValue s t x m n
  if bitAt (x.words.getD 0 0).toNat 32 then
    (rotateRow (wordsOf ((rot.drop (4 * g.cols * m)).take (4 * g.cols))) ys).map canonNan
  else ys

/-- The planes of a block as cells of its page (17 R352, R358). -/
def blockCells (s : State) (k : Chain) (npl : Nat) (x : Nat × Nat) (ys : List W32) : List Host.Cell :=
  match k.pageOf s x.1 with
  | none => []
  | some p =>
    let enc := (pb16Encode ys).1
    (indexed 0 ((enc.e :: enc.s :: enc.m).take (npl + 2))).flatMap fun iv =>
      cellsAt (pageLoc p (planeOff (x.2 / 16) iv.1 (x.1 % 64) (x.2 % 16))) (leBytes 2 iv.2.toNat)

/-- The cells of every block that an append still has reserved. -/
def appendCells (s0 s : State) (t : Team) (x : TileCmd) (r : SeqRec) (k : Chain) : List Host.Cell :=
  let g := x.geo 0
  let rot := homeBytes s0 x.priv 0 x.memLocs
  let blocks := appendBlocks g (x.words.getD 0 0).toNat (x.words.getD 2 0).toNat
  let per := g.cols / 16
  (List.range g.rows).flatMap fun m =>
    let ys := appendRow s0 t x rot m
    (List.range per).flatMap fun j =>
      let b := blocks.getD (m * per + j) (0, 0)
      if x.blocks.contains b then blockCells s k r.npl b ((ys.drop (16 * j)).take 16) else []

/-- The WMASK bits of blocks set (17 R358). -/
def markBlocks (k : Chain) (blocks : List (Nat × Nat)) (s : State) : State :=
  blocks.foldl (fun u x =>
    match k.pageOf u x.1 with
    | none => u
    | some p => u.putPage p (0x280 + 4 * (x.1 % 64)) 4 (wmask u p (x.1 % 64) ||| 2 ^ x.2)) s

/-- FILL and LEN after an append (17 R358). -/
def finishAppend (s : State) (n layer head : Nat) (blocks : List (Nat × Nat)) : State :=
  match s.seq? n with
  | none => s
  | some r =>
    let k := r.chain layer head
    let touched := k.pages.filter fun p => blocks.any fun x => decide (x.1 / 64 * 64 = pagePbase s p)
    let t := touched.foldl State.noteFill s
    t.modSeq n fun q => q.setChain layer head (advanceLen t r.hd k (64 * k.pages.length))

/-- A started scan reads a position of a page that the append would write in place (17 R363): the append waits for it. -/
def scanHolds (s : State) (k : Chain) (blocks : List (Nat × Nat)) : Bool :=
  s.attns.any fun a =>
    match a.gate with
    | none => false
    | some g => blocks.any fun x =>
        match k.pageOf s x.1 with
        | none => false
        | some p => decide (pageRefs s p ≤ 1) && g.2.contains p && decide (x.1 < kvPos a.query.toNat)

/-- An accepted append may be written: its place in the tile order has come, and the thread's earlier stores are
performed (12 R254, 08 R180). -/
def appendReady (s : State) (x : TileCmd) : Bool := x.kv.isSome && tileReady s { x with kv := none }

/-- The whole effect of an accepted append (17 R358): of the blocks that it still has reserved. Pages that it does not use
return to the pool. -/
def runAppend (s0 : State) (t : Team) (x : TileCmd) (n : Nat) : Option State :=
  let reads := tileLocs t (x.geo 0) ++ x.memLocs
  let s := s0.found reads
  let w := (x.words.getD 0 0).toNat
  let layer := kvLayer w
  let head := kvHead w
  match s.seq? n with
  | none => some s
  | some r =>
    if x.blocks.isEmpty then some (x.pages.foldl freePage s)
    else
      let k := r.chain layer head
      match makePrivate n layer head (changedPages s k x.blocks) x.pages s with
      | none => none
      | some (ps, u) =>
        match extendTo n layer head (lastOf x.blocks) (pagesWanted s k x.blocks + 1) ps u with
        | none => none
        | some (qs, v) =>
          match v.seq? n with
          | none => none
          | some q =>
            let new := q.chain layer head
            let cells := appendCells s v t x q new
            let y : State := { (v.writeHome cells).readL2 0 x.memLocs with
              free := if x.memLocs.any isOutside then v.free + x.memLocs.length else v.free }
            let z := if anyPoison s reads then y.poisonAt (cells.map Prod.fst) else y
            some (qs.foldl freePage (finishAppend (markBlocks new x.blocks z) n layer head x.blocks))

/-- APPEND_WRITE (17 R358). -/
def writeAppend (s : State) (uid : Nat) : Option State :=
  match s.tiles.find? fun x => x.uid == uid with
  | none => none
  | some x =>
    match x.kv, s.teams[x.team]? with
    | some n, some t =>
      let w := (x.words.getD 0 0).toNat
      let held := (s.seq? n).any fun r => scanHolds s (r.chain (kvLayer w) (kvHead w)) x.blocks
      if !appendReady s x ∨ held then none
      else
        match runAppend s t x n with
        | none => none
        | some u => some (u.modTile uid fun y => { y with done := true, blocks := [], pages := [] })
    | _, _ => none

end Sys2Proof.Machine
end

