-- ==== Sys2Proof/Machine/Atomic.lean ====
section
/-! DEFINITION. The atomics, OP 0x22 FN 0 to 2 (09 R200-R202), FENCE (R203) and WAIT (R204). -/

namespace Sys2Proof.Machine

/-- The control field of an atomic (09 R200). -/
def atomicOp (f : Fields) : Nat := lowBits f.c 0 4
def atomicAcquires (f : Fields) : Bool := f.c.getLsbD 4
def atomicReleases (f : Fields) : Bool := f.c.getLsbD 5
def atomicScope (f : Fields) : Nat := lowBits f.c 6 3

/-- A data operand of an atomic: x registers with AM = 1, else a vector register or pair (09 R200). -/
def Cx.atomicData (c : Cx) (f : Fields) (n : BitVec 10) : Word :=
  if f.am then c.x n.toNat else if f.mod = 1 then c.pair n.toNat else (c.v n.toNat).setWidth 64

/-- The new value of an operation on a 32-bit or 64-bit integer type (09 R201). -/
def newInt (w op : Nat) (old v : Nat) : Nat :=
  let signed (x : Nat) : Int := sextNat x w
  match op with
  | 0 => (old + v) % 2 ^ w
  | 1 => if signed old ≤ signed v then old else v
  | 2 => if signed old ≤ signed v then v else old
  | 3 => min old v
  | 4 => max old v
  | 5 => old &&& v
  | 6 => old ||| v
  | _ => old ^^^ v

/-- The new value of a floating-point operation, subnormals kept (09 R201). -/
def newFp (f : Fmt) (op : Nat) (old v : W32) : W32 :=
  match op with
  | 9 => (fpAdd f .rn false old v).1
  | 10 => (fpMinMax f false old v).1
  | _ => (fpMinMax f true old v).1

/-- `new` of 09 R201: what an atomic writes, by its type. -/
def newValue (op ty : Nat) (old v : Word) : Word :=
  if op = 8 then v
  else if op = 12 then old
  else if ty = 0 then BitVec.ofNat 64 (newInt 32 op (old.toNat % 2 ^ 32) (v.toNat % 2 ^ 32))
  else if ty = 1 then BitVec.ofNat 64 (newInt 64 op old.toNat v.toNat)
  else
    let o : W32 := old.setWidth 32
    let x : W32 := v.setWidth 32
    if ty = 2 then (newFp .f32 op o x).setWidth 64
    else
      let t : Fmt := if ty = 3 then .bf16 else .f16
      (packHalves (newFp t op (loHalf o) (loHalf x)) (newFp t op (hiHalf o) (hiHalf x))).setWidth 64

/-- The registers of a returning atomic that await its result, with a value (09 R200). -/
def atomicResult (f : Fields) (w : Word) (p : Pending) : Pending :=
  let d := f.d.toNat
  if f.am then { p with xregs := [(d, w)] }
  else if f.mod = 1 then { p with vregs := [(d, w.setWidth 32, {}), (d + 1, (w >>> 32).setWidth 32, {})] }
  else { p with vregs := [(d, w.setWidth 32, {})] }

/-- The checks that ATOM, ATOMC and RED share, and the entry they put into the store queue (09 R200, R202). -/
def issueAtomic (s : State) (c : Cx) (f : Fields) (cas ret : Bool) (v cmp : Word) (after : State → State) : Eff :=
  let ty := f.mod.toNat
  let ea := c.base f.a
  let release := atomicReleases f
  let acquire := ret && atomicAcquires f
  let wide := wideScope (atomicScope f)
  Eff.ofChk (checkAligned ea (atomicSize ty) Acc.atomic.ak) fun _ =>
    Eff.ofChk (translate s c .atomic ea) fun x =>
      let locs := span x.loc (atomicSize ty)
      if sleeping s locs then .wait
      else if ret && linkReadFails s locs then
        .trapAt { s with readFail := false } { cause := cEcc, sub := 3, va := ea, ak := Acc.atomic.ak }
      else
        Eff.ofChk (checkDamage s (notOverwritten s c.t.core locs) ea Acc.atomic.ak) fun _ =>
          let what : QWhat := .rmw (atomicOp f) ty x.loc v cmp cas ret
          let e : QEntry := ⟨s.uid, c.t.core, c.r, ea, what, false, release && wide, acquire, acquire && wide, none, []⟩
          let go : Eff := .next (after (s.enqueue e))
          if release then linkStop s c go else go

/-- A returning atomic's result awaited, not ready until it is performed. -/
def awaitAtomic (c : Cx) (f : Fields) (uid : Nat) (t : State) : State :=
  t.addPending c.r (atomicResult f 0 { uid := uid, vregs := [], xregs := [], ready := false, counted := true })

/-- ATOM (09 R202). -/
def execAtom (g : Guard) (f : Fields) (s : State) : Out State :=
  runFull 0x22 0 g f s fun c =>
    if 63 ≤ c.th.cntLd then .wait
    else issueAtomic s c f false true (c.atomicData f f.b) 0 (awaitAtomic c f s.uid)

/-- ATOMC (09 R202): D holds the swap value, B the compare value. -/
def execAtomc (g : Guard) (f : Fields) (s : State) : Out State :=
  runFull 0x22 1 g f s fun c =>
    if 63 ≤ c.th.cntLd then .wait
    else issueAtomic s c f true true (c.atomicData f f.d) (c.atomicData f f.b) (awaitAtomic c f s.uid)

/-- RED (09 R202). -/
def execRed (g : Guard) (f : Fields) (s : State) : Out State :=
  runFull 0x22 2 g f s fun c =>
    if 63 ≤ c.th.cntSt then .wait
    else
      issueAtomic s c f false false (c.atomicData f f.d) 0 fun t =>
        t.modThread c.r fun th => { th with cntSt := th.cntSt + 1 }

/-- The thread has returning atomics that are not performed. -/
def atomicsOut (s : State) (r : TRef) : Bool :=
  s.queue.any fun e => e.who == r &&
    (match e.what with
      | .rmw _ _ _ _ _ _ ret => ret
      | _ => false)

/-- A fence's release side in the store queue: the thread's later entries wait for all before it (08 R176). -/
def State.markFence (s : State) (c : Cx) : State :=
  if s.queued c.t.core then
    s.enqueue { uid := s.uid, core := c.t.core, who := c.r, va := 0, what := .fence }
  else s

/-- FENCE (09 R203, 08 R176, R177). An sc fence of cluster scope or wider waits until the writes that its core has queued
before it are performed, which puts the sc fences in one order. -/
def execFence (g : Guard) (f : Fields) (s : State) : Out State :=
  runFull 0x22 3 g f s fun c =>
    let ord := f.imm.toNat % 4
    let scope := bitField f.imm.toNat 2 3
    let acquire := ord != 1
    let release := ord != 0
    if acquire && atomicsOut s c.r then .wait
    else
      let t := if release && wideScope scope then s.markFence c else s
      let u := if ord = 3 then t.leaveQueue c.t.core else t
      let done : Eff := .next (if acquire && wideScope scope then u.dropL1 c.t.core else u)
      let done : Eff := if release then linkStop s c done else done
      if ord = 3 ∧ wideScope scope then afterQueue s c done else done

/-- WAIT (09 R204): the four counts are fields under 02 R46, LD in D, ST in A, AS in B and MX in C. Engine operations
that a count of 0 covers happen before what follows, an acquire edge (08 R182, R170). -/
def execWait (g : Guard) (f : Fields) (s : State) : Out State :=
  runFull 0x22 4 g f s fun c =>
    if c.th.cntLd ≤ f.d.toNat ∧ c.th.cntSt ≤ f.a.toNat ∧ c.th.cntAs ≤ f.b.toNat ∧ c.th.cntMx ≤ f.c.toNat then
      let t := if f.b = 0 ∨ f.c = 0 then s.dropL1 c.t.core else s
      if f.a = 0 then linkStop s c (.next t) else .next t
    else .wait

end Sys2Proof.Machine
end

