-- ==== Sys2Proof/Machine/Copy.lean ====
section
/-! DEFINITION. Copy commands and streams, OP 0x38 (11 R230-R236, R245-R249): issue, and the events by which the copy
engine starts a command, lands its granules and completes it. -/

namespace Sys2Proof.Machine

/-! ### Issue -/

/-- A copy command queued: counted on AS (11 R230). -/
def State.queueCopy (s : State) (c : Cx) (x : CopyCmd) : State :=
  let cmd : CopyCmd := { x with uid := s.uid, who := c.r, issue := c.th.issues, mark := s.uid, priv := c.th.priv }
  { s.fresh with copies := s.copies ++ [cmd] }.modThread c.r Thread.issueAs

/-- A command with nothing in it. -/
def blankCopy : CopyCmd := ⟨0, ⟨0, 0⟩, 0, [], false, [], false, false, false, 0, 0, 0, 0, false⟩

/-- The extents of a destination or source range: a team-relative range or a VA range (11 R232). -/
def copyRange (s : State) (c : Cx) (acc : Acc) (rel : Bool) (a : Word) (len : Nat) : Chk (List Extent) :=
  if rel then partitionRun c a len else translateRange s c acc a len

/-- The checks of CPY and its plane, in the order of 11 R232: partitions first, then pages. -/
def copyPlane (s : State) (c : Cx) (bar : Option Nat) (spd sps : Bool) (dst src len : Word) : Chk CopyPlane :=
  let n := len.toNat
  if n = 0 ∨ 65536 < n ∨ n % 16 ≠ 0 then stopTrap cAlign 0 0 4
  else if dst.toNat % 16 ≠ 0 then stopTrap cAlign 0 dst 4
  else if src.toNat % 16 ≠ 0 then stopTrap cAlign 0 src 4
  else
    match (if spd then partitionRun c dst n else .ok []) with
    | .error e => .error e
    | .ok _ =>
      match (if sps then partitionRun c src n else .ok []) with
      | .error e => .error e
      | .ok _ =>
        match copyRange s c .cpyDst spd dst n with
        | .error e => .error e
        | .ok ds =>
          match copyRange s c .cpySrc sps src n with
          | .error e => .error e
          | .ok ss => .ok { bar := bar, src := ss, dst := ds, len := n }

/-- MOD of the copies: SPD, SPS and NB (11 R231). -/
def copySpd (f : Fields) : Bool := f.isX
def copySps (f : Fields) : Bool := f.isN
def copyNb (f : Fields) : Bool := f.opt

/-- CPY with its operand values (11 R232): also as it is re-issued at restore. -/
def copyCommand (s : State) (c : Cx) (b : Nat) (spd sps nb : Bool) (words : List Word) : Chk CopyCmd :=
  match copyPlane s c (if nb then none else some b) spd sps (words.getD 0 0) (words.getD 1 0) (words.getD 2 0) with
  | .error e => .error e
  | .ok p =>
    .ok { blankCopy with kind := 1, planes := [p], words := words, spd := spd, sps := sps, nb := nb, bar := b }

/-- A checked command queued. -/
def issueCopy (s : State) (c : Cx) (x : Chk CopyCmd) : Eff :=
  if 63 ≤ c.th.cntAs then .wait else Eff.ofChk x fun cmd => .next (s.queueCopy c cmd)

/-- CPY (11 R232). -/
def execCpy (g : Guard) (f : Fields) (s : State) : Out State :=
  runFull 0x38 0 g f s fun c =>
    issueCopy s c (copyCommand s c f.d.toNat (copySpd f) (copySps f) (copyNb f)
      [c.x f.a.toNat, c.x f.b.toNat, c.x f.c.toNat])

/-- The fields of CPYP's control value (11 R235). -/
def planeDstr (w : Nat) : Nat := bitField w 52 12
def planeNpm (w : Nat) : Nat := bitField w 34 3
def planeJ0 (w : Nat) : Nat := bitField w 29 5
def planeNb (w : Nat) : Nat := bitField w 16 13
def planeB0 (w : Nat) : Nat := bitField w 0 16

/-- The pages of a source plane, each of stride TQ, else PLANE 0x02 (11 R235). -/
def planePieces (s : State) (c : Cx) (stride : Nat) : List (Nat × Nat) → Chk (List Extent)
  | [] => .ok []
  | (a, n) :: ps =>
    match translate s c .cpypSrc (BitVec.ofNat 64 a) with
    | .error e => .error e
    | .ok x =>
      if x.tq ≠ stride then stopTrap cPlane 2 (BitVec.ofNat 64 a) Acc.cpypSrc.ak
      else
        match planePieces s c stride ps with
        | .error e => .error e
        | .ok l => .ok (⟨x.loc, n⟩ :: l)

/-- The ranges of several planes, in order. -/
def eachRange (k : Nat → Chk (List Extent)) : List Nat → Chk (List (List Extent))
  | [] => .ok []
  | i :: is =>
    match k i with
    | .error e => .error e
    | .ok x =>
      match eachRange k is with
      | .error e => .error e
      | .ok xs => .ok (x :: xs)

/-- The checks of CPYP before translation, in the order of 11 R235. -/
def planeCopyChecks (c : Cx) (b : Nat) (p : PlaneSet) (dst w : Word) : Chk Unit :=
  let n := w.toNat
  if p.npl + 1 < planeJ0 n + planeNpm n then stopTrap cPlane 3
  else if p.stride * 64 < planeB0 n + planeNb n then stopTrap cPlane 6
  else if bitField n 37 15 ≠ 0 ∨ planeNb n < 8 ∨ 4096 < planeNb n ∨ planeNb n % 8 ≠ 0 ∨ planeB0 n % 8 ≠ 0 ∨
      planeDstr n = 0 ∨ planeDstr n * 16 < planeNb n * 2 then stopTrap cPlane 8
  else if c.t.declared.bars ≤ b + planeNpm n then stopTrap cRegRange 0
  else if dst.toNat % 16 ≠ 0 then stopTrap cAlign 0 dst 4
  else .ok ()

/-- CPYP with its operand values (11 R235, R236). -/
def planeCopyCommand (s : State) (c : Cx) (b : Nat) (spd : Bool) (words : List Word) : Chk CopyCmd :=
  let dst := words.getD 2 0
  let w := words.getD 3 0
  let n := w.toNat
  match planeSet (words.getD 0 0) (words.getD 1 0) with
  | .error e => .error e
  | .ok p =>
    match planeCopyChecks c b p dst w with
    | .error e => .error e
    | .ok _ =>
      let ks := List.range (planeNpm n + 1)
      let len := planeNb n * 2
      match eachRange (fun k => copyRange s c .cpypDst spd (dst + BitVec.ofNat 64 (k * planeDstr n * 16)) len) ks with
      | .error e => .error e
      | .ok ds =>
        let src (k : Nat) : Nat := (p.address (planeJ0 n + k) (planeB0 n)).toNat
        match eachRange (fun k => planePieces s c p.stride (pagePieces (len / 4096 + 2) (src k) len)) ks with
        | .error e => .error e
        | .ok ss =>
          .ok { blankCopy with
            kind := 2
            planes := (indexed 0 (ss.zip ds)).map fun x =>
              { bar := some (b + x.1), src := x.2.1, dst := x.2.2, len := len }
            words := words
            spd := spd
            bar := b }

/-- CPYP (11 R235). -/
def execCpyp (g : Guard) (f : Fields) (s : State) : Out State :=
  runFull 0x38 1 g f s fun c =>
    issueCopy s c (planeCopyCommand s c f.d.toNat (copySpd f)
      [c.x f.a.toNat, c.x (f.a.toNat + 1), c.x f.b.toNat, c.x f.c.toNat])

/-! ### Streams -/

/-- A stream register replaced. -/
def State.setStrm (s : State) (team q : Nat) (k : StreamReg) : State :=
  s.modTeam team fun t => { t with strms := t.strms.set q k }

/-- QCFG (11 R246). Its faults are tied to no access, so that AK is 0, of PERM 0x05 too (DEDUCED, log 110: 15 R320 lists
no access kind for QCFG). -/
def execQcfg (g : Guard) (f : Fields) (s : State) : Out State :=
  runFull 0x38 2 g f s fun c =>
    let q := f.d.toNat
    let w := c.x f.a.toNat
    let n := w.toNat
    let old := c.t.strm q
    let new : StreamReg := { valid := true, desc := w }
    if w = 0 then .next (s.setStrm c.r.team q { old with valid := false })
    else if bitField n 56 8 ≠ 0 ∨ bitAt n 51 ∨ bitField n 32 16 = 0 ∨ 4096 < bitField n 32 16 then
      .trap { cause := cBarBusy, sub := 8 }
    else if c.t.declared.bars ≤ new.barOf (new.slots - 1) then .trap { cause := cRegRange, sub := 0 }
    else if new.offset 0 % 16 ≠ 0 then .trap { cause := cAlign, sub := 0, va := BitVec.ofNat 64 (new.offset 0) }
    else
      match partitionRun c (BitVec.ofNat 64 (new.offset 0)) (new.slots * new.size) with
      | .error _ => .trap { cause := cPerm, sub := 5, va := BitVec.ofNat 64 (new.offset 0) }
      | .ok _ =>
        if old.valid && old.f != old.r then .trap { cause := cBarBusy, sub := 5 }
        else .next (s.setStrm c.r.team q new)

/-- The counts of a stream compared modulo 16 (11 R245). -/
def mod16 (a b : Nat) : Nat := (a + 16 - b) % 16

/-- The copy of a QFILL into a slot (11 R247): also as it is re-issued at restore. -/
def fillCommand (s : State) (c : Cx) (q slot : Nat) (words : List Word) : Chk CopyCmd :=
  let k := c.t.strm q
  match copyPlane s c (some (k.barOf slot)) true false (BitVec.ofNat 64 (k.offset slot)) (words.getD 0 0) (words.getD 1 0) with
  | .error e => .error e
  | .ok p =>
    .ok { blankCopy with kind := 3, planes := [p], words := words, spd := true, bar := k.barOf slot, strm := q }

/-- QFILL (11 R247), its causes in the order of 15 R317; SIZE limits the length on a valid stream only (log 92). -/
def execQfill (g : Guard) (f : Fields) (s : State) : Out State :=
  runFull 0x38 3 g f s fun c =>
    let q := f.d.toNat
    let k := c.t.strm q
    let src := c.x f.a.toNat
    let len := c.x f.b.toNat
    let slot := k.f % k.slots
    if 63 ≤ c.th.cntAs then .wait
    else if len.toNat < 16 ∨ (k.valid = true ∧ k.size < len.toNat) ∨ len.toNat % 16 ≠ 0 then
      .trap { cause := cAlign, sub := 0, ak := 4 }
    else if src.toNat % 16 ≠ 0 then .trap { cause := cAlign, sub := 0, va := src, ak := 4 }
    else if !k.valid then
      Eff.ofChk (translateRange s c .cpySrc src (min len.toNat 65536)) fun _ => .trap { cause := cBarBusy, sub := 6 }
    else if k.slots ≤ mod16 k.f k.r then .wait
    else
      Eff.ofChk (fillCommand s c q slot [src, len, BitVec.ofNat 64 slot]) fun cmd =>
        if barBusy s c.r.team (k.barOf slot) then .trap { cause := cBarBusy, sub := 1 }
        else
          let t := s.barEvent c.r.team (k.barOf slot) fun _ => BarReg.init 0 len.toNat
          .next ((t.setStrm c.r.team q { k with f := (k.f + 1) % 16 }).queueCopy c cmd)

/-- QPOP (11 R248): the claim, then the wait for the slot's barrier. -/
def execQpop (g : Guard) (f : Fields) (s : State) : Out State :=
  runFull 0x38 4 g f s fun c =>
    let q := f.d.toNat
    let k := c.t.strm q
    let slot := k.p % k.slots
    let b := c.t.bar (k.barOf slot)
    if !k.valid then .trap { cause := cBarBusy, sub := 6 }
    else if k.p = k.f then .wait
    else
      let claimed : StreamReg := { k with p := (k.p + 1) % 16, claims := k.claims ++ [(slot, c.r.tid)] }
      let t := s.setStrm c.r.team q claimed
      if !b.valid then .trapAt t { cause := cBarBusy, sub := 6 }
      else if b.phase then .next (returnPop t c.r q slot f.a.toNat claimed)
      else .here (t.modThread c.r fun th => { th with wait := .qpop q slot f.a.toNat })

/-- QREL (11 R249): a release at team scope. -/
def execQrel (g : Guard) (f : Fields) (s : State) : Out State :=
  runFull 0x38 5 g f s fun c =>
    let q := f.d.toNat
    let k := c.t.strm q
    if !k.valid then .trap { cause := cBarBusy, sub := 6 }
    else if k.r = k.p then .trap { cause := cBarBusy, sub := 7 }
    else if k.claims.any fun x => x.1 == k.r % k.slots then .wait
    else linkStop s c (.next ((s.releaseTeam c).setStrm c.r.team q { k with r := (k.r + 1) % 16 }))

/-! ### The copy engine -/

/-- The stores that a command's reads follow have been performed (08 R180). -/
def marked (s : State) (core mark : Nat) : Bool := s.queue.any fun e => e.core == core && decide (e.uid < mark)

/-- A copy command by its number. -/
def State.copy? (s : State) (uid : Nat) : Option CopyCmd := s.copies.find? fun x => x.uid == uid

/-- A copy command changed. -/
def State.modCopy (s : State) (uid : Nat) (f : CopyCmd → CopyCmd) : State :=
  { s with copies := s.copies.map fun x => if x.uid = uid then f x else x }

/-- COPY_START (11 R230). -/
def startCopy (s : State) (uid : Nat) : Option State :=
  match s.copy? uid with
  | none => none
  | some x =>
    if x.started || marked s (s.coreOf x.who.team) x.mark then none
    else some (s.modCopy uid fun y => { y with started := true })

/-- The VA of a destination byte of a command, for ECC 0x03 of a dropped write (18 R380). -/
def CopyCmd.destination (x : CopyCmd) (plane off : Nat) : Word :=
  if x.kind = 2 then x.words.getD 2 0 + BitVec.ofNat 64 (plane * planeDstr (x.words.getD 3 0).toNat * 16 + off)
  else x.words.getD 0 0 + BitVec.ofNat 64 off

/-- A transfer of these source bytes is delivered with an error, by UALink or by Rykor (11 R234). -/
def transferFails (s : State) (src : List Nat) : Bool := linkReadFails s src || (s.readFail && src.any isOutside)

/-- The plane index that a copy's reads name: of CPYP the plane it copies (07 R160). -/
def CopyCmd.planeIndex (x : CopyCmd) (plane : Nat) : Nat :=
  if x.kind = 2 then planeJ0 (x.words.getD 3 0).toNat + plane else 0

/-- The bytes of a granule moved (11 R233, R234, 18 R380): a failed read and a poisoned source give a poisoned granule
and an error record; a write that its link drops is recorded, and reported to the thread later. -/
def moveGranule (s : State) (x : CopyCmd) (drops : Bool) (plane off : Nat) (src dst : List Nat) : State :=
  let die := coreStack (s.coreOf x.who.team)
  if dst.any isRemote && (drops || s.boot.ports.isEmpty) then
    (s.postRecord die 7 0 (BitVec.ofNat 64 (dst.headD 0)) 0).modThread x.who fun th =>
      { th with linkFail := some (th.linkFail.getD (x.destination plane off)) }
  else
    let failed := transferFails s src
    let f := s.found src
    let t := copyBytes (f.readL2 (x.planeIndex plane) src) x.priv src dst
    let u := if failed then { t.poisonAt (dst.filter fun l => !isOutside l) with readFail := false } else t
    if failed || anyPoison f src then u.postRecord die 2 (s.coreOf x.who.team) (BitVec.ofNat 64 (dst.headD 0)) 0 else u

/-- A plane of a copy that one Write of 64 bytes carries: 64 bytes to a 64-byte-aligned TT 6 address (18 R379). -/
def CopyPlane.oneWrite (p : CopyPlane) : Bool :=
  let a := (p.dst.map Extent.loc).headD 0
  p.len == 64 && isRemote a && a % 64 == 0

/-- A granule goes over UALink whole, aligned to its size, or not at all (18 R379). -/
def CopyPlane.carries (p : CopyPlane) (off len : Nat) : Bool :=
  let dst := ((extentLocs p.dst).drop off).take len
  let src := ((extentLocs p.src).drop off).take len
  let whole (l : List Nat) : Bool := l.all isRemote && [16, 32, 64, 128].contains len && l.headD 0 % len == 0
  (!dst.any isRemote || (whole dst && (!p.oneWrite || len == 64))) && (!src.any isRemote || whole src || p.oneWrite)

/-- The bytes of the granules that the device's own agents land. -/
def CopyPlane.grain (p : CopyPlane) : Nat := if p.oneWrite then 64 else 16

/-- GRANULE_LANDING (11 R233, R238): 16 to 128 bytes of a started command are moved and arrive on its register. `drops`
when the link drops their write. -/
def landGranuleWith (drops : Bool) (s : State) (uid plane off len : Nat) : Option State :=
  match s.copy? uid with
  | none => none
  | some x =>
    match x.planes[plane]? with
    | none => none
    | some p =>
      let bits := (2 ^ (len / 16) - 1) * 2 ^ (off / 16)
      let src := ((extentLocs p.src).drop off).take len
      let dst := ((extentLocs p.dst).drop off).take len
      if !x.started ∨ len < 16 ∨ 128 < len ∨ len % 16 ≠ 0 ∨ off % 16 ≠ 0 ∨ p.len < off + len ∨ p.landed &&& bits ≠ 0 ∨
          !p.carries off len ∨ sleeping s (src ++ dst) ∨ bringsPoison s src dst ∨
          (transferFails s src ∧ poisonWaits s dst) then none
      else
        let t := moveGranule s x drops plane off src dst
        let u := t.modCopy uid fun y => { y with planes := y.planes.set plane { p with landed := p.landed ||| bits } }
        some (match p.bar with
          | some b => u.land x.who.team b len
          | none => u)

def landGranule (s : State) (uid plane off len : Nat) : Option State := landGranuleWith false s uid plane off len

/-- The first granule of a command's remote destination that has not landed: plane, offset and length. -/
def CopyCmd.firstRemote (x : CopyCmd) : Option (Nat × Nat × Nat) :=
  (indexed 0 x.planes).findSome? fun y =>
    (firstFrom (fun i => !bitAt y.2.landed i && (((extentLocs y.2.dst).drop (16 * i)).take 16).any isRemote)
      (y.2.len / 16) 0).map fun i => (y.1, 16 * i, y.2.grain)

/-- COPY_COMPLETE (11 R230): every byte has landed, and the AS count drops. -/
def completeCopy (s : State) (uid : Nat) : Option State :=
  match s.copy? uid with
  | none => none
  | some x =>
    if x.planes.all CopyPlane.complete then
      some ({ s with copies := s.copies.filter fun y => !(y.uid == uid) }.modThread x.who Thread.doneAs)
    else none

end Sys2Proof.Machine
end

