-- ==== Sys2Proof/Machine/Attention.lean ====
section
/-! DEFINITION. ATTN and ATTNT (17 R360-R368): issue, the length gate, and the scan with its screening and softmax. -/

namespace Sys2Proof.Machine

/-! ### Issue -/

/-- KV 0x01 to 0x03 of a query word (17 R360). -/
def queryChecks (s : State) (c : Cx) (w : Nat) (bar : Option Nat) : Chk SeqRec :=
  match openSeq s c (kvSeq w) with
  | .error e => .error e
  | .ok r =>
    if r.nl ≤ kvLayer w ∨ r.nh ≤ kvHead w then stopTrap cKv 2
    else if bitField w 32 2 ≠ 0 ∨ bar.any (fun b => !(c.t.bar b).valid) then stopTrap cKv 3
    else .ok r

/-- An attention command with its operand values, checked (17 R360): also as it is re-issued at restore. -/
def attnCommand (s : State) (c : Cx) (tree : Bool) (bar : Option Nat) (query rec : Word) : Chk AttnCmd :=
  if rec.toNat % 64 ≠ 0 then stopTrap cAlign 0 rec 4
  else
    match translateRange s c .engineBoth rec 64 with
    | .error e => .error e
    | .ok ext =>
      match queryChecks s c query.toNat bar with
      | .error e => .error e
      | .ok r => .ok ⟨s.uid, c.r, tree, bar, query, rec, ext, r.hd, none, false, c.th.issues, s.uid, c.th.priv, false⟩

/-- An attention command accepted, counted on AS. -/
def State.queueAttn (s : State) (c : Cx) (x : AttnCmd) : State :=
  { s.fresh with attns := s.attns ++ [{ x with issue := c.th.issues }] }.modThread c.r Thread.issueAs

/-- ATTN and ATTNT. -/
def issueAttn (s : State) (c : Cx) (f : Fields) (tree : Bool) : Eff :=
  if 63 ≤ c.th.cntAs then .wait
  else
    Eff.ofChk (attnCommand s c tree (if f.opt then none else some f.d.toNat) (c.x f.a.toNat) (c.x f.b.toNat)) fun x =>
      .next (s.queueAttn c x)

/-- ATTN (17 R360). -/
def execAttn (g : Guard) (f : Fields) (s : State) : Out State := runFull 0x48 1 g f s fun c => issueAttn s c f false
/-- ATTNT (17 R360). -/
def execAttnt (g : Guard) (f : Fields) (s : State) : Out State := runFull 0x48 2 g f s fun c => issueAttn s c f true

/-! ### The gate -/

def State.attn? (s : State) (uid : Nat) : Option AttnCmd := s.attns.find? fun x => x.uid == uid

/-- The chain that a command queries. -/
def AttnCmd.chain (x : AttnCmd) (r : SeqRec) : Chain := r.chain (kvLayer x.query.toNat) (kvHead x.query.toNat)

/-- The pages of a chain that hold a position from BASE to L: those that a scan reads (17 R362). -/
def Chain.window (s : State) (k : Chain) (pos : Nat) : List Nat :=
  k.pages.filter fun p => decide (pagePbase s p < pos) && decide (k.base < pagePbase s p + 64)

/-- What the passage gives a command at the gate, from the moment at which LEN has reached L (17 R362): BASE and the pages. -/
def AttnCmd.passage (s : State) (x : AttnCmd) : Option (Nat × List Nat) :=
  match s.seq? (kvSeq x.query.toNat) with
  | none => none
  | some r =>
    let k := x.chain r
    if x.gate.isSome ∨ x.gone ∨ k.len < kvPos x.query.toNat then none
    else some (k.base, k.window s (kvPos x.query.toNat))

/-- A command at the gate that has not started, and that nothing lets start as the chains stand. -/
def AttnCmd.shut (s : State) (x : AttnCmd) : Bool := x.gate.isNone && !x.gone && (x.passage s).isNone

/-- A command after the passage that is due. -/
def AttnCmd.passed (s : State) (x : AttnCmd) : AttnCmd :=
  match x.passage s with
  | some g => { x with gate := some g }
  | none => x

/-- GATE_PASSAGE (17 R362): LEN has reached L. -/
def passGate (s : State) (uid : Nat) : Option State :=
  match s.attn? uid with
  | none => none
  | some x =>
    (x.passage s).map fun g =>
      { s with attns := s.attns.map fun y => if y.uid = uid then { y with gate := some g } else y }

/-- The passages of a sequence that are due come before what changes its chains in the record order (17 R362, R363). -/
def passGates (s : State) (num : Nat) : State :=
  { s with attns := s.attns.map fun y => if kvSeq y.query.toNat = num then y.passed s else y }

/-! ### The scan -/

/-- The attention record (17 R361). -/
structure AttnRec where
  qva : Word
  ova : Word
  scale : W32
  rows : Nat
  screen : Bool
  sPlanes : Nat
  entryq : Nat
  exitq : Nat
  bad : Bool
deriving DecidableEq, Repr

def attnRec (bs : List Byte) : AttnRec :=
  let field (off n : Nat) : Nat := leNat ((bs.drop off).take n)
  let scale : W32 := BitVec.ofNat 32 (field 0x10 4)
  let ctrl := field 0x14 4
  let badScale := isNan .f32 scale || isInf .f32 scale || fpSign .f32 scale || fpMag .f32 scale == 0
  { qva := BitVec.ofNat 64 (field 0 8), ova := BitVec.ofNat 64 (field 8 8), scale := scale, rows := ctrl % 16 + 1,
    screen := bitAt ctrl 4, sPlanes := bitField ctrl 8 5, entryq := field 0x18 4, exitq := field 0x1C 4,
    bad := badScale || bitField ctrl 5 3 != 0 || bitField ctrl 13 19 != 0 || decide (16 < bitField ctrl 8 5) ||
      field 0x24 28 != 0 || field 0 8 % 16 != 0 || field 8 8 % 16 != 0 }

/-- A product of exact values in which zero times an infinity is a NaN, as F32 arithmetic has it (03 R60). -/
def Elem.times (x y : Elem) : Elem :=
  match x, y with
  | .inf _, _ => if y.isZero then .nan else Elem.prod x y
  | _, .inf _ => if x.isZero then .nan else Elem.prod x y
  | .nan, _ => .nan
  | _, .nan => .nan
  | _, _ => Elem.prod x y

/-- A key of the scan: its position, its page, its blocks with NPL planes. -/
structure Key where
  pos : Nat
  page : Nat
  ks : List Block
  vs : List Block
deriving DecidableEq, Repr

/-- The keys of the page at its place in the chain, from BASE to L, visible to the query (17 R362, R364). -/
def pageKeys (s : State) (x : AttnCmd) (r : AttnRec) (npl base pn : Nat) : List Key :=
  let pb := pagePbase s pn
  (List.range 64).filterMap fun i =>
    let p := pb + i
    let inside := decide (base ≤ p) && decide (p < kvPos x.query.toNat)
    let seen := !x.tree || (decide (pageNat s pn (0x80 + 8 * i) 4 ≤ r.entryq) && decide (r.exitq ≤ pageNat s pn (0x84 + 8 * i) 4))
    if inside && seen then
      let blocks (part : Nat) : List Block := (List.range (x.hd / 16)).map fun b => pageBlock s pn part i b npl
      some ⟨p, pn, blocks 0, blocks 1⟩
    else none

/-- An element of a list of blocks read with some planes. -/
def blocksElem (bs : List Block) (i planes : Nat) : W32 := pb16Read (bs.getD (i / 16) ⟨0, 0, []⟩) (i % 16) planes false

/-- The exact sum of query times key (17 R365). -/
def dotKey (q : List W32) (ks : List Block) (planes : Nat) : Elem :=
  Elem.sum ((indexed 0 q).map fun iv => Elem.times (.ofFp .f32 iv.2) (.ofFp .f32 (blocksElem ks iv.1 planes)))

/-- The score of a key (17 R365). -/
def scoreOf (scale : W32) (q : List W32) (npl : Nat) (k : Key) : W32 :=
  (Elem.times (.ofFp .f32 scale) (dotKey q k.ks npl)).round32 .rn

/-- delta of 17 R366. -/
def deltaKey (q : List W32) (ks : List Block) (t npl : Nat) : Elem :=
  if t = npl then .zero
  else
    Elem.sum ((indexed 0 q).map fun iv =>
      let b := ks.getD (iv.1 / 16) ⟨0, 0, []⟩
      let step : Elem := .fin 1 ((b.exp : Int) - 126 - b.mu (iv.1 % 16 / 2) - t)
      Elem.times (.ofFp .f32 (iv.2 &&& 0x7FFFFFFF#32)) step)

/-- The bounds of a key at `t` planes, upper then lower (17 R366). -/
def boundsOf (scale : W32) (q : List W32) (t npl : Nat) (k : Key) : Elem × Elem :=
  if k.ks.any fun b => b.exp == 255 then (.inf false, .inf true)
  else
    let sigma := dotKey q k.ks t
    let delta := deltaKey q k.ks t npl
    let up := (Elem.times (.ofFp .f32 scale) (Elem.add sigma delta)).round32 .ru
    let down := (Elem.times (.ofFp .f32 scale) (Elem.add sigma (Elem.prod delta (.fin (-1) 0)))).round32 .rd
    if isNan .f32 up || isNan .f32 down then (.inf false, .inf true) else (.ofFp .f32 up, .ofFp .f32 down)

/-- The keys that screening keeps (17 R366). -/
def screened (scale : W32) (q : List W32) (t npl : Nat) (keys : List Key) : List Key :=
  let bounds := keys.map fun k => (k, boundsOf scale q t npl k)
  let lmax := bounds.foldl (fun m b => Elem.pickMax m b.2.2) (.inf true)
  let limit := Elem.add lmax (Elem.prod (.ofFp .f32 0x41851592) (.fin (-1) 0))
  (bounds.filter fun b => !Elem.lt b.2.1 limit).map Prod.fst

/-- The running values of a softmax row (17 R367). -/
structure SoftRow where
  m : W32
  hi : W32
  lo : W32
  o : List W32
deriving DecidableEq, Repr

/-- The F32 steps of the scan: FTZ as 0, nearest-even, flags discarded. -/
def sAdd (a b : W32) : W32 := (fpAdd .f32 .rn false a b).1
def sSub (a b : W32) : W32 := (fpSub .f32 .rn false a b).1
def sMul (a b : W32) : W32 := (fpMul .f32 .rn false a b).1
def sExp (a : W32) : W32 := (specialFn .ex2 .f32 false a).1
def log2e : W32 := 0x3FB8AA3B

/-- One key of a softmax row. -/
def softKey (npl : Nat) (r : SoftRow) (k : Key × W32) : SoftRow :=
  let w := sExp (sMul (sSub k.2 r.m) log2e)
  let s := sAdd r.hi w
  let bv := sSub s r.hi
  let p := (convertFp .f32 .bf16 .rn false w).1 <<< 16
  { m := r.m, hi := s, lo := sAdd r.lo (sAdd (sSub r.hi (sSub s bv)) (sSub w bv)),
    o := (indexed 0 r.o).map fun iv => (fpFma .f32 .rn false p (blocksElem k.1.vs iv.1 npl) iv.2).1 }

/-- One page of a softmax row. -/
def softPage (npl : Nat) (r : SoftRow) (keys : List (Key × W32)) : SoftRow :=
  match keys with
  | [] => r
  | k :: ks =>
    let mp := ks.foldl (fun a x => (fpMinMax .f32 true a x.2).1) k.2
    let scaled :=
      if fpKey .f32 r.m < fpKey .f32 mp then
        let c := sExp (sMul (sSub r.m mp) log2e)
        { m := mp, hi := sMul r.hi c, lo := sMul r.lo c, o := r.o.map fun x => sMul x c : SoftRow }
      else r
    keys.foldl (softKey npl) scaled

/-- A row of the output: elements, maximum M and denominator D (17 R365, R367). -/
def softRow (scale : W32) (q : List W32) (npl hd : Nat) (pages : List (List Key)) : List W32 × W32 × W32 :=
  let nanRow : List W32 × W32 × W32 := (List.replicate hd 0x7FC00000, 0x7FC00000, 0x7FC00000)
  let scored := pages.map fun ks => (ks.map fun k => (k, scoreOf scale q npl k)).filter fun x => x.2 != 0xFF800000
  let badQ := q.any fun w => isNan .f32 w || w == 0x7F800000
  if badQ || scored.any fun ks => ks.any fun x => isNan .f32 x.2 || x.2 == 0x7F800000 then nanRow
  else if scored.all List.isEmpty then (List.replicate hd 0, 0xFF800000, 0)
  else
    let r := scored.foldl (softPage npl) ⟨0xFF800000, 0, 0, List.replicate hd 0⟩
    let d := sAdd r.hi r.lo
    (r.o.map fun x => canonNan (fpDiv .f32 .rn false x d).1, canonNan r.m, canonNan d)

/-- The output bytes of a command: rows, maxima, denominators (17 R361). -/
def attnOutput (s : State) (x : AttnCmd) (r : AttnRec) (q : List W32) (npl base : Nat) (pages : List Nat) : List Byte :=
  let keys := pages.map fun pn => pageKeys s x r npl base pn
  let t := min r.sPlanes npl
  let rows := (List.range r.rows).map fun i =>
    let qi := (q.drop (i * x.hd)).take x.hd
    let kept := if r.screen then screened r.scale qi t npl keys.flatten else keys.flatten
    softRow r.scale qi npl x.hd (keys.map fun ks => ks.filter (kept.contains ·))
  let le (w : W32) : List Byte := leBytes 4 w.toNat
  rows.flatMap (fun y => y.1.flatMap le) ++ rows.flatMap (fun y => le y.2.1) ++ rows.flatMap fun y => le y.2.2

/-- The bytes of a page that a scan reads: of each position from BASE to L the planes of its blocks, and for ATTNT its
DFS numbers (17 R361, R364). -/
def scanLocs (s : State) (x : AttnCmd) (npl base pn : Nat) : List Nat :=
  let pb := pagePbase s pn
  (List.range 64).flatMap fun i =>
    if base ≤ pb + i ∧ pb + i < kvPos x.query.toNat then
      (if x.tree then span (pageLoc pn (0x80 + 8 * i)) 8 else []) ++
      [0, 1].flatMap fun part => (List.range (npl + 2)).flatMap fun j =>
        span (pageLoc pn (planeOff part j i 0)) (2 * (x.hd / 16))
    else []

/-- A command over: its STATUS, with the output of one that ends OK; the pages it read that no chain holds return to the
pool (17 R363); its landing and its count (R360, R361). -/
def endAttn (s : State) (x : AttnCmd) (status : Nat) (out : List Host.Cell) : State :=
  let home := extentLocs x.recExt
  let t := (s.writeHome out).writeHome (((home.drop 0x20).take 4).zip (leBytes 4 status))
  let u : State := { t with attns := t.attns.filter fun y => !(y.uid == x.uid) }
  let pages := (x.gate.map Prod.snd).getD []
  let v := pages.foldl (fun y p => if pageRefs y p = 0 ∧ !scanReads y p then freePage y p else y) u
  let w := match x.bar with
    | some b => v.land x.who.team b 16
    | none => v
  w.modThread x.who Thread.doneAs

/-- Pages of a range for an engine command's thread; an error where a table entry or a page waits for an array in
retention, `none` when translation, permission or target fails (13 R283, 17 R361). DESIGN CHOICE (log 132): a poisoned or
uncorrectable table entry makes the translation fail. -/
def engineRange (s : State) (c : Cx) (priv : Bool) (acc : Acc) (va : Word) (len : Nat) :
    Except (Option Fault) (Option (List Nat)) :=
  match translatePieces s c.t.core c.la.troot priv acc (pagePieces (len / 4096 + 2) va.toNat len) with
  | .ok l => if sleeping s (extentLocs (l.map Prod.fst)) then .error none else .ok (some (extentLocs (l.map Prod.fst)))
  | .error (.trap _) => .ok none
  | .error (.fault f) => .error (some f)
  | .error .wait => .error none

/-- The scan of a command whose record is well formed (17 R361-R367); `none` while it waits for an array in retention. -/
def scanWith (s : State) (c : Cx) (x : AttnCmd) (r : AttnRec) : Option (Out State) :=
  let qlen := r.rows * x.hd * 4
  match engineRange s c x.priv .engineRead r.qva qlen, engineRange s c x.priv .engineWrite r.ova (qlen + 8 * r.rows) with
  | .error none, _ => none
  | .error (some f), _ => some (.fault f)
  | .ok _, .error none => none
  | .ok _, .error (some f) => some (.fault f)
  | .ok (some qs), .ok (some os) =>
    let run := x.gate.bind fun g => (s.seq? (kvSeq x.query.toNat)).map fun sq => (g, sq)
    let reads := qs ++ run.elim [] fun y => y.1.2.flatMap (scanLocs s x y.2.npl y.1.1)
    let t := (s.found reads).readL2 0 qs
    some (.next (if anyPoison t reads then endAttn t x 3 []
      else
        match run with
        | none => endAttn t x 4 []
        | some (g, sq) => endAttn t x 0 (os.zip (attnOutput t x r (wordsOf (homeBytes t x.priv 0 qs)) sq.npl g.1 g.2))))
  | _, _ => some (.next (endAttn s x 2 []))

/-- ATTENTION_SCAN (17 R361-R367): of a command past its gate, or of one whose sequence has closed before (GONE). A
poisoned record, or an error in the Eland die's own arrays, ends it with POISON before its record is judged (DESIGN
CHOICE, log 99). -/
def scanAttn (s : State) (uid : Nat) : Option (Out State) :=
  match s.attn? uid with
  | none => none
  | some x =>
    match s.viewOf x.who with
    | none => none
    | some c =>
      let home := extentLocs x.recExt
      if (x.gate.isNone ∧ !x.gone) ∨ marked s c.t.core x.mark ∨ sleeping s home then none
      else
        let t := (s.found home).readL2 0 home
        let r := attnRec (homeBytes t x.priv 0 home)
        if x.flaw || anyPoison t home then some (.next (endAttn t x 3 []))
        else if r.bad then some (.next (endAttn t x 1 []))
        else scanWith t c x r

end Sys2Proof.Machine
end

