-- ==== Sys2Proof/Machine/HerdInstr.lean ====
section
/-! DEFINITION. The herd group, OP 0x28 (10 R220-R229): the issue of each instruction, with its HERD checks. -/

namespace Sys2Proof.Machine

/-- The control field of a herd instruction: PS, and XS when SX = 1 (10 R220). -/
def herdPs (f : Fields) : Nat := lowBits f.c 0 3
def herdXs (f : Fields) : Option Nat := if f.c.getLsbD 3 then some (lowBits f.c 4 6) else none

/-- The eight fields that vD to vD+15 hold (10 R211). -/
def Cx.tuple (c : Cx) (d : Nat) : List Word := (List.range 8).map fun i => c.pair (d + 2 * i)

/-- The region a handle names, with HERD 0x01 and 0x03 (10 R208, R209, R229). -/
def herdRegion (s : State) (c : Cx) (acc : Acc) (va : Word) : Chk Region :=
  match translate s c acc va with
  | .error e => .error e
  | .ok x =>
    match s.herd.region? x.tq with
    | none => stopTrap cHerd 1 va acc.ak
    | some r => if r.scope = 3 ∧ r.cdie ≠ coreDie c.t.core then stopTrap cHerd 3 va acc.ak else .ok r

/-- A request sent, and what the thread awaits of it (10 R221). -/
def State.sendFor (s : State) (r : TRef) (q : HReq) (p : HPend) : State :=
  ((s.fresh.sendHerd q).modThread r fun th => { th with herd := th.herd ++ [p] }).awaitX r p.xs.toList p.uid

/-- A request of a herd instruction to a home, which a region and a kind name, counted on ST for a deposit and on LD
otherwise (10 R221). -/
def sendRequest (s : State) (c : Cx) (f : Fields) (fn nregs : Nat) (op : HOp) (region : Nat) (fields : List Word)
    (pat : W32) (mark : Nat) : State :=
  let q : HReq := ⟨s.uid, .thread c.r, op, region, fields, pat, c.x f.a.toNat, c.t.core, mark⟩
  let p : HPend := ⟨s.uid, fn, f.d.toNat, nregs, herdPs f, herdXs f, region, fields.getD 0 0, c.th.pc⟩
  (s.sendFor c.r q p).modThread c.r fun th =>
    if fn ≤ 1 then { th with cntSt := th.cntSt + 1 } else { th with cntLd := th.cntLd + 1 }

/-- The deposits of a core's threads that have not completed (10 R218). -/
def depositsOut (s : State) (core : Nat) : Nat :=
  s.teams.foldl (fun n t =>
    if t.core = core then t.threads.foldl (fun m th => m + (th.herd.filter fun p => decide (p.fn ≤ 1)).length) n else n) 0

/-- HDEP and HDEPC (10 R222): a release at the region's scope. -/
def depositWith (s : State) (c : Cx) (f : Fields) (fn : Nat) (count : Word) : Eff :=
  if 63 ≤ c.th.cntSt ∨ 64 ≤ depositsOut s c.t.core then .wait
  else
    Eff.ofChk (herdRegion s c .herdW (c.x f.a.toNat)) fun r =>
      if 65536 ≤ count.toNat then .trap { cause := cHerd, sub := 7, va := c.x f.a.toNat, ak := Acc.herdW.ak }
      else linkStop s c (.next (sendRequest s c f fn 0 (.dep count.toNat f.opt) r.num (c.tuple f.d.toNat) 0 s.uid))

/-- HDEP (10 R222). -/
def execHdep (g : Guard) (f : Fields) (s : State) : Out State :=
  runFull 0x28 0 g f s fun c => depositWith s c f 0 0

/-- HDEPC (10 R222). -/
def execHdepc (g : Guard) (f : Fields) (s : State) : Out State :=
  runFull 0x28 1 g f s fun c => depositWith s c f 1 (c.x f.b.toNat)

/-- HDEC (10 R224). -/
def execHdec (g : Guard) (f : Fields) (s : State) : Out State :=
  runFull 0x28 2 g f s fun c =>
    let va := c.x f.a.toNat
    let pat := c.x f.b.toNat
    if 63 ≤ c.th.cntLd then .wait
    else
      Eff.ofChk (herdRegion s c .herdRW va) fun r =>
        if patternBad pat then .trap { cause := cHerd, sub := 2, va := va, ak := Acc.herdRW.ak }
        else linkStop s c (.next (sendRequest s c f 2 0 .dec r.num (c.tuple f.d.toNat) (pat.setWidth 32) s.uid))

/-- The parked-request entries a team's threads hold (10 R217). -/
def parkedHeld (t : Team) : Nat :=
  t.threads.foldl (fun n th => n + (th.herd.filter fun p => p.fn == 3 || p.fn == 4).length) 0

/-- HCPY, HTAK, HCPYT and HTAKT (10 R223). -/
def matchWith (s : State) (c : Cx) (f : Fields) (fn : Nat) (acc : Acc) (op : HOp) (blocking : Bool) : Eff :=
  let va := c.x f.a.toNat
  let pat := c.x f.b.toNat
  let park := (declOf c.t.rdw).park
  if 63 ≤ c.th.cntLd then .wait
  else
    Eff.ofChk (herdRegion s c acc va) fun r =>
      if patternBad pat then .trap { cause := cHerd, sub := 2, va := va, ak := acc.ak }
      else if blocking && park == 0 then .trap { cause := cHerd, sub := 6, va := va, ak := acc.ak }
      else if blocking && decide (park ≤ parkedHeld c.t) then .wait
      else .next (sendRequest s c f fn (2 * patternCount (pat.setWidth 32)) op r.num (c.tuple f.d.toNat) (pat.setWidth 32) 0)

/-- HCPY (10 R223). -/
def execHcpy (g : Guard) (f : Fields) (s : State) : Out State :=
  runFull 0x28 3 g f s fun c => matchWith s c f 3 .herdR (.cpy false) true

/-- HTAK (10 R223). -/
def execHtak (g : Guard) (f : Fields) (s : State) : Out State :=
  runFull 0x28 4 g f s fun c => matchWith s c f 4 .herdRW (.tak false) true

/-- HCPYT (10 R223). -/
def execHcpyt (g : Guard) (f : Fields) (s : State) : Out State :=
  runFull 0x28 5 g f s fun c => matchWith s c f 5 .herdR (.cpy true) false

/-- HTAKT (10 R223). -/
def execHtakt (g : Guard) (f : Fields) (s : State) : Out State :=
  runFull 0x28 6 g f s fun c => matchWith s c f 6 .herdRW (.tak true) false

/-- A herd instruction's status written at once. -/
def State.putStatus (s : State) (c : Cx) (f : Fields) (code : Nat) : State :=
  let t := s.setP c.r (herdPs f) (code == 0)
  match herdXs f with
  | some n => t.setX c.r n (BitVec.ofNat 64 code)
  | none => t

/-- HCAN (10 R225), sent to the home of the request it withdraws: it does not wait for vD to vD+15. -/
def execHcan (g : Guard) (f : Fields) (s : State) : Out State :=
  runWord 0x28 7 0 false true g f s fun c =>
    match c.th.herd.find? fun p => (p.fn == 3 || p.fn == 4) && p.d == f.d.toNat with
    | none => .next (s.putStatus c f 6)
    | some p => if 63 ≤ c.th.cntLd then .wait else .next (sendRequest s c f 7 0 (.can p.uid) p.region [p.kind] 0 0)

/-- The ranges that firmware reserves (18 R395), as base and size. The parked-overflow area has a part for each of the
two compute dies (DESIGN CHOICE, log 90: 10 R217 says for each die, and the requests of the Eland die are not counted
against a die that places teams). -/
def reservedRanges (r : Reservation) : List (Nat × Nat) :=
  [(r.launchBase, r.launchSize * 65536), (r.faultBase, r.faultSize * 65536), (r.pageBase, r.pageSize * 65536),
    (r.poolBase, r.poolSize), (r.ovfBase, 2 * r.ovfSize)]

/-- Two ranges share a byte. -/
def rangesMeet (a n b m : Nat) : Bool := decide (a < b + m) && decide (b < a + n)

/-- HCRE's operand faults: HERD 0x04 (10 R226). -/
def regionBad (s : State) (backing desc : Nat) : Bool :=
  let size := bitField desc 24 16
  let scope := bitField desc 12 3
  bitField desc 40 24 != 0 || bitField desc 20 4 != 0 || bitField desc 16 2 != 0 ||
    (scope != 3 && bitField desc 18 2 != 0) || bitField backing 0 16 != 0 || bitField backing 52 12 != 0 ||
    size == 0 || !(scope == 3 || scope == 4 || scope == 5) || (s.herd.region? (bitField desc 0 12)).isSome ||
    decide (hbmSize < backing + size * 65536) ||
    (s.herd.regions.any fun r => rangesMeet backing (size * 65536) r.backing (r.size * 65536)) ||
    (s.hst.resv.any fun r => (reservedRanges r).any fun x => rangesMeet backing (size * 65536) x.1 x.2)

/-- HCRE (10 R226). -/
def execHcre (g : Guard) (f : Fields) (s : State) : Out State :=
  runFull 0x28 8 g f s fun c =>
    let backing := (c.x f.a.toNat).toNat
    let desc := (c.x f.b.toNat).toNat
    if regionBad s backing desc then .trap { cause := cHerd, sub := 4 }
    else
      let r : Region := ⟨bitField desc 0 12, bitAt desc 15, bitField desc 12 3, bitField desc 24 16, backing,
        bitField desc 18 2⟩
      .next { s with herd := { s.herd with regions := s.herd.regions ++ [r] } }

/-- HDEL (10 R226): the thread waits until every home has performed it. -/
def execHdel (g : Guard) (f : Fields) (s : State) : Out State :=
  runFull 0x28 9 g f s fun c =>
    let n := (c.x f.a.toNat).toNat
    if 4096 ≤ n ∨ (s.herd.region? n).isNone then .trap { cause := cHerd, sub := 4 }
    else .here (s.modThread c.r fun th => { th with wait := .hdel n })

end Sys2Proof.Machine
end

