-- ==== Sys2Proof/Machine/Queue.lean ====
section
/-! DEFINITION. The store queue of a core as it performs (08 R168, R169, R178, R179): STORE_PERFORM, ATOMIC_PERFORM,
LOAD_COMPLETE (09 R204) and X_REGISTER_WRITE_VISIBLE (05 R109). -/

namespace Sys2Proof.Machine

/-- A core's entries, oldest first. -/
def State.coreQueue (s : State) (core : Nat) : List QEntry := s.queue.filter fun e => e.core == core

/-- Two entries write a common location. -/
def QEntry.overlaps (x y : QEntry) : Bool := x.locs.any (y.locs.contains ·)

/-- An earlier entry of the core keeps a later one from being performed: a fence of its thread, the same location, or a
returning atomic of its thread (08 R167, R171, R176). -/
def QEntry.keeps (earlier later : QEntry) : Bool :=
  match earlier.what with
  | .fence => earlier.who == later.who
  | .rmw _ _ _ _ _ _ ret => earlier.overlaps later || (ret && earlier.who == later.who)
  | .write _ => earlier.overlaps later

/-- Entry `k` of a core can be performed now: nothing earlier keeps it, a release follows everything, and it has not
merged into another (08 R171, R179). -/
def canPerform (s : State) (core k : Nat) : Option QEntry :=
  match (s.coreQueue core)[k]? with
  | none => none
  | some e =>
    let earlier := (s.coreQueue core).take k
    if e.what = .fence ∨ e.host.isSome ∨ sleeping s e.locs then none
    else if e.rel && !earlier.isEmpty then none
    else if earlier.any fun x => x.keeps e then none
    else some e

/-- Fence marks that nothing precedes are over (08 R176). -/
def dropMarks : List QEntry → List Nat → List QEntry
  | [], _ => []
  | e :: es, cores =>
    if e.what = .fence ∧ !cores.contains e.core then dropMarks es cores
    else e :: dropMarks es (e.core :: cores)

/-- The entries merged into one (08 R179). -/
def mergedInto (s : State) (uid : Nat) : List QEntry := s.queue.filter fun x => x.host == some uid

/-- An entry leaves the queue performed, with those merged into it; of each one's core the earlier entries have left the
head (08 R168). -/
def State.dequeue (s : State) (e : QEntry) : State :=
  let gone := e :: mergedInto s e.uid
  let q := s.queue.filter fun x => !(x.uid == e.uid || x.host == some e.uid)
  { s with queue := dropMarks (q.map fun x =>
      if gone.any fun g => x.core == g.core && decide (x.uid < g.uid) then { x with left := true } else x) [] }

/-- Bytes of a core's write at their homes, its own L1 copies with them (08 R169, 07 R154). -/
def State.writeFrom (s : State) (core : Nat) (bytes : List Host.Cell) : State :=
  let t := s.writeHome bytes
  { t with l1 := updateL1 core bytes t.l1 }

/-- Bytes of a core's write that a link drops: those to a remote device go, with an error record; the others are written (18
R380). -/
def State.writeLocal (s : State) (core port : Nat) (bytes : List Host.Cell) : State :=
  let here := bytes.filter fun w => !isRemote w.1
  let far := bytes.filter fun w => isRemote w.1
  let t := if here.isEmpty then s else s.writeFrom core here
  t.postRecord (coreStack core) 7 port (BitVec.ofNat 64 ((far.map Prod.fst).headD 0)) 0

/-- The address of the first byte of a write that goes to a remote device. -/
def QEntry.remoteVa (e : QEntry) : Word :=
  let i := (e.locs.findIdx? isRemote).getD 0
  if e.planes.isEmpty then e.va + BitVec.ofNat 64 i else e.planes.getD (i / 2) e.va

/-- A write to a remote device is dropped by its link (18 R380): an error record, and the thread learns of it later. -/
def dropRemote (s : State) (e : QEntry) : State :=
  let bytes := match e.what with
    | .write bs => bs
    | _ => e.locs.map fun l => (l, 0)
  ((s.dequeue e).writeLocal e.core (s.boot.ports.headD 0) bytes).modThread e.who fun th =>
    { th.doneSt with linkFail := some (th.linkFail.getD e.remoteVa) }

/-- A write performed at its home (08 R169, 07 R154). -/
def performWrite (s : State) (e : QEntry) (bytes : List Host.Cell) : State :=
  ((s.dequeue e).writeFrom e.core bytes).modThread e.who Thread.doneSt

/-- STORE_PERFORM (08 R169). A write whose link is down is dropped (18 R380). DESIGN CHOICE (log 102): the planes of one
PST, separate accesses in 08 R166, are performed together. -/
def performStore (s : State) (core k : Nat) : Option State :=
  match canPerform s core k with
  | none => none
  | some e =>
    match e.what with
    | .write bytes =>
      if e.locs.any isRemote && s.boot.ports.isEmpty then some (dropRemote s e)
      else some (performWrite s e bytes)
    | _ => none

/-- The result of a pending atomic: its registers get the old value (09 R202). -/
def Pending.resolve (p : Pending) (uid : Nat) (old : Word) : Pending :=
  if p.uid = uid then
    { p with
      vregs := (indexed 0 p.vregs).map fun iv =>
        (iv.2.1, if iv.1 = 0 then old.setWidth 32 else (old >>> 32).setWidth 32, {})
      xregs := p.xregs.map fun x => (x.1, old)
      ready := true }
  else p

/-- The value a merged group brings to the location (08 R179): the host's operand and those merged into it. -/
def mergedValue (op ty : Nat) (v : Word) : List QEntry → Word
  | [] => v
  | e :: es =>
    match e.what with
    | .rmw _ _ _ w _ _ _ => mergedValue op ty (newValue op ty v w) es
    | _ => mergedValue op ty v es

/-- The bytes written by an atomic, or none (09 R202): ATOMC writes only where the compare holds, load never. -/
def atomicWrites (op ty : Nat) (old v cmp : Word) (cas : Bool) : Option Word :=
  if cas then (if old = (if ty = 1 then cmp else cmp &&& 0xFFFFFFFF#64) then some v else none)
  else if op = 12 then none
  else some (newValue op ty old v)

/-- A remote home performs the atomic: what it returns is free, and the request leaves (18 R379). -/
def remoteAtomic (s : State) (loc size : Nat) (v : Word) (kind : OutKind) : State :=
  { s with free := s.free + size, outbound := s.outbound ++ [{ loc := loc, bytes := leBytes size v.toNat, kind := kind }] }

/-- A reduction leaves the poison of the granules it reads (07 R162). -/
def State.keepDamage (s t : State) (locs : List Nat) : State :=
  { t with
    poison := if anyPoison s locs then s.poison else t.poison
    errors := if damaged s locs then s.errors else t.errors }

/-- An atomic or reduction takes effect at one point at its home (08 R178): the copies of its line in the L1 of its core,
and of the cores of those merged into it, are taken anew, so that no thread of them reads a co-earlier write later
(R167, R170). -/
def performRmw (s : State) (e : QEntry) (op ty loc : Nat) (v0 cmp : Word) (cas ret : Bool) : State :=
  let size := atomicSize ty
  let ghosts := mergedInto s e.uid
  let v := mergedValue op ty v0 ghosts
  let old := BitVec.ofNat 64 (leNat (homeBytes s false 0 (span loc size)))
  let t := s.dequeue e
  let u :=
    if isOutside loc then remoteAtomic t loc size v (.atomic op ty cmp cas ret)
    else
      match atomicWrites op ty old v cmp cas with
      | none => t
      | some w =>
        s.keepDamage (t.writeHome (cellsAt loc (leBytes size w.toNat))) (span loc size)
  let u := { u with
    l1 := (e :: ghosts).foldl (fun l g => refreshL1 u.mem g.core (span loc size) l) u.l1
    l2 := u.l2.touch 0 (span loc size) }
  let u := if e.wide then u.dropL1 e.core else u
  if ret then u.modThread e.who fun th => { th with pend := th.pend.map fun p => p.resolve e.uid old }
  else (e :: ghosts).foldl (fun x g => x.modThread g.who Thread.doneSt) u

/-- ATOMIC_PERFORM (08 R178). A reduction whose link is down is dropped (18 R380). -/
def performAtomic (s : State) (core k : Nat) : Option State :=
  match canPerform s core k with
  | none => none
  | some e =>
    match e.what with
    | .rmw op ty loc v cmp cas ret =>
      if isRemote loc && !ret && s.boot.ports.isEmpty then some (dropRemote s e)
      else some (performRmw s e op ty loc v cmp cas ret)
    | _ => none

/-- The place of an entry in its core's queue. -/
def queueIndex (s : State) (e : QEntry) : Nat :=
  ((s.coreQueue e.core).findIdx? fun x => x.uid == e.uid).getD 0

/-- Two reductions to one location by one operation merge (08 R179), each free to be performed now. -/
def mergeReds (s : State) (uid into : Nat) : Option State :=
  match s.queue.find? fun e => e.uid == uid, s.queue.find? fun e => e.uid == into with
  | some x, some y =>
    match x.what, y.what with
    | .rmw op ty loc _ _ false false, .rmw op' ty' loc' _ _ false false =>
      if uid ≠ into ∧ op = op' ∧ ty = ty' ∧ loc = loc' ∧ !isOutside loc ∧
          (canPerform s x.core (queueIndex s x)).isSome ∧ (canPerform s y.core (queueIndex s y)).isSome ∧
          (mergedInto s uid).isEmpty then
        some { s with queue := s.queue.map fun e => if e.uid = uid then { e with host := some into } else e }
      else none
    | _, _ => none
  | _, _ => none

/-- A load-class operation writes its registers (09 R204): values first fixed at its issue or its performance. It waits
for a register bank in retention (07 R163). -/
def completeLoad (s : State) (team tid uid : Nat) : Option State :=
  match (s.thread ⟨team, tid⟩).bind fun th => th.pend.find? fun p => p.uid == uid && p.ready with
  | none => none
  | some p =>
    if sleepingBanks s ((s.teams[team]?).elim 0 Team.core) (p.vregs.map Prod.fst) then none
    else
    let t := s.modThread ⟨team, tid⟩ fun th =>
      let u := { th.setVs p.vregs with pend := th.pend.filter fun q => !(q.uid == uid) }
      if p.counted then u.doneLd else u
    some ((p.xregs.foldl (fun u x => u.giveX ⟨team, tid⟩ uid x.2) t).rewait ⟨team, tid⟩)

/-- The oldest x write of a thread becomes visible to its team, once its value is known (05 R109 rules 4 and 5). DESIGN
CHOICE (log 111): where the oldest is the result of a parked copy or take, rule 5 keeps the thread's later x writes back
for as long as it is parked, though rule 4 bounds each. -/
def showX (s : State) (team tid : Nat) : Option State :=
  match (s.teams[team]?).bind fun t => t.xpend.find? fun w => w.tid == tid with
  | none => none
  | some w =>
    if w.of.isSome then none
    else some (s.modTeam team fun t => { t.putX w.reg w.val with xpend := t.xpend.erase w })

end Sys2Proof.Machine
end

