-- ==== Sys2Proof/Machine/Events.lean ====
section
/-! DEFINITION. The events of the store queue, of loads and x writes, of the matrix engines and of the herd, as
instructions of the table. An event that cannot happen leaves the state as it is, and none happens in a package that
holds after its trip limit (18 R387). -/

namespace Sys2Proof.Machine

/-- An event that may fault. -/
def eventOut (s : State) (o : Option (Out State)) : Out State := if s.boot.held then .next s else o.getD (.next s)

/-- An event. -/
def event (s : State) (o : Option State) : Out State := if s.boot.held then .next s else .next (o.getD s)

/-- STORE_PERFORM (08 R169). -/
def execStorePerform (core k : Nat) (s : State) : Out State := event s (performStore s core k)
/-- ATOMIC_PERFORM (08 R178). -/
def execAtomicPerform (core k : Nat) (s : State) : Out State := event s (performAtomic s core k)
/-- LOAD_COMPLETE (09 R204). -/
def execLoadComplete (team tid uid : Nat) (s : State) : Out State := event s (completeLoad s team tid uid)
/-- X_REGISTER_WRITE_VISIBLE (05 R109). -/
def execXRegisterWriteVisible (team tid : Nat) (s : State) : Out State := event s (showX s team tid)
/-- MXE_PASS_GRANT (12 R271). -/
def execMxePassGrant (cluster : Nat) (s : State) : Out State := event s (grantPass s cluster)
/-- MXE_MIGRATION (12 R272). -/
def execMxeMigration (uid engine : Nat) (s : State) : Out State := event s (migrateTile s uid engine)
/-- TILE_COMMAND_COMPLETE (12 R267). -/
def execTileCommandComplete (uid : Nat) (s : State) : Out State := event s (completeTile s uid)
/-- HERD_DEPOSIT_ARRIVAL (10 R218). -/
def execHerdDepositArrival (uid : Nat) (s : State) : Out State := event s (arriveDeposit s uid)
/-- HERD_MATCH_ARRIVAL (10 R218). -/
def execHerdMatchArrival (uid : Nat) (s : State) : Out State := event s (arriveMatch s uid)
/-- HERD_HDEC_ARRIVAL (10 R218). -/
def execHerdHdecArrival (uid : Nat) (s : State) : Out State := event s (arriveHdec s uid)
/-- HERD_HCAN_ARRIVAL (10 R225). -/
def execHerdHcanArrival (uid : Nat) (s : State) : Out State := event s (arriveHcan s uid)
/-- HERD_HDEL_PERFORM (10 R226). -/
def execHerdHdelPerform (region : Nat) (s : State) : Out State := event s (performHdel s region)
/-- DEPOSIT_ADMIT (10 R218). -/
def execDepositAdmit (region : Nat) (kind : Word) (s : State) : Out State := event s (admitDeposit s region kind)
/-- HERD_REQUEST_COMPLETE (10 R221). -/
def execHerdRequestComplete (uid : Nat) (s : State) : Out State := event s (completeHerd s uid)

end Sys2Proof.Machine
end

