-- ==== Sys2Proof/WellFormed.lean ====
section
/-! DEFINITION. Which instructions have a word: no check of 02 R48 fails, and the constructor is the one its opcode,
function and MOD name. TEPI in KV-append mode has no word of its own, since a register decides it (17 R357), and an
event of another agent is no word. -/

namespace Sys2Proof

/-- The instruction has a word that the decoder reads as it. -/
def WellFormed (i : Instr) : Bool :=
  match Machine.parts i with
  | .full op fn g f => (Machine.fullSub op fn 0 g f).isNone && decide (Machine.ofCode op fn g f = some i)
  | .ext g f _ => (Machine.fullSub 4 8 1 g f).isNone
  | .pair s0 s1 => (Machine.pairSub s0 s1).isNone
  | .event => false

end Sys2Proof
end

