-- ==== Sys2Proof/Decode.lean ====
section
/-! DEFINITION. The decoder, total on any bytes, and after it the encoder, both from the layouts of 02 R25-R34. -/

namespace Sys2Proof

/-- What decoding gives: an instruction and its length in bytes; the ILLEGAL sub-cause and slot of a word that is no
instruction (02 R48); or too few bytes. -/
inductive Decoded
  | instr (i : Instr) (len : Nat)
  | illegal (sub slot : Nat)
  | short
deriving DecidableEq, Repr

/-- A field of a word. -/
def wordField (w : Nat) (lo len : Nat) : Nat := Machine.bitField w lo len

/-- The guard of a full word (02 R26). -/
def guardOf (w : Nat) : Guard := ⟨BitVec.ofNat 3 (wordField w 49 3), Machine.bitAt w 48⟩

/-- The operand fields of a full word (02 R26). -/
def fieldsOf (w : Nat) : Fields :=
  ⟨BitVec.ofNat 10 (wordField w 38 10), BitVec.ofNat 10 (wordField w 28 10), BitVec.ofNat 10 (wordField w 18 10),
    BitVec.ofNat 10 (wordField w 8 10), BitVec.ofNat 3 (wordField w 5 3),
    Machine.bitAt w 4, Machine.bitAt w 3, Machine.bitAt w 2⟩

/-- A slot of a pair word, at bit `lo` (02 R34). -/
def slotOf (w lo : Nat) : Slot :=
  ⟨BitVec.ofNat 6 (wordField w (lo + 25) 6), BitVec.ofNat 10 (wordField w (lo + 15) 10),
    BitVec.ofNat 10 (wordField w (lo + 5) 10), Machine.bitAt w (lo + 4), Machine.bitAt w (lo + 3),
    BitVec.ofNat 3 (wordField w lo 3)⟩

/-- Decoding of one word with the word that follows it, which only LIMM takes (02 R25, R33). -/
def decodeWord (w : Nat) (next : Option Word) : Decoded :=
  if Machine.bitAt w 63 then
    if Machine.bitAt w 62 then .illegal 3 0
    else
      match Machine.pairSub (slotOf w 31) (slotOf w 0) with
      | some r => .illegal r.1 r.2
      | none => .instr (.pairWord (slotOf w 31) (slotOf w 0)) 8
  else
    match Machine.fullSub (wordField w 56 7) (wordField w 52 4) (wordField w 0 2) (guardOf w) (fieldsOf w) with
    | some sub => .illegal sub 0
    | none =>
      if wordField w 56 7 = 4 ∧ wordField w 52 4 = 8 then
        match next with
        | some x => .instr (.limm (guardOf w) (fieldsOf w) x) 16
        | none => .short
      else
        match Machine.ofCode (wordField w 56 7) (wordField w 52 4) (guardOf w) (fieldsOf w) with
        | some i => .instr i 8
        | none => .illegal 7 0

/-- The eight bytes at the head of a list, as a word (00 R4). -/
def headWord (bs : List Byte) : Option Nat := if bs.length < 8 then none else some (Machine.leNat (bs.take 8))

/-- Decoding of bytes as they lie in memory. -/
def decode (bs : List Byte) : Decoded :=
  match headWord bs with
  | none => .short
  | some w => decodeWord w ((headWord (bs.drop 8)).map (BitVec.ofNat 64))

/-- A full word from its parts (02 R26). -/
def packFull (op fn x : Nat) (g : Guard) (f : Fields) : Nat :=
  op * 2 ^ 56 + fn * 2 ^ 52 + g.gp.toNat * 2 ^ 49 + (if g.gn then 2 ^ 48 else 0) +
  f.d.toNat * 2 ^ 38 + f.a.toNat * 2 ^ 28 + f.b.toNat * 2 ^ 18 + f.c.toNat * 2 ^ 8 + f.mod.toNat * 2 ^ 5 +
  (if f.ha then 16 else 0) + (if f.hb then 8 else 0) + (if f.hc then 4 else 0) + x

/-- A slot from its parts (02 R34). -/
def packSlot (s : Slot) : Nat :=
  s.sop.toNat * 2 ^ 25 + s.d.toNat * 2 ^ 15 + s.a.toNat * 2 ^ 5 + (if s.hd then 16 else 0) +
  (if s.ha then 8 else 0) + s.g.toNat

/-- The words of an instruction; an event has none. -/
def encodeWords (i : Instr) : List Word :=
  match Machine.parts i with
  | .full op fn g f => [BitVec.ofNat 64 (packFull op fn 0 g f)]
  | .ext g f x => [BitVec.ofNat 64 (packFull 4 8 1 g f), x]
  | .pair s0 s1 => [BitVec.ofNat 64 (2 ^ 63 + packSlot s0 * 2 ^ 31 + packSlot s1)]
  | .event => []

/-- The bytes of an instruction, each word little-endian (00 R4). -/
def encode (i : Instr) : List Byte := (encodeWords i).flatMap fun w => Machine.leBytes 8 w.toNat

/-- The instruction the decoder reads from the bits `w`, the words above them zero. -/
def decodeTableWord (nbits w : Nat) : Option Instr :=
  match decode (Machine.leBytes 16 (w % 2 ^ nbits)) with
  | .instr i _ => some i
  | _ => none

end Sys2Proof
end

