-- ==== Sys2Proof/Machine/Fetch.lean ====
section
/-! DEFINITION. Fetching (02 R40-R45): the line that holds a word, its consistency, the target check of a taken
transfer, and the report of a word that is no instruction. -/

namespace Sys2Proof.Machine

/-- The 16 words of a line in memory. -/
def memLine (s : State) (pa : Nat) : List Word := (List.range 16).map fun i => BitVec.ofNat 64 (memNat s.mem (pa + 8 * i) 8)

/-- The core's instruction cache holds the line. -/
def lineCached (s : State) (core pa : Nat) : Bool := s.icache.any fun l => l.core == core && l.pa == pa

/-- Word `i` of a line is a start-marked full word with X = 01, which claims the word after it (02 R41). -/
def claims (hd : Nat) (ws : List Word) (i : Nat) : Bool :=
  bitAt hd i && decide (1 ≤ i) && !bitAt (ws.getD i 0).toNat 63 && bitField (ws.getD i 0).toNat 0 2 == 1

/-- The fetch-line ILLEGAL sub-cause of a line, if it is inconsistent (02 R41, R48). -/
def lineSub (ws : List Word) : Option Nat :=
  let hd := (ws.getD 0 0).toNat
  if bitAt hd 0 || bitAt hd 16 || bitField hd 32 32 != 0 then some 0xD
  else
    let bad (i : Nat) : Bool :=
      let isExt := decide (2 ≤ i) && claims hd ws (i - 1)
      (bitAt hd i == isExt) || (bitAt hd (16 + i) && !bitAt hd i)
    if (List.range 15).any (fun j => bad (j + 1)) || claims hd ws 15 then some 0xE else none

/-- The line that holds an address, translated as an instruction fetch (02 R44, 07 R143): the copy its core's instruction
cache holds, else the line at its home (02 R45), where neither holds an uncorrectable error (07 R161, R162). -/
def fetchLine (s : State) (c : Cx) (pc : Word) : Chk (List Word) :=
  match translate s c .fetch pc with
  | .error x => .error x
  | .ok x =>
    let pa := x.loc / 128 * 128
    match s.icache.find? fun l => l.core == c.t.core && l.pa == pa with
    | some l =>
      match l.flaw with
      | none => .ok l.words
      | some found => stopTrap cEcc (if found then 5 else 3) pc Acc.fetch.ak
    | none =>
      if sleeping s (span pa 128) then .error .wait
      else
        match eccSub s ((List.range 16).map fun i => pa + 8 * i) with
        | some n => stopTrap cEcc n pc Acc.fetch.ak
        | none => .ok (memLine s pa)

/-- Fetching the word at PC, with the word after it in its line (02 R42). Only a save area that software has changed can
name an extension word (log 100). -/
def fetchWord (s : State) (c : Cx) (pc : Word) : Chk (Word × Option Word) :=
  match fetchLine s c pc with
  | .error x => .error x
  | .ok ws =>
    match lineSub ws with
    | some sub => stopTrap cIllegal sub
    | none =>
      let i := bitField pc.toNat 3 4
      if bitAt (ws.getD 0 0).toNat i then .ok (ws.getD i 0, ws[i + 1]?) else stopTrap cIllegal 0xE

/-- The checks of a taken transfer's target, in the order of 02 R44; `reg` when a register supplied it. -/
def checkLanding (s : State) (c : Cx) (target : Word) (reg : Bool) : Chk Unit :=
  if reg && (target.toNat % 8 != 0 || decide (2 ^ 48 ≤ target.toNat)) then stopTrap cTarget 2
  else if !reg && decide (2 ^ 48 ≤ target.toNat) then stopTrap cTarget 3
  else
    match fetchLine s c target with
    | .error x => .error x
    | .ok ws =>
      let i := bitField target.toNat 3 4
      if i != 0 && bitAt (ws.getD 0 0).toNat (16 + i) then .ok () else stopTrap cTarget 1

/-- The successor of the word at an address, as SKIP and ERET.next need it: the line must be fetched and consistent
(15 R322, R323). -/
def successorOf (s : State) (c : Cx) (pc : Word) : Chk Word :=
  match fetchWord s c pc with
  | .error x => .error x
  | .ok w =>
    match nextWord pc (!bitAt w.1.toNat 63 && bitField w.1.toNat 0 2 == 1) with
    | some a => .ok a
    | none => stopTrap cTarget 3

/-- The trap of a word that is no instruction (01 R21): TARGET 0x03 of a successor it would use comes first. -/
def illegalTrap (c : Cx) (w : Word) (sub slot : Nat) : Trap :=
  let full := !bitAt w.toNat 63
  let ext := full && bitField w.toNat 0 2 == 1
  let skips := full && noSuccessor (wordField w.toNat 56 7) (wordField w.toNat 52 4) (c.guard (guardOf w.toNat))
  if (nextWord c.th.pc ext).isNone && !skips then { cause := cTarget, sub := 3 }
  else if full then { cause := cIllegal, sub := sub }
  else c.pairIllegal (slotOf w.toNat 31) sub slot

end Sys2Proof.Machine
end

