-- ==== Sys2Proof/Machine/Ending.lean ====
section
/-! DEFINITION. How a thread ends and how a stopped one goes on: EXIT (01 R24, 10 R228), ERET (15
R323), and the end of a SLEEP (04 R98). -/

namespace Sys2Proof.Machine

/-- HCANs sent for the thread's parked requests (10 R228). -/
def withdrawParked (s : State) (r : TRef) : State :=
  match s.thread r with
  | none => s
  | some th =>
    (th.herd.filter fun p => p.fn == 3 || p.fn == 4).foldl (fun (u : State) p =>
      u.fresh.sendHerd ⟨u.uid, .thread r, .can p.uid, p.region, [p.kind], 0, 0, u.coreOf r.team, 0⟩) s

/-- A thread whose results are discarded: what it has in flight completes and only counts (01 R24). -/
def Thread.discard (th : Thread) : Thread :=
  { th with
    pend := th.pend.map fun p => { p with vregs := [], xregs := [] }
    herd := th.herd.map fun p => { p with nregs := 0, ps := 7, xs := none }
    reissue := th.reissue.filter fun x => x.kind != 6
    wait := .none }

/-- What waits for a member of the team may go on when a member ends (06 R123, R133, R138). -/
def settleTeam (s : State) (team : Nat) : State := settleConvs (settleBars (settleCross s team) team) team

/-- The x writes of a thread whose values are not known are discarded (01 R24). -/
def Team.discardX (t : Team) (tid : Nat) : Team :=
  { t with xpend := t.xpend.filter fun w => w.tid != tid || w.of.isNone }

/-- A thread ends as by EXIT (01 R24). What its core has queued by then may happen before its end (08 R185). -/
def exitThread (s : State) (r : TRef) : State :=
  settleTeam (((withdrawParked s r).modThread r fun th => { th.discard with run := .exited, since := some s.uid }).modTeam r.team
    fun t => t.discardX r.tid) r.team

/-- EXIT (01 R24): the word needs no successor. -/
def execExit (g : Guard) (f : Fields) (s : State) : Out State :=
  runFull 0x18 5 g f s fun c => .here (exitThread s c.r)

/-- ERET (15 R323): ILLEGAL 0x0F outside handler mode. -/
def execEret (g : Guard) (f : Fields) (s : State) : Out State :=
  runFull 0x00 3 g f s fun c =>
    if c.th.hnd then .jump (s.leaveHandler c) c.th.trapPc else .trap { cause := cIllegal, sub := 0xF }

/-- ERET_NEXT (15 R323): the fault of fetching TRAPPC's line, or TARGET 0x03, where the successor cannot be computed. -/
def execEretNext (g : Guard) (f : Fields) (s : State) : Out State :=
  runFull 0x00 3 g f s fun c =>
    if c.th.hnd then Eff.ofChk (successorOf s c c.th.trapPc) fun pc => .jump (s.leaveHandler c) pc
    else .trap { cause := cIllegal, sub := 0xF }

/-- SLEEP_EXPIRY (04 R98): CYCLES of the core has come to the count that the SLEEP named at least. -/
def wakeSleeper (s : State) (team tid : Nat) : Option State :=
  match s.thread ⟨team, tid⟩ with
  | none => none
  | some th =>
    match th.wait with
    | .asleep n =>
      if th.run = .running then
        some ((s.passTo (s.coreOf team) n).modThread ⟨team, tid⟩ fun th => { th with wait := .none })
      else none
    | _ => none

def execSleepExpiry (team tid : Nat) (s : State) : Out State := event s (wakeSleeper s team tid)

/-- BAND_REGROUP (05 R104): bands affect no architectural result. -/
def execBandRegroup (_core : Nat) (s : State) : Out State := event s (some s)

end Sys2Proof.Machine
end

