-- ==== Sys2Proof/Machine/Work.lean ====
section
/-! DEFINITION. Launches as the team distributors hold them: queue descriptors and work tables (14 R298, R310, R311), the
room that teams take (05 R116), a team's threads, its retirement (05 R121), and the end of a launch (14 R308, R309). -/

namespace Sys2Proof.Machine

/-! ### Tuples, descriptors and work entries -/

/-- Fields of a launch tuple (14 R299). -/
def tupleWord (l : List Word) (i : Nat) : Nat := (l.getD i 0).toNat
def Launch.graph (l : Launch) : Nat := bitField (tupleWord l.tuple 6) 0 12
def Launch.phase (l : Launch) : Nat := bitField (tupleWord l.tuple 6) 12 12
def Launch.job (l : Launch) : Nat := bitField (tupleWord l.tuple 6) 24 12
def Launch.gbuf (l : Launch) : Bool := bitAt (tupleWord l.tuple 6) 36
def Launch.replay (l : Launch) : Nat := bitField (tupleWord l.tuple 6) 48 16
def Launch.decl (l : Launch) : Decl := declOf l.rdw

/-- The work entries a launch counts in: level (0 graph, 1 phase, 2 job) and id (14 R310). -/
def Launch.ids (l : Launch) : List (Nat × Nat) := [(0, l.graph), (1, l.phase), (2, l.job)].filter fun x => x.2 != 0

/-- The queue descriptor of a kind (14 R298). -/
def State.qdesc (s : State) (kind : Nat) : QDesc := (s.hst.qdescs.find? fun q => q.kind == kind).getD ⟨kind, 0, 0⟩
def QDesc.enabled (q : QDesc) : Bool := bitAt q.w1.toNat 63
def QDesc.die (q : QDesc) : Nat := bitField q.w1.toNat 16 1
def QDesc.slot (q : QDesc) : Nat := bitField q.w1.toNat 0 8
def QDesc.priv (q : QDesc) : Bool := bitAt q.w1.toNat 62
def QDesc.clsMax (q : QDesc) : Nat := bitField q.w1.toNat 8 3
def QDesc.troot (q : QDesc) : Nat := bitField q.w0.toNat 12 40 * 4096
def QDesc.ctx (q : QDesc) : Nat := bitField q.w0.toNat 0 12

/-- A work entry, and its replacement (14 R310): one not listed holds zero, but for N of a graph entry (R311, 18 R376). -/
def State.work (s : State) (level id : Nat) : WorkEntry :=
  (s.hst.work.find? fun e => e.level == level && e.id == id).getD { level := level, id := id, n := if level = 0 ∧ id ≠ 0 then 65535 else 0 }
def State.putWork (s : State) (e : WorkEntry) : State :=
  let others := s.hst.work.filter fun x => !(x.level == e.level && x.id == e.id)
  { s with hst := { s.hst with work := e :: others } }
def State.modWork (s : State) (f : WorkEntry → WorkEntry) (ids : List (Nat × Nat)) : State :=
  ids.foldl (fun (u : State) x => u.putWork (f (u.work x.1 x.2))) s

/-! ### Room -/

/-- What holds room on a core: a live team, or a reservation of a cooperative launch (05 R116, R120). -/
structure Holder where
  core : Nat
  d : Decl
  scr : Nat
  ext : Nat
  tile : Nat
deriving DecidableEq, Repr

/-- A claim of a launch as a holder, and a team as a claim. -/
def Claim.holder (x : Claim) (d : Decl) : Holder := ⟨x.core, d, x.scr, x.ext, x.tile⟩
def Team.holder (t : Team) : Holder := ⟨t.core, declOf t.rdw, t.scrBase, t.extBase, t.tileBase⟩

/-- Everything that holds room. -/
def State.holders (s : State) : List Holder :=
  (s.teams.filter Team.live).map Team.holder ++ s.launches.flatMap fun l => l.reserved.map (·.holder l.decl)


/-- The lowest offset of `n` bytes below a limit that meets none of several runs: offsets are not architectural. That
a team's share of an array is one run of bytes is the model's choice (DESIGN CHOICE, log 94): 05 R116 counts bytes
only, so a team waits here where enough bytes are free in several runs. -/
def firstFit (runs : List (Nat × Nat)) (n limit : Nat) : Option Nat :=
  if n = 0 then some 0
  else
    let good (p : Nat) : Bool := decide (p + n ≤ limit) && !(runs.any fun r => rangesMeet p n r.1 r.2)
    let starts := (0 :: runs.map fun r => r.1 + r.2).filter good
    match starts with
    | [] => none
    | p :: ps => some (ps.foldl min p)

/-- What several holders take of a counted resource. -/
def taken (f : Decl → Nat) (hs : List Holder) : Nat := hs.foldl (fun n h => n + f h.d) 0

/-- A core has room for one more team of a declaration beside what is held (05 R116): the claim it would get. -/
def roomFor (hs : List Holder) (index core : Nat) (d : Decl) : Option Claim :=
  let here := hs.filter fun h => h.core == core
  let there := hs.filter fun h => coreCluster h.core == coreCluster core
  let die := hs.filter fun h => coreStack h.core == coreStack core
  let fits (f : Decl → Nat) (cap : Nat) (l : List Holder) : Bool := decide (taken f l + f d ≤ cap)
  if core < 1536 && fits (fun _ => 1) 32 here && fits Decl.size 1024 here && fits (fun d => d.size * d.regs) 65536 here &&
      fits Decl.bars 256 here && fits Decl.convs 128 here && fits Decl.strms 128 here && fits Decl.park 163840 die then
    match firstFit (here.map fun h => (h.scr, h.d.scr)) d.scr 131072,
        firstFit (here.map fun h => (h.ext, h.d.ext)) d.ext 262144,
        firstFit (there.map fun h => (h.tile, h.d.tile)) d.tile 524288 with
    | some a, some b, some c => some ⟨index, core, a, b, c⟩
    | _, _, _ => none
  else none

/-- Claims for several teams, one after another, all or none (05 R117, R120). -/
def claimAll (d : Decl) : List (Nat × Nat) → List Holder → Option (List Claim)
  | [], _ => some []
  | (i, core) :: xs, hs =>
    match roomFor hs i core d with
    | none => none
    | some x =>
      match claimAll d xs (hs ++ [x.holder d]) with
      | none => none
      | some l => some (x :: l)

/-- The locations of a team's scratchpad, column-extension and tile partitions (07 R149, 12 R250). -/
def Team.scrLocs (t : Team) : List Nat := span (scratchLoc t.core t.scrBase) (declOf t.rdw).scr
def Team.extLocs (t : Team) : List Nat := span (scratchLoc t.core (0x20000 + t.extBase)) (declOf t.rdw).ext
def Team.tilesLocs (t : Team) : List Nat := span (tileLoc (coreCluster t.core) t.tileBase) (declOf t.rdw).tile

/-- All of them, and those that a claim gives. -/
def Team.locs (t : Team) : List Nat := t.scrLocs ++ t.extLocs ++ t.tilesLocs
def Claim.locs (x : Claim) (d : Decl) : List Nat :=
  span (scratchLoc x.core x.scr) d.scr ++ span (scratchLoc x.core (0x20000 + x.ext)) d.ext ++
    span (tileLoc (coreCluster x.core) x.tile) d.tile

/-- A team's reservations released: what its partitions held is not kept (05 R121), and free values stand there. No store
writes them, so that what is poisoned stays so (07 R162). -/
def releaseTeamRoom (s : State) (n : Nat) : State :=
  match s.teams[n]? with
  | none => s
  | some t =>
    let locs := t.locs
    let u := s.modTeam n fun t => { t with live := false }
    if locs.isEmpty then u
    else { u with
      free := s.free + 1
      mem := memSetAll s.mem ((indexed 0 locs).map fun x => (x.2, Config.scratchByte s.free x.1)) }

/-! ### Threads that wait for a launch -/

/-- The status of a SAVE or REST reaches its thread, if it still waits (15 R338). -/
def answerThread (s : State) (r : TRef) (seq d code : Nat) : State :=
  match s.viewOf r with
  | none => s
  | some c =>
    if c.t.live && c.th.run == .running && (c.th.wait == .save seq d || c.th.wait == .rest seq d) then
      ((s.setX r d (BitVec.ofNat 64 code)).modThread r Thread.advance).dropL1 c.t.core
    else s

/-- The status of a pre-emption or restore reaches who asked for it (15 R338, 18 R376). -/
def answerAgent (s : State) (l : Launch) (code : Nat) : State :=
  match l.agent with
  | .thread r d => answerThread s r l.seq d code
  | .host =>
    let h := s.hst
    let h1 : HostPart := if h.preSeq = some l.seq then { h with preSeq := none, pre := BitVec.ofNat 64 code } else h
    let h2 : HostPart := if h1.resSeq = some l.seq then { h1 with resSeq := none, res := BitVec.ofNat 64 code } else h1
    { s with hst := h2 }
  | .td => s
  | .none => s

/-! ### The end of a launch -/

/-- The signal word (14 R309). -/
def signalWord (seq outcome rej : Nat) : Word := BitVec.ofNat 64 (rej * 2 ^ 56 + outcome * 2 ^ 48 + seq)

/-- The signal written (14 R308, R309): a store of the launch's context, performed at once; where its VA cannot be
written, an error record in its place. -/
def writeSignal (s : State) (l : Launch) (outcome rej : Nat) : State :=
  let va := l.tuple.getD 5 0
  let bad (cause sub : Nat) : State := s.postRecord l.die 4 0 va (BitVec.ofNat 64 (cause + 256 * sub))
  if va = 0 then s
  else if va.toNat % 8 ≠ 0 then bad cAlign 0
  else
    let walk (u : State) : Chk Xl := translateAt u (768 * l.die) l.troot l.priv false .store va
    let s1 := s.rouse walk
    match walk s1 with
    | .ok x =>
      if isRemote x.loc && s.boot.ports.isEmpty then
        s.postRecord l.die 7 0 (BitVec.ofNat 64 x.loc) 0
      else (s1.wake (span x.loc 8)).writeHome (cellsAt x.loc (leBytes 8 (signalWord l.seq outcome rej).toNat))
    | .error (.trap t) => bad t.cause t.sub
    | .error (.fault _) => bad 0 0
    | .error .wait => s

/-- The counts of a launch that ends (14 R308, R310, R311). -/
def countEnd (s : State) (l : Launch) : State :=
  let t := s.modWork (fun e => { e with completed := (e.completed + 1) % 2 ^ 32, infl := e.infl - 1 }) l.ids
  if l.gbuf ∧ l.graph ≠ 0 then
    t.modWork (fun e => if l.replay % 2 = 0 then { e with inf0 := e.inf0 - 1 } else { e with inf1 := e.inf1 - 1 })
      [(0, l.graph)]
  else t

/-- Accepted appends that a save area of the launch held are abandoned with it: their blocks are free again, and their
pages return to the pool. -/
def dropSavedAppends (s : State) (seq : Nat) : State :=
  let gone := s.seqs.flatMap fun r => r.saved.filter fun x => x.seq == seq
  let t : State := { s with
    seqs := s.seqs.map fun r => { r with saved := r.saved.filter fun x => !(x.seq == seq) } }
  (gone.flatMap SavedAppend.pages).foldl freePage t

/-- A launch that PRE has saved is restored or has ended: a RES that names none finds nothing (18 R376). -/
def State.forgetPre (s : State) (seq : Nat) : State :=
  if s.hst.lastPre = some seq then { s with hst := { s.hst with lastPre := none } } else s

/-- The end of a launch (14 R308): the signal, the counters, and the record released; who waits for its pre-emption
gets ENDED, and one that waits for its restore a value that the manual does not give. -/
def endLaunch (s : State) (seq outcome rej : Nat) : State :=
  match s.launch? seq with
  | none => s
  | some l =>
    if l.ended then s
    else
      let restoring := l.pre == .restoring
      let code := if restoring then (Config.freeWord s.free).toNat else 2
      let s0 : State := if restoring then { s with free := s.free + 1 } else s
      let t := countEnd (writeSignal s0 l outcome rej) l
      let u := (dropSavedAppends (answerAgent t l code) seq).forgetPre seq
      u.modLaunch seq fun l =>
        { l with ended := true, hasSlot := false, reserved := [], saved := [], pre := .running, agent := .none, pool := none,
                 onlyTeam := none }

/-- A live team of a launch. -/
def liveTeams (s : State) (seq : Nat) : List Nat :=
  (List.range s.teams.length).filter fun n => (s.teams[n]?).any fun t => t.live && t.seq == seq

/-- A launch that has nothing left to wait for ends (14 R308): as cancelled when no team is resident, or complete. -/
def settleLaunch (s : State) (seq : Nat) : State :=
  match s.launch? seq with
  | none => s
  | some l =>
    if l.ended then s
    else if l.cancelled then (if (liveTeams s seq).isEmpty then endLaunch s seq 1 0 else s)
    else if l.ret = l.nteams then endLaunch s seq 0 0
    else s

/-! ### Units of pre-emption -/

/-- A team index belongs to the unit of pre-emption (15 R326). -/
def Launch.inUnit (l : Launch) (index : Nat) : Bool :=
  match l.onlyTeam with
  | none => true
  | some i => if l.decl.clus then i / 4 == index / 4 else i == index

/-- The live teams of the unit. -/
def unitTeams (s : State) (l : Launch) : List Nat :=
  (liveTeams s l.seq).filter fun n => (s.teams[n]?).any fun t => l.inUnit t.index

/-- A single team or group that retires while it drains needs no save: the pre-emption is over. -/
def settleUnit (s : State) (seq : Nat) : State :=
  match s.launch? seq with
  | none => s
  | some l =>
    if l.pre = .draining ∧ l.onlyTeam.isSome ∧ (unitTeams s l).isEmpty then
      s.modLaunch seq fun l => { l with pre := .running, onlyTeam := none, agent := .none, pool := none }
    else s

/-! ### Retirement -/

/-- A thread no longer keeps its team (05 R121): it has exited, or a cancel has stopped it; its loads and atomics have
completed; of its herd requests only deposits remain, which R121 does not name, and under a cancel none, since those on a
wait list have been removed and every other one ends (14 R314). -/
def Thread.settled (cancelled : Bool) (th : Thread) : Bool :=
  (th.run == .exited || (cancelled && th.run == .stopped)) && th.pend.isEmpty && th.reissue.isEmpty &&
  th.herd.all fun p => !cancelled && decide (p.fn ≤ 1)

/-- An entry of the team's core that one of its threads may have seen before it ended is not yet performed: it happens
before the signal of the launch's end, a release at system scope (08 R174, R185). -/
def queuedBeforeEnd (s : State) (t : Team) : Bool :=
  s.queue.any fun e => e.core == t.core && t.threads.any fun th => th.since.any fun n => decide (e.uid < n)

/-- No store, copy, sampler, attention or tile operation of the team is under way. -/
def teamQuiet (s : State) (n : Nat) : Bool :=
  !(s.queue.any fun e => e.who.team == n) && !(s.copies.any fun x => x.who.team == n) &&
  !(s.smpls.any fun x => x.who.team == n) && !(s.attns.any fun x => x.who.team == n) &&
  !(s.tiles.any fun x => x.team == n) && !(s.appends.any fun x => x.team == n)

/-- TEAM_RETIRE (05 R121, 14 R308, 16 R351). -/
def retireTeam (s : State) (n : Nat) : Option State :=
  match s.teams[n]? with
  | none => none
  | some t =>
    let l := s.launch t.seq
    if t.live && teamQuiet s n && !queuedBeforeEnd s t && t.threads.all (Thread.settled l.cancelled) && l.pre != .quiescing then
      let u := releaseTeamRoom s n
      let v := u.modLaunch t.seq fun l =>
        if coreStack t.core = l.die then { l with ret := l.ret + 1 } else { l with reports := l.reports ++ [n] }
      some (settleUnit (settleLaunch v t.seq) t.seq)
    else none

def execTeamRetire (team : Nat) (s : State) : Out State := event s (retireTeam s team)

/-- RETIREMENT_MESSAGE (16 R351). -/
def reportRetired (s : State) (n : Nat) : Option State :=
  match s.teams[n]? with
  | none => none
  | some t =>
    let l := s.launch t.seq
    if l.reports.contains n then
      some (settleLaunch (s.modLaunch t.seq fun l =>
        { l with ret := l.ret + 1, reports := l.reports.filter (· != n) }) t.seq)
    else none

def execRetirementMessage (team : Nat) (s : State) : Out State := event s (reportRetired s team)

end Sys2Proof.Machine
end

