-- ==== Sys2Proof/Machine/Boot.lean ====
section
/-! DEFINITION. Reset and boot (18 R381, R382, R395), the UALink ports and device number (18 R379), the columns' telemetry
and temperature (16 R343-R346, 18 R387), and the arrays' retention and poison (07 R162, R163). -/

namespace Sys2Proof.Machine

/-! ### Reset and the boot stages -/

/-- The reset record, in the ring of every die (18 R384). -/
def recordReset (s : State) : State := (List.range 3).foldl (fun (u : State) d => u.postRecord d 9 0 0 0) s

/-- RESET (18 R381, R384): everything at its reset value; a warm reset keeps the rings, and no reset changes the fuses.
What stands in memory stays until MEMINIT. -/
def resetMachine (s : State) (warm : Bool) : State :=
  let hst : HostPart := { rings := if warm then s.hst.rings else [{}, {}, {}] }
  recordReset { State.cleared with
    mem := s.mem, poison := s.poison, tilePoison := s.tilePoison, errors := s.errors, hst := hst, boot := { warm := warm, fuse := s.boot.fuse }, outbound := s.outbound,
    answers := s.answers,
    agenda := s.agenda, free := s.free, uid := s.uid }

def execReset (warm : Bool) (s : State) : Out State := .next (resetMachine s warm)

/-- A stage ends: it is the stage under way, and a failure stops the boot (18 R375, R381). -/
def enterStage (s : State) (stage code : Nat) : State :=
  { s with boot := { s.boot with stage := stage, fail := code != 0, fcode := code } }

/-- The boot has come through a stage. -/
def bootAt (s : State) (stage : Nat) : Bool := s.boot.stage == stage && !s.boot.fail

/-- CALIB (18 R381): the ports that trained; each other is named by an error record. -/
def calibrate (s : State) (ports : List Nat) (code : Nat) : Option State :=
  if !bootAt s 0 ∨ 4 < code ∨ !ports.all (fun p => decide (p < 8)) then none
  else
    let t := enterStage s 1 code
    if code ≠ 0 then some t
    else
      let down := (List.range 8).filter fun p => !(ports.contains p)
      let u : State := { t with boot := { t.boot with ports := (List.range 8).filter (ports.contains ·) } }
      some (down.foldl (fun (v : State) p => v.postRecord (p / 4) 7 p 0 0) u)

def execCalib (ports : List Nat) (code : Nat) (s : State) : Out State := event s (calibrate s ports code)

/-- MEMINIT (18 R381): every array zeroed. -/
def initMemory (s : State) (code : Nat) : Option State :=
  if !bootAt s 1 then none
  else if code ≠ 0 then some (enterStage s 2 5)
  else some { enterStage s 2 0 with mem := [], poison := [], tilePoison := [], errors := [] }

def execMeminit (code : Nat) (s : State) : Out State := event s (initMemory s code)

/-- A field of a firmware header, little-endian, and the bytes of one (18 R382). -/
def fwPart (im : FirmwareImage) (off n : Nat) : List Byte := (im.header.drop off).take n
def fwField (im : FirmwareImage) (off n : Nat) : Nat := leNat (fwPart im off n)
def fwVersion (im : FirmwareImage) : BitVec 16 := BitVec.ofNat 16 (fwField im 0x8 2)
def fwFloor (im : FirmwareImage) : BitVec 16 := BitVec.ofNat 16 (fwField im 0xA 2)

/-- The SHA-512 of some bytes. -/
def sha512Of (bs : List Byte) : List Byte := (List.range 64).map (Config.sha512 bs)

/-- The header has its 512 bytes with the magic number and its zeros, and the body its length (18 R382). -/
def fwFormed (im : FirmwareImage) : Bool :=
  im.header.length == 512 && fwField im 0 8 == 0x4E5846444A524E4D && fwField im 0xC 4 == im.body.length &&
    fwPart im 0x158 168 == List.replicate 168 0

/-- The three digests and the signature of 18 R382 hold. -/
def fwSound (im : FirmwareImage) : Bool :=
  sha512Of (fwPart im 0x50 132) == (List.range 64).map Config.vendorDigest &&
    Config.ecdsaVerifies (fwPart im 0x50 132) (fwPart im 0xD4 132) (fwPart im 0 0xD4) && sha512Of im.body == fwPart im 0x10 64

/-- The failure code of a firmware image, 0 for none (18 R381, R382). -/
def imageCode (s : State) (im : FirmwareImage) : Nat :=
  if !fwFormed im then 0x12
  else if !fwSound im then 0x10
  else if (fwVersion im).toNat < s.boot.fuse.toNat then 0x11
  else 0

/-- FWCHECK (18 R382): an accepted image may raise the rollback counter. -/
def checkFirmware (s : State) (im : FirmwareImage) : Option State :=
  if !bootAt s 2 then none
  else
    let code := imageCode s im
    let t := enterStage s 3 code
    if code ≠ 0 then some t
    else
      let fuse := if s.boot.fuse.toNat < (fwFloor im).toNat then fwFloor im else s.boot.fuse
      some { t with boot := { t.boot with fwver := fwVersion im, header := im.header, fuse := fuse } }

def execFwcheck (image : FirmwareImage) (s : State) : Out State := event s (checkFirmware s image)

/-- Every range is aligned, inside the compute HBM, and apart from the others (18 R395). -/
def rangesGood : List (Nat × Nat) → Bool
  | [] => true
  | x :: xs => x.1 % 65536 == 0 && decide (x.1 + x.2 ≤ hbmSize) && !(xs.any fun y => rangesMeet x.1 x.2 y.1 y.2) && rangesGood xs

/-- The pages of the Eland HBM (17 R352, R354). -/
def elandPages : Nat := elandSize / 0x14000

/-- A record that firmware may fix (18 R395). -/
def recordGood (r : Reservation) : Bool :=
  decide (128 ≤ r.launchSize) && decide (64 ≤ r.faultSize) && decide (elandPages ≤ r.pageSize * 512) &&
  [r.launchSize, r.faultSize, r.pageSize].all (fun n => decide (n < 65536)) && r.poolSize % 4096 == 0 &&
  rangesGood (reservedRanges r)

/-- START (18 R381, R395): the record is fixed, the three regions are created and the free pool holds every page; then
the device accepts work. -/
def startDevice (s : State) (r : Reservation) (code : Nat) : Option State :=
  if !bootAt s 3 then none
  else if code ≠ 0 then some (enterStage s 4 0x20)
  else if !recordGood r then none
  else
    let regions : List Region :=
      [⟨launchRegion, true, 5, r.launchSize, r.launchBase, 0⟩, ⟨faultRegion, false, 5, r.faultSize, r.faultBase, 0⟩,
        ⟨pageRegion, false, 4, r.pageSize, r.pageBase, 0⟩]
    let t := enterStage s 5 0
    some { t with
      boot := { t.boot with ready := true }
      hst := { t.hst with resv := some r }
      herd := { t.herd with regions := regions, pages := [(0, elandPages)] } }

def execStart (rec_ : Reservation) (code : Nat) (s : State) : Out State := event s (startDevice s rec_ code)

/-! ### Ports -/

/-- DEVICE_NUMBER_ASSIGN (18 R379): once a port has trained, and once. -/
def assignNumber (s : State) (num : Nat) : Option State :=
  if s.boot.ports.isEmpty ∨ s.boot.device.isSome ∨ 1024 ≤ num then none
  else some { s with boot := { s.boot with device := some num } }

def execDeviceNumberAssign (num : Nat) (s : State) : Out State := event s (assignNumber s num)

/-- A returning atomic at a remote device has issued and is not yet performed. -/
def remoteReturning (s : State) : Bool :=
  s.queue.any fun e =>
    match e.what with
    | .rmw _ _ loc _ _ _ true => isRemote loc
    | _ => false

/-- PORT_FAILURE (18 R379, R384). The last port does not fail while a returning atomic is on its way over it: its ECC 0x03
would come after the thread has gone on (01 R23, log 86). -/
def failPort (s : State) (port : Nat) : Option State :=
  if s.boot.ports.contains port ∧ !(s.boot.ports == [port] && remoteReturning s) then
    some ({ s with boot := { s.boot with ports := s.boot.ports.filter (· != port) } }.postRecord (port / 4) 7 port 0 0)
  else none

def execPortFailure (port : Nat) (s : State) : Out State := event s (failPort s port)

/-! ### Columns -/

/-- TELEMETRY_SAMPLE (16 R345, R346): the whole record at once; the die's threshold stands in every record of the
stack. -/
def takeSample (s : State) (column : Nat) (x : ColumnSample) : Option State :=
  if 768 ≤ column then none
  else
    let old := columnRec s column
    let thr := ((s.cols.throttled.find? fun y => y.1 == column).map Prod.snd).getD 0
    let new : ColumnRec := ⟨column, old.sno + 1, x, thr⟩
    let others := (s.cols.records.filter fun r => !(r.column == column)).map fun r =>
      if r.column / 384 = column / 384 then { r with sample := { r.sample with dthr := x.dthr } } else r
    some { s with cols := { s.cols with
      records := new :: others
      throttled := s.cols.throttled.filter fun y => !(y.1 == column) } }

def execTelemetrySample (column : Nat) (sample : ColumnSample) (s : State) : Out State :=
  event s (takeSample s column sample)

/-- COLUMN_THROTTLE (16 R343): seen only in the next sample. -/
def throttle (s : State) (column : Nat) (layers : BitVec 4) : Option State :=
  if 768 ≤ column then none
  else
    let old := ((s.cols.throttled.find? fun y => y.1 == column).map Prod.snd).getD 0
    some { s with cols := { s.cols with
      throttled := (column, old ||| layers) :: s.cols.throttled.filter fun y => !(y.1 == column) } }

def execColumnThrottle (column : Nat) (layers : BitVec 4) (s : State) : Out State := event s (throttle s column layers)

/-- CRITICAL_TEMPERATURE (16 R343). DESIGN CHOICE (log 116): unit and first detail word of its record are the column, the
second is the layer. -/
def reachCritical (s : State) (column layer : Nat) : Option State :=
  if 768 ≤ column ∨ 4 ≤ layer ∨ s.cols.critical.contains (column, layer) then none
  else
    some ({ s with cols := { s.cols with critical := s.cols.critical ++ [(column, layer)] } }.postRecord (column / 384) 5
      column (BitVec.ofNat 64 column) (BitVec.ofNat 64 layer))

def execCriticalTemperature (column layer : Nat) (s : State) : Out State := event s (reachCritical s column layer)

/-- LAYER_COOLED (16 R343). -/
def coolLayer (s : State) (column layer : Nat) : Option State :=
  if s.cols.critical.contains (column, layer) then
    some { s with cols := { s.cols with critical := s.cols.critical.filter (· != (column, layer)) } }
  else none

def execLayerCooled (column layer : Nat) (s : State) : Out State := event s (coolLayer s column layer)

/-- TRIP_LIMIT (18 R387): the package holds until reset. -/
def trip (s : State) (column layer : Nat) : Option State :=
  if 768 ≤ column ∨ 4 ≤ layer then none
  else
    let t := s.postRecord (column / 384) 5 column (BitVec.ofNat 64 column) (BitVec.ofNat 64 layer)
    some { t with boot := { t.boot with ready := false, fail := true, fcode := 0x30, held := true } }

def execTripLimit (column layer : Nat) (s : State) : Out State := event s (trip s column layer)

/-! ### Arrays -/

/-- The unit exists (07 R163). -/
def unitExists : ArrayUnit → Bool
  | .scratchBanks core group => decide (core < 1536) && decide (group < 4)
  | .extension core => decide (core < 1536)
  | .registerBank core bank => decide (core < 1536) && decide (bank < 6)
  | .l2Slice slice => decide (slice < 320)
  | .tileFile cluster => decide (cluster < 384)

/-- RETENTION_ENTRY (07 R163). -/
def enterRetention (s : State) (a : ArrayUnit) : Option State :=
  if !unitExists a ∨ s.retained.contains a then none else some { s with retained := s.retained ++ [a] }

def execRetentionEntry (arr : ArrayUnit) (s : State) : Out State := event s (enterRetention s arr)

/-- RETENTION_EXIT (07 R163). -/
def leaveRetention (s : State) (a : ArrayUnit) : Option State :=
  if s.retained.contains a then some { s with retained := s.retained.filter (· != a) } else none

def execRetentionExit (arr : ArrayUnit) (s : State) : Out State := event s (leaveRetention s arr)

/-- A register value, a cached line, a stored tuple or an engine's SRAM hit by an uncorrectable error, or found so and
poisoned (07 R161, R162); none where nothing is there. -/
def hitRegister (s : State) (r : TRef) (n : Nat) (found : Bool) : Option State :=
  (s.thread r).bind fun th =>
    if th.v.length ≤ n then none
    else some (s.modThread r fun th => { th with flaws := (n, found) :: th.flaws.filter fun x => x.1 != n })
def hitScalar (s : State) (team n : Nat) (found : Bool) : Option State :=
  if s.teams.length ≤ team ∨ 64 ≤ n then none
  else some (s.modTeam team fun t => { t with xflaws := (n, found) :: t.xflaws.filter fun x => x.1 != n })
def hitL1 (s : State) (core g : Nat) (found : Bool) : Option State :=
  let holds (l : L1Line) : Bool := l.core == core && l.loc == 8 * g / 128 * 128
  if s.l1.any holds then
    let hit (l : L1Line) : L1Line := { l with flaws := (g, found) :: l.flaws.filter fun x => x.1 != g }
    some { s with l1 := s.l1.map fun l => if holds l then hit l else l }
  else none
def hitLine (s : State) (core pa : Nat) (found : Bool) : Option State :=
  let holds (l : ILine) : Bool := l.core == core && l.pa == pa
  if s.icache.any holds then
    some { s with icache := s.icache.map fun l => if holds l then { l with flaw := some found } else l }
  else none
def hitEngine (s : State) (uid : Nat) : Option State :=
  if (s.smpls.any fun x => x.uid == uid) ∨ s.attns.any fun x => x.uid == uid then
    some { s with
      smpls := s.smpls.map fun x => if x.uid = uid then { x with flaw := true } else x
      attns := s.attns.map fun x => if x.uid = uid then { x with flaw := true } else x }
  else none

/-- A stored tuple hit by an uncorrectable error in its HMU store, a pending one too (07 R161, R162): it stands there for
the copy or take that selects it; none while a copy or take is on its way to the region (log 80). -/
def hitTuple (s : State) (dep : Nat) (found : Bool) : Option State :=
  match s.herd.tuples.find? fun t => t.dep == dep with
  | none => none
  | some t =>
    if s.herd.flying.any fun q => q.region == t.region then none
    else
      let rest := s.herd.flaws.filter fun x => x.1 != dep
      some { s with herd := { s.herd with flaws := (dep, found) :: rest } }

/-- The same of a tuple of the free-page region that START deposited (17 R354). -/
def discardPage (s : State) (pn die unitNo : Nat) : Option State :=
  if s.herd.pages.any fun r => decide (r.1 ≤ pn) && decide (pn < r.1 + r.2) then
    some ({ s with herd := { s.herd with pages := withoutPage pn s.herd.pages } }.postRecord die 3 unitNo
      (BitVec.ofNat 64 pageRegion) 0)
  else none

/-- An array gets an error that it cannot correct (07 R161); nothing has found it yet. -/
def damageAt (s : State) : ErrSite → Option State
  | .granule g =>
    if !installed (8 * g) ∨ damaged s (span (8 * g) 8) ∨ poisonWaits s [8 * g] then none
    else some { s with errors := g :: s.errors }
  | .vreg team tid n => hitRegister s ⟨team, tid⟩ n false
  | .xreg team n => hitScalar s team n false
  | .l1 core g => hitL1 s core g false
  | .icache core pa => hitLine s core pa false
  | .tuple dep => hitTuple s dep false
  | .engine uid => hitEngine s uid

/-- POISON_MARK (07 R162): an uncorrectable error found with no consuming instruction, with a record of KIND 2. -/
def markPoison (s : State) (site : ErrSite) : Option State :=
  let log (o : Option State) (die : Nat) : Option State := o.map fun t => t.postRecord die 2 0 0 0
  let die (core : Nat) : Nat := coreStack core
  match site with
  | .granule g =>
    if !installed (8 * g) ∨ anyPoison s (span (8 * g) 8) ∨ poisonWaits s [8 * g] then none else some (s.createPoison g)
  | .vreg team tid n => log (hitRegister s ⟨team, tid⟩ n true) (die (s.coreOf team))
  | .xreg team n => log (hitScalar s team n true) (die (s.coreOf team))
  | .l1 core g => log (hitL1 s core g true) (die core)
  | .icache core pa => log (hitLine s core pa true) (die core)
  | .tuple dep => log (hitTuple s dep true) 0
  | .engine uid => log (hitEngine s uid) 2

def execPoisonMark (site : ErrSite) (s : State) : Out State := event s (markPoison s site)

end Sys2Proof.Machine
end

