-- ==== Sys2Proof/Machine/Control.lean ====
section
/-! DEFINITION. The control group, OP 0x18 (04 R96-R98) but for EXIT, and NOP and YIELD (R98). -/

namespace Sys2Proof.Machine

/-- The target of BRA and CALL: the branch word's address plus eight times the displacement (02 R32). -/
def Cx.displaced (c : Cx) (f : Fields) : Word := c.th.pc + BitVec.ofInt 64 (8 * f.disp.toInt)

/-- The target of BRX, CALLX and RET: a pair, or an x register with MOD = 100 (04 R96). -/
def Cx.registerTarget (c : Cx) (f : Fields) : Word := if f.isX then c.x f.a.toNat else c.pair f.a.toNat

/-- A taken transfer: the target is checked, then the state is written and PC moves (02 R44, 04 R97). -/
def transfer (s : State) (c : Cx) (target : Word) (reg : Bool) (write : State → State) : Eff :=
  Eff.ofChk (checkLanding s c target reg) fun _ => .jump (write s) target

/-- The address a call returns to (04 R97). -/
def Cx.link (c : Cx) : Word := (nextWord c.th.pc false).getD 0

/-- BRA (04 R96). -/
def execBra (g : Guard) (f : Fields) (s : State) : Out State :=
  runFull 0x18 0 g f s fun c => transfer s c (c.displaced f) false id

/-- BRX (04 R96). -/
def execBrx (g : Guard) (f : Fields) (s : State) : Out State :=
  runFull 0x18 1 g f s fun c => transfer s c (c.registerTarget f) true id

/-- CALL (04 R97). DESIGN CHOICE (log 122): 02 R43 has the link written whether the call is taken or not, and 01 R20 gives a
word whose guard is false no destination: such a call writes no link. -/
def execCall (g : Guard) (f : Fields) (s : State) : Out State :=
  runFull 0x18 2 g f s fun c => transfer s c (c.displaced f) false fun t => t.setPair c.r 0 c.link

/-- CALLX (04 R97); log 122 of a false guard. -/
def execCallx (g : Guard) (f : Fields) (s : State) : Out State :=
  runFull 0x18 3 g f s fun c => transfer s c (c.registerTarget f) true fun t => t.setPair c.r f.d.toNat c.link

/-- RET (04 R97). -/
def execRet (g : Guard) (f : Fields) (s : State) : Out State :=
  runFull 0x18 4 g f s fun c => transfer s c (c.registerTarget f) true id

/-- SLEEP (04 R98): the word completes and the thread issues nothing until SLEEP_EXPIRY, at least imm cycles of its core
from now. -/
def execSleep (g : Guard) (f : Fields) (s : State) : Out State :=
  runFull 0x18 6 g f s fun c =>
    .next (s.modThread c.r fun th => { th with wait := .asleep (coreCycles s c.t.core + f.imm.toNat) })

/-- NOP (04 R98). -/
def execNop (g : Guard) (f : Fields) (s : State) : Out State := runFull 0x00 0 g f s fun _ => .next s

/-- YIELD (04 R98): the preference it gives other threads is timing. -/
def execYield (g : Guard) (f : Fields) (s : State) : Out State := runFull 0x00 4 g f s fun _ => .next s

end Sys2Proof.Machine
end

