-- ==== Sys2Proof/Machine/Fawn.lean ====
section
/-! DEFINITION. Fawn logit programs (13 R294-R297) with the count and bias tables they read and change (R279, R280). -/

namespace Sys2Proof.Machine

/-- The tables of a sequence state record (13 R279, R280). -/
structure Tables where
  counts : List Nat
  covf : W32
  biasIds : List Nat
  biasVals : List Nat
  nbias : Nat
  bovf : W32
deriving DecidableEq, Repr

/-- The hash of a token (13 R279). -/
def tokenHash (i : Nat) : Nat := (i ^^^ (i >>> 12)) % 4096

/-- The place of the non-empty entry of a token. DESIGN CHOICE (log 131): of several, which software alone can have written,
the lowest. -/
def Tables.countAt (t : Tables) (token : Nat) : Option Nat :=
  t.counts.findIdx? fun e => e / 2 ^ 20 != 0 && e % 2 ^ 20 == token

def Tables.countOf (t : Tables) (token : Nat) : Nat :=
  match t.countAt token with
  | some i => t.counts.getD i 0 / 2 ^ 20
  | none => 0

/-- `count_set` of 13 R279. -/
def Tables.countSet (t : Tables) (token n : Nat) : Tables :=
  match t.countAt token with
  | some i => { t with counts := t.counts.set i (n * 2 ^ 20 + token) }
  | none =>
    if n = 0 then t
    else
      match firstFrom (fun k => t.counts.getD ((tokenHash token + k) % 4096) 0 / 2 ^ 20 == 0) 4096 0 with
      | some k => { t with counts := t.counts.set ((tokenHash token + k) % 4096) (n * 2 ^ 20 + token) }
      | none => { t with covf := t.covf + 1 }

def Tables.countInc (t : Tables) (token : Nat) : Tables := t.countSet token (min (t.countOf token + 1) 4095)

/-- The lowest entry in use of a token (13 R280). -/
def Tables.biasAt (t : Tables) (token : Nat) : Option Nat :=
  (t.biasIds.take t.nbias).findIdx? fun e => e % 2 ^ 20 == token

def Tables.biasOf (t : Tables) (token : Nat) : W32 :=
  match t.biasAt token with
  | some i => (convertFp .f16 .f32 .rn false (BitVec.ofNat 32 (t.biasVals.getD i 0))).1
  | none => 0

/-- `bias_set` of 13 R280. -/
def Tables.biasSet (t : Tables) (token v : Nat) : Tables :=
  match t.biasAt token with
  | some i => { t with biasVals := t.biasVals.set i v }
  | none =>
    if t.nbias < 1024 then
      { t with biasIds := t.biasIds.set t.nbias token, biasVals := t.biasVals.set t.nbias v, nbias := t.nbias + 1 }
    else { t with bovf := t.bovf + 1 }

/-- A Fawn word's fields (13 R296). -/
structure FawnWord where
  op : Nat
  d : Nat
  a : Nat
  b : Nat
  m : Nat
  imm : Nat
deriving DecidableEq, Repr

def fawnWord (w : Nat) : FawnWord :=
  ⟨bitField w 27 5, bitField w 23 4, bitField w 19 4, bitField w 15 4, bitField w 12 3, bitField w 0 12⟩

/-- How an operation uses its fields: D, A and B (0 not, 1 a lane register, 2 a mask), M, and the least IMM out of
range (13 R297). -/
def fawnUse (op plen : Nat) : Nat × Nat × Nat × Bool × Nat :=
  match op with
  | 0x00 => (0, 0, 0, false, 1)
  | 0x01 => (1, 0, 0, true, 1)
  | 0x02 => (0, 1, 0, true, 1)
  | 0x03 => (1, 0, 0, true, 1)
  | 0x04 => (1, 0, 0, true, 17)
  | 0x05 => (1, 0, 0, true, 1)
  | 0x06 => (1, 0, 0, true, 1)
  | 0x07 => (0, 1, 0, true, 1)
  | 0x08 => (0, 1, 0, true, 1)
  | 0x0F => (1, 1, 0, true, 1)
  | 0x11 => (1, 1, 0, true, 1)
  | 0x12 => (2, 1, 1, false, 8)
  | 0x13 => (1, 1, 1, true, 8)
  | 0x14 => (1, 0, 0, true, 1)
  | 0x15 => (2, 2, 2, false, 1)
  | 0x16 => (2, 2, 2, false, 1)
  | 0x17 => (2, 2, 0, false, 1)
  | 0x18 => (1, 1, 0, true, 1)
  | 0x19 => (0, 0, 0, false, plen)
  | _ => (1, 1, 1, true, 1)

/-- An illegal Fawn word (13 R296). -/
def fawnBad (plen w : Nat) : Bool :=
  let x := fawnWord w
  let u := fawnUse x.op plen
  let field (use v : Nat) : Bool := (use == 0 && v != 0) || (use == 2 && decide (8 ≤ v))
  decide (0x1A ≤ x.op) || field u.1 x.d || field u.2.1 x.a || field u.2.2.1 x.b || (!u.2.2.2.1 && x.m != 0) ||
    decide (u.2.2.2.2 ≤ x.imm)

/-- The state of a program (13 R294). -/
structure FawnState where
  f : List (List W32)
  m : List Word
  c : Nat
  pc : Nat
  w : List W32
  tables : Tables
deriving DecidableEq, Repr

/-- A lane mask; m7 reads all ones. -/
def FawnState.mask (s : FawnState) (n : Nat) : Word := if n = 7 then BitVec.allOnes 64 else s.m.getD n 0

/-- A lane of a register. -/
def FawnState.lane (s : FawnState) (r l : Nat) : W32 := (s.f.getD r []).getD l 0

/-- The inputs a program reads beside W: the parameters and TEMP. -/
structure FawnEnv where
  params : List W32
  temp : W32
deriving DecidableEq, Repr

/-- The value an operation gives lane `l` of its destination (13 R297). -/
def fawnLane (e : FawnEnv) (s : FawnState) (x : FawnWord) (l : Nat) : W32 :=
  let token := 64 * s.c + l
  let a := s.lane x.a l
  let b := s.lane x.b l
  let d := s.lane x.d l
  let nat (n : Nat) : W32 := (intToFp .f32 .rn false n).1
  match x.op with
  | 0x01 => s.w.getD token 0
  | 0x03 => nat token
  | 0x04 => if x.imm = 16 then e.temp else e.params.getD x.imm 0
  | 0x05 => nat (s.tables.countOf token)
  | 0x06 => s.tables.biasOf token
  | 0x09 => (fpAdd .f32 .rn false a b).1
  | 0x0A => (fpSub .f32 .rn false a b).1
  | 0x0B => (fpMul .f32 .rn false a b).1
  | 0x0C => (fpFma .f32 .rn false a b d).1
  | 0x0D => (fpMinMax .f32 false a b).1
  | 0x0E => (fpMinMax .f32 true a b).1
  | 0x0F => (specialFn .ex2 .f32 false (fpMul .f32 .rn false a 0x3FB8AA3B).1).1
  | 0x10 => (fpMinMax .f32 false (fpMinMax .f32 true d a).1 b).1
  | 0x11 => (fpDiv .f32 .rn false a e.temp).1
  | 0x13 => if (s.mask x.imm).getLsbD l then a else b
  | 0x14 => 0xFF800000
  | _ => a

/-- The count that SCTC stores (13 R297). -/
def fawnCount (a : W32) : Nat :=
  if isNan .f32 a || (fpSign .f32 a && fpMag .f32 a != 0) then 0
  else
    match fpValue .f32 a with
    | .fin _ m e => if 4095 * 2 ^ 64 < m * 2 ^ (e + 64).toNat then 4095 else (roundToInt .rn false m e).1.toNat
    | _ => 4095

/-- The tables after a scatter, lane by lane from lane 0 (DESIGN CHOICE, log 115: the manual orders no lanes, which shows
where a table is full or grows). -/
def fawnScatter (s : FawnState) (x : FawnWord) : Tables :=
  (List.range 64).foldl (fun (t : Tables) l =>
    if (s.mask x.m).getLsbD l then
      let a := s.lane x.a l
      if x.op = 0x07 then t.countSet (64 * s.c + l) (fawnCount a)
      else t.biasSet (64 * s.c + l) (convertFp .f32 .f16 .rn false a).1.toNat
    else t) s.tables

/-- One Fawn word executed (13 R297), all but END and LOOP: pc moves on by one. -/
def fawnStep (e : FawnEnv) (s : FawnState) (x : FawnWord) : FawnState :=
  let on (l : Nat) : Bool := (s.mask x.m).getLsbD l
  let t : FawnState := { s with pc := s.pc + 1 }
  let setMask (w : Word) : FawnState := { t with m := if x.d = 7 then t.m else t.m.set x.d w }
  match x.op with
  | 0x02 => { t with w := (indexed 0 s.w).map fun iv =>
      if 64 * s.c ≤ iv.1 ∧ iv.1 < 64 * s.c + 64 ∧ on (iv.1 - 64 * s.c) then s.lane x.a (iv.1 - 64 * s.c) else iv.2 }
  | 0x07 => { t with tables := fawnScatter s x }
  | 0x08 => { t with tables := fawnScatter s x }
  | 0x12 => setMask (BitVec.ofNat 64 ((List.range 64).foldl (fun n l =>
      if (fpCompare x.imm (s.lane x.a l) (s.lane x.b l)).1 then n + 2 ^ l else n) 0))
  | 0x15 => setMask (s.mask x.a &&& s.mask x.b)
  | 0x16 => setMask (s.mask x.a ||| s.mask x.b)
  | 0x17 => setMask (~~~(s.mask x.a))
  | _ => { t with f := t.f.set x.d ((List.range 64).map fun l => if on l then fawnLane e s x l else s.lane x.d l) }

/-- A program run (13 R294-R297): the state at END, or the index that FAWN reports. -/
def fawnRun (e : FawnEnv) (prog : List Nat) (chunks : Nat) : Nat → FawnState → Except Nat FawnState
  | 0, _ => .error prog.length
  | fuel + 1, s =>
    if prog.length ≤ s.pc then .error prog.length
    else
      let x := fawnWord (prog.getD s.pc 0)
      if x.op = 0 then .ok s
      else if x.op = 0x19 then
        fawnRun e prog chunks fuel
          (if s.c + 1 < chunks then { s with c := s.c + 1, pc := x.imm } else { s with pc := s.pc + 1 })
      else fawnRun e prog chunks fuel (fawnStep e s x)

/-- A program checked, then run from its start (13 R294, R296). -/
def fawnProgram (e : FawnEnv) (prog : List Nat) (w : List W32) (t : Tables) : Except Nat FawnState :=
  match prog.findIdx? (fawnBad prog.length) with
  | some i => .error i
  | none =>
    fawnRun e prog (w.length / 64) (prog.length * (w.length / 64) + 1)
      ⟨List.replicate 16 (List.replicate 64 0), List.replicate 7 0, 0, 0, w, t⟩

end Sys2Proof.Machine
end

