-- ==== Sys2Proof/Machine/Sampler.lean ====
section
/-! DEFINITION. The sampler (13 R277-R293): SMPL's issue, and the run of a queued command. -/

namespace Sys2Proof.Machine

/-! ### Issue -/

/-- SMPL (13 R282, R283): the checks in the order of its table, then the queue. -/
def execSmpl (g : Guard) (f : Fields) (s : State) : Out State :=
  runFull 0x48 0 g f s fun c =>
    let logits := c.x f.a.toNat
    let ssr := c.x f.b.toNat
    let res := c.x f.c.toNat
    let bar := if f.opt then none else some f.d.toNat
    if 63 ≤ c.th.cntAs then .wait
    else if logits.toNat % 128 ≠ 0 then .trap { cause := cAlign, sub := 0, va := logits, ak := 4 }
    else if ssr.toNat % 256 ≠ 0 then .trap { cause := cAlign, sub := 0, va := ssr, ak := 4 }
    else if res.toNat % 16 ≠ 0 then .trap { cause := cAlign, sub := 0, va := res, ak := 4 }
    else
      Eff.ofChk (translateRange s c .engineBoth ssr 24576) fun sx =>
        Eff.ofChk (translateRange s c .engineBoth res 16) fun rx =>
          if bar.any fun b => !(c.t.bar b).valid then .trap { cause := cSample, sub := 1 }
          else if rangesMeet ssr.toNat 24576 res.toNat 16 then .trap { cause := cSample, sub := 2 }
          else
            let x : SmplCmd := ⟨s.uid, c.r, bar, f.isX, f.isN, logits, sx, rx, c.th.issues, s.uid, c.th.priv, false⟩
            .next ({ s.fresh with smpls := s.smpls ++ [x] }.modThread c.r Thread.issueAs)

/-! ### The record -/

/-- A field of the record, little-endian. -/
def ssrField (ssr : List Byte) (off n : Nat) : Nat := leNat ((ssr.drop off).take n)
def ssrWord (ssr : List Byte) (off : Nat) : W32 := BitVec.ofNat 32 (ssrField ssr off 4)

/-- A malformed header (13 R286). -/
def headerBad (ssr : List Byte) : Bool :=
  let v := ssrField ssr 0x18 4
  let vpad := ssrField ssr 0x1C 4
  let temp := ssrWord ssr 0x20
  let topp := ssrWord ssr 0x28
  let plen := ssrField ssr 0x38 4
  let positive (w : W32) : Bool := !isNan .f32 w && !fpSign .f32 w && fpMag .f32 w != 0
  v == 0 || decide (2 ^ 20 < v) || vpad % 64 != 0 || decide (vpad < v) || decide (2 ^ 20 < vpad) ||
    !positive temp || isInf .f32 temp || decide (1024 < ssrField ssr 0x24 4) || !positive topp ||
    decide (0x3F800000 < topp.toNat) || decide (256 < plen) || (plen != 0 && ssrField ssr 0x30 8 % 4 != 0) ||
    decide (1024 < ssrField ssr 0x40 4)

/-- Values of `n` bytes read from a list of bytes. -/
def valuesOf (n : Nat) : Nat → List Byte → List Nat
  | 0, _ => []
  | k + 1, bs => leNat (bs.take n) :: valuesOf n k (bs.drop n)

/-- The tables of a record (13 R277). -/
def ssrTables (ssr : List Byte) : Tables :=
  { counts := valuesOf 4 4096 (ssr.drop 0x100), covf := ssrWord ssr 0x48, biasIds := valuesOf 4 1024 (ssr.drop 0x4100),
    biasVals := valuesOf 2 1024 (ssr.drop 0x5100), nbias := ssrField ssr 0x40 4, bovf := ssrWord ssr 0x4C }

/-- A record with its tables, STEP and LAST replaced (13 R291). -/
def ssrWith (ssr : List Byte) (t : Tables) (step : Nat) (last : W32) : List Byte :=
  ssr.take 0x10 ++ leBytes 8 step ++ (ssr.drop 0x18).take 0x28 ++ leBytes 4 t.nbias ++ leBytes 4 last.toNat ++
    leBytes 4 t.covf.toNat ++ leBytes 4 t.bovf.toNat ++ (ssr.drop 0x50).take 0xB0 ++ t.counts.flatMap (leBytes 4) ++
    t.biasIds.flatMap (leBytes 4) ++ t.biasVals.flatMap (leBytes 2) ++ ssr.drop 0x5900

/-! ### The draw -/

/-- One pass of the radix select (13 R288): the bin reached going down from bin `b`, and the need left. -/
def radixBin (digits : List Nat) : Nat → Nat → Nat × Nat
  | 0, need => (0, need)
  | b + 1, need =>
    let h := (digits.filter (· == b + 1)).length
    if need ≤ h then (b + 1, need) else radixBin digits b (need - h)

/-- The key of the `need`-th largest, by four passes (13 R288). -/
def radixSelect (keys : List Nat) : Nat → Nat → Nat → Nat
  | 0, _, pfx => pfx
  | n + 1, need, pfx =>
    let sh := 8 * n
    let live := keys.filter fun k => k / 2 ^ (sh + 8) == pfx
    let r := radixBin (live.map fun k => k / 2 ^ sh % 256) 255 need
    radixSelect keys n r.2 (pfx * 256 + r.1)

/-- A candidate put in its place: key descending, then identifier ascending. -/
def insertCand (x : Nat × Nat) : List (Nat × Nat) → List (Nat × Nat)
  | [] => [x]
  | y :: ys => if y.2 < x.2 ∨ (y.2 = x.2 ∧ x.1 < y.1) then x :: y :: ys else y :: insertCand x ys

/-- `topk` of 13 R288: token and key of each candidate, in order. -/
def topk (elig : List (Nat × Nat)) (k : Nat) : List (Nat × Nat) :=
  let kk := min k elig.length
  let thr := radixSelect (elig.map Prod.snd) 4 kk 0
  let a := elig.filter fun x => decide (thr < x.2)
  let q := (elig.filter fun x => x.2 == thr).take (kk - a.length)
  (a ++ q).foldl (fun l x => insertCand x l) []

/-- The generator (13 R291). -/
def drawRound (rc : W32) (x : W32 × W32 × W32 × W32) : W32 × W32 × W32 × W32 :=
  let a := x.1 + x.2.1
  let d := rotl32 (x.2.2.2 ^^^ a) 16
  let c := x.2.2.1 + d
  let b := rotl32 (x.2.1 ^^^ c) 12
  let a := a + b
  let d := rotl32 (d ^^^ a) 8
  let c := c + d
  let b := rotl32 (b ^^^ c) 7
  (a + rc, b, c, d)

def drawWord (ssr : List Byte) (j : Nat) : W32 :=
  let x := (ssrWord ssr 0 ^^^ ssrWord ssr 0x3C, ssrWord ssr 4 ^^^ ssrWord ssr 0x10, ssrWord ssr 8 ^^^ ssrWord ssr 0x14,
    ssrWord ssr 12 ^^^ BitVec.ofNat 32 j)
  let y := drawRound 0x78DDE6E4 (drawRound 0xDAA66D2B (drawRound 0x3C6EF372 (drawRound 0x9E3779B9 x)))
  y.1 ^^^ y.2.2.1

/-- `uf` of 13 R291, exact. -/
def unitOf24 (w : W32) : W32 := (roundVal .f32 .rn false (.fin false (w.toNat / 256) (-24))).1

/-- Running sums of the softmax terms (13 R287). -/
def runningSums : W32 → List W32 → List W32
  | _, [] => []
  | s, e :: es =>
    let t := sAdd s e
    t :: runningSums t es

/-- F32 order of values that are no NaN. -/
def f32lt (a b : W32) : Bool := decide (fpKey .f32 a < fpKey .f32 b)

/-- The kept candidates of a vector (13 R287-R289): token, softmax term and running sum of each; empty when no token is
eligible. With TOPP = 1.0 every candidate is kept (R289; DEDUCED, log 98). -/
def keptCands (ssr : List Byte) (w : List W32) : List (Nat × W32 × W32) :=
  let v := ssrField ssr 0x18 4
  let k := ssrField ssr 0x24 4
  let vals := (indexed 0 (w.take v)).filter fun x => !isNan .f32 x.2 && x.2 != 0xFF800000
  let vals := vals.map fun x => (x.1, if x.2 = 0x7F800000 then (0x7F7FFFFF : W32) else x.2)
  let cand := topk (vals.map fun x => (x.1, key32 x.2)) (if k = 0 then 1024 else k)
  let value (t : Nat) : W32 := ((vals.find? fun x => x.1 == t).map Prod.snd).getD 0
  match cand with
  | [] => []
  | c0 :: _ =>
    let m := value c0.1
    let es := cand.map fun x => sExp (sMul (sSub (value x.1) m) log2e)
    let pre := runningSums 0 es
    let limit := sMul (ssrWord ssr 0x28) (pre.getLastD 0)
    let n :=
      if ssrWord ssr 0x28 = 0x3F800000 then pre.length
      else
        match pre.findIdx? fun p => !f32lt p limit with
        | some i => i + 1
        | none => pre.length
    ((cand.map Prod.fst).zip (es.zip pre)).take n

/-- `pick` of 13 R291. -/
def pickToken (ssr : List Byte) (kept : List (Nat × W32 × W32)) (j : Nat) : Nat :=
  let s' := ((kept.getLast?).map fun x => x.2.2).getD 0
  let t := sMul (unitOf24 (drawWord ssr j)) s'
  if bitAt (ssrField ssr 0x2C 4) 1 then (kept.head?.map Prod.fst).getD 0
  else
    match kept.find? fun x => f32lt t x.2.2 with
    | some x => x.1
    | none => ((kept.getLast?).map Prod.fst).getD 0

/-- The status code and the token of a command (13 R290, R291). -/
def chooseToken (ssr : List Byte) (verify : Bool) (d : Nat) (q : W32) (kept : List (Nat × W32 × W32)) : Nat × Nat :=
  if !verify then (0, pickToken ssr kept 0)
  else
    let s' := ((kept.getLast?).map fun x => x.2.2).getD 0
    let accepted :=
      if bitAt (ssrField ssr 0x2C 4) 1 then kept.head?.any fun x => x.1 == d
      else kept.any fun x => x.1 == d && f32lt (sMul (sMul (unitOf24 (drawWord ssr 0)) q) s') x.2.1
    if ssrField ssr 0x1C 4 ≤ d then (4, pickToken ssr kept 1)
    else if ssrField ssr 0x18 4 ≤ d then (3, pickToken ssr kept 1)
    else if accepted then (1, d)
    else (2, pickToken ssr kept 1)

/-! ### The run -/

/-- What a command writes: the record's new bytes when it is updated, TOKEN and STATUS. -/
structure SmplResult where
  ssr : Option (List Byte)
  token : Nat
  status : Nat
deriving DecidableEq, Repr

/-- A failing command (13 R284, R285). FIDX has bits 15:8 of STATUS (R281), so an index of 256 reads 0 there (DEDUCED,
log 98). -/
def smplFails (code fidx : Nat) : SmplResult := ⟨none, 0xFFFFFFFF, fidx % 256 * 256 + code⟩

/-- The result from the inputs (13 R287-R292). -/
def smplResult (ssr : List Byte) (verify : Bool) (d : Nat) (q : W32) (logits : List W32) (prog : List Nat) : SmplResult :=
  let env : FawnEnv := ⟨(valuesOf 4 16 (ssr.drop 0x80)).map (BitVec.ofNat 32), ssrWord ssr 0x20⟩
  let ran : Except Nat (List W32 × Tables) :=
    if prog.isEmpty then .ok (logits, ssrTables ssr)
    else
      match fawnProgram env prog logits (ssrTables ssr) with
      | .error i => .error i
      | .ok st => .ok (st.w, st.tables)
  match ran with
  | .error i => smplFails 0x12 i
  | .ok (w, t) =>
    let kept := keptCands ssr w
    if kept.isEmpty then smplFails 0x10 0
    else
      let r := chooseToken ssr verify d q kept
      let t' := if bitAt (ssrField ssr 0x2C 4) 0 then t.countInc r.2 else t
      ⟨some (ssrWith ssr t' ((ssrField ssr 0x10 8 + 1) % 2 ^ 64) (BitVec.ofNat 32 r.2)), r.2, r.1⟩

/-- The cells of bytes that differ from what stands there. -/
def changedCells (locs : List Nat) (old new : List Byte) : List Host.Cell :=
  ((locs.zip (old.zip new)).filter fun x => x.2.1 != x.2.2).map fun x => (x.1, x.2.2)

/-- A command over: its writes, its landing and its count (13 R284). -/
def endSmpl (s : State) (x : SmplCmd) (ssr : List Byte) (r : SmplResult) : State :=
  let rx := extentLocs x.result
  let new := match r.ssr with
    | some bs => changedCells (extentLocs x.ssr) ssr bs
    | none => []
  let t := (s.writeHome new).writeHome ((rx.drop 8).zip (leBytes 4 r.token ++ leBytes 4 r.status))
  let u : State := { t with smpls := t.smpls.filter fun y => !(y.uid == x.uid) }
  let v := match x.bar with
    | some b => u.land x.who.team b 16
    | none => u
  v.modThread x.who Thread.doneAs

/-- The logits as F32 (13 R287). -/
def logitsOf (bf16 : Bool) (bs : List Byte) : List W32 :=
  if bf16 then (valuesOf 2 (bs.length / 2) bs).map fun w => BitVec.ofNat 32 (w * 65536) else wordsOf bs

/-- The locations of the record and, in verify mode, of DRAFT and Q (13 R284). -/
def SmplCmd.inputs (x : SmplCmd) : List Nat :=
  extentLocs x.ssr ++ if x.verify then (extentLocs x.result).take 8 else []

/-- The run of a command whose header and q are well formed (13 R284, R285); `none` while it waits for an array in
retention. -/
def smplWith (s : State) (c : Cx) (x : SmplCmd) (ssr res : List Byte) : Option (Out State) :=
  let vpad := ssrField ssr 0x1C 4
  let plen := ssrField ssr 0x38 4
  match engineRange s c x.priv .engineRead x.logits (vpad * if x.bf16 then 2 else 4),
      engineRange s c x.priv .engineRead (BitVec.ofNat 64 (ssrField ssr 0x30 8)) (4 * plen) with
  | .error none, _ => none
  | .error (some f), _ => some (.fault f)
  | .ok _, .error none => none
  | .ok _, .error (some f) => some (.fault f)
  | .ok (some ls), .ok (some ps) =>
    let t := (s.found (ls ++ ps)).readL2 0 (ls ++ ps)
    some (.next (if x.flaw || anyPoison t (x.inputs ++ ls ++ ps) then endSmpl t x ssr (smplFails 0x15 0)
      else
        endSmpl t x ssr (smplResult ssr x.verify (leNat (res.take 4)) (BitVec.ofNat 32 (leNat ((res.drop 4).take 4)))
          (logitsOf x.bf16 (homeBytes t x.priv 0 ls)) (valuesOf 4 plen (homeBytes t x.priv 0 ps)))))
  | _, _ => some (.next (endSmpl s x ssr (smplFails 0x14 0)))

/-- q is a NaN, not above +0, or above 1.0 (13 R285). -/
def qBad (q : W32) : Bool := isNan .f32 q || fpSign .f32 q || fpMag .f32 q == 0 || decide (0x3F800000 < q.toNat)

/-- SAMPLER_RUN (13 R284): the stores before the command are performed, and the thread's earlier commands on the record
have taken effect (R293). -/
def runSampler (s : State) (uid : Nat) : Option (Out State) :=
  match s.smpls.find? fun x => x.uid == uid with
  | none => none
  | some x =>
    match s.viewOf x.who with
    | none => none
    | some c =>
      if marked s c.t.core x.mark ∨ sleeping s (extentLocs x.ssr ++ extentLocs x.result) ∨
          s.smpls.any fun y => y.who == x.who && decide (y.uid < x.uid) && y.ssr == x.ssr then none
      else
        let t := (s.found x.inputs).readL2 0 x.inputs
        let ssr := homeBytes t x.priv 0 (extentLocs x.ssr)
        let res := homeBytes t x.priv 0 (extentLocs x.result)
        if headerBad ssr then some (.next (endSmpl t x ssr (smplFails 0x11 0)))
        else if x.verify && qBad (BitVec.ofNat 32 (leNat ((res.drop 4).take 4))) then
          some (.next (endSmpl t x ssr (smplFails 0x13 0)))
        else smplWith t c x ssr res

end Sys2Proof.Machine
end

