-- ==== Sys2Proof/Machine/EngineEvents.lean ====
section
/-! DEFINITION. The events of the copy engines, of the Eland die and of the samplers, as instructions of the
table. -/

namespace Sys2Proof.Machine

/-- COPY_START (11 R230). -/
def execCopyStart (uid : Nat) (s : State) : Out State := event s (startCopy s uid)
/-- GRANULE_LANDING (11 R238). -/
def execGranuleLanding (uid plane off len : Nat) (s : State) : Out State := event s (landGranule s uid plane off len)
/-- COPY_COMPLETE (11 R230). -/
def execCopyComplete (uid : Nat) (s : State) : Out State := event s (completeCopy s uid)
/-- SAMPLER_RUN (13 R284). -/
def execSamplerRun (uid : Nat) (s : State) : Out State := eventOut s (runSampler s uid)
/-- APPEND_ACCEPT (17 R357). -/
def execAppendAccept (team tid : Nat) (s : State) : Out State := eventOut s (answerAppend s team tid)
/-- APPEND_WRITE (17 R358). -/
def execAppendWrite (uid : Nat) (s : State) : Out State := event s (writeAppend s uid)
/-- GATE_PASSAGE (17 R362). -/
def execGatePassage (uid : Nat) (s : State) : Out State := event s (passGate s uid)
/-- ATTENTION_SCAN (17 R367). -/
def execAttentionScan (uid : Nat) (s : State) : Out State := eventOut s (scanAttn s uid)

end Sys2Proof.Machine
end

