-- ==== Sys2Proof/Machine/Float.lean ====
section
/-! DEFINITION. The floating-point group, OP 0x10 (04 R85-R87), the special functions, OP 0x11 (R88, R89), and the
conversion group, OP 0x12 (R90-R95). -/

namespace Sys2Proof.Machine

/-- One source on the type MOD names, read through flush_src, with each half of a packed type apart (04 R85). -/
def floatOne (s : State) (c : Cx) (f : Fields) (op : Fmt → Bool → W32 → W32 × FpFlags) : Eff :=
  let t := typeFmt f.mod
  .next (s.putFp c f.d.toNat
    (onHalves₁ (typePacked f.mod) (fun a => op t c.ftz (flushSrc t c.ftz a)) (c.v f.a.toNat)))

/-- Two sources (04 R85). -/
def floatTwo (s : State) (c : Cx) (f : Fields) (op : Fmt → Bool → W32 → W32 → W32 × FpFlags) : Eff :=
  let t := typeFmt f.mod
  .next (s.putFp c f.d.toNat
    (onHalves₂ (typePacked f.mod) (fun a b => op t c.ftz (flushSrc t c.ftz a) (flushSrc t c.ftz b))
      (c.v f.a.toNat) (c.v f.b.toNat)))

/-- FADD (04 R85). -/
def execFadd (g : Guard) (f : Fields) (s : State) : Out State :=
  runFull 0x10 0 g f s fun c => floatTwo s c f fun t z => fpAdd t .rn z

/-- FSUB (04 R85). -/
def execFsub (g : Guard) (f : Fields) (s : State) : Out State :=
  runFull 0x10 1 g f s fun c => floatTwo s c f fun t z => fpSub t .rn z

/-- FMUL (04 R85). -/
def execFmul (g : Guard) (f : Fields) (s : State) : Out State :=
  runFull 0x10 2 g f s fun c => floatTwo s c f fun t z => fpMul t .rn z

/-- FFMA (04 R85). -/
def execFfma (g : Guard) (f : Fields) (s : State) : Out State :=
  runFull 0x10 3 g f s fun c =>
    let t := typeFmt f.mod
    let z (w : W32) : W32 := flushSrc t c.ftz w
    .next (s.putFp c f.d.toNat
      (onHalves₃ (typePacked f.mod) (fun a b d => fpFma t .rn c.ftz (z a) (z b) (z d))
        (c.v f.a.toNat) (c.v f.b.toNat) (c.v f.c.toNat)))

/-- FMIN (04 R86). -/
def execFmin (g : Guard) (f : Fields) (s : State) : Out State :=
  runFull 0x10 4 g f s fun c => floatTwo s c f fun t _ => fpMinMax t false

/-- FMAX (04 R86). -/
def execFmax (g : Guard) (f : Fields) (s : State) : Out State :=
  runFull 0x10 5 g f s fun c => floatTwo s c f fun t _ => fpMinMax t true

/-- FCMP (04 R87). -/
def execFcmp (g : Guard) (f : Fields) (s : State) : Out State :=
  runFull 0x10 6 g f s fun c =>
    let x := fpCompare (lowBits f.c 3 3) (flushSrc .f32 c.ftz (c.v f.a.toNat)) (flushSrc .f32 c.ftz (c.v f.b.toNat))
    .next ((s.setP c.r f.d.toNat (combineCond (lowBits f.c 6 2) x.1 (c.p (lowBits f.c 0 3)))).raise c.r x.2)

/-- FDIV (04 R85). -/
def execFdiv (g : Guard) (f : Fields) (s : State) : Out State :=
  runFull 0x10 7 g f s fun c => floatTwo s c f fun t z => fpDiv t .rn z

/-- FSQRT (04 R85). -/
def execFsqrt (g : Guard) (f : Fields) (s : State) : Out State :=
  runFull 0x10 8 g f s fun c => floatOne s c f fun t z => fpSqrt t .rn z

/-- FRCP (04 R88). -/
def execFrcp (g : Guard) (f : Fields) (s : State) : Out State :=
  runFull 0x11 0 g f s fun c => floatOne s c f (specialFn .rcp)

/-- FRSQ (04 R88). -/
def execFrsq (g : Guard) (f : Fields) (s : State) : Out State :=
  runFull 0x11 1 g f s fun c => floatOne s c f (specialFn .rsq)

/-- FEX2 (04 R88). -/
def execFex2 (g : Guard) (f : Fields) (s : State) : Out State :=
  runFull 0x11 2 g f s fun c => floatOne s c f (specialFn .ex2)

/-- FLG2 (04 R88). -/
def execFlg2 (g : Guard) (f : Fields) (s : State) : Out State :=
  runFull 0x11 3 g f s fun c => floatOne s c f (specialFn .lg2)

/-- FSIN (04 R88). -/
def execFsin (g : Guard) (f : Fields) (s : State) : Out State :=
  runFull 0x11 4 g f s fun c => floatOne s c f (specialFn .sin)

/-- FCOS (04 R88). -/
def execFcos (g : Guard) (f : Fields) (s : State) : Out State :=
  runFull 0x11 5 g f s fun c => floatOne s c f (specialFn .cos)

/-- FTANH (04 R88). -/
def execFtanh (g : Guard) (f : Fields) (s : State) : Out State :=
  runFull 0x11 6 g f s fun c => floatOne s c f (specialFn .tanh)

/-- FERF (04 R88). -/
def execFerf (g : Guard) (f : Fields) (s : State) : Out State :=
  runFull 0x11 7 g f s fun c => floatOne s c f (specialFn .erf)

/-- The conversion of 04 R91: at least one type is floating point (02 R48). Only a destination of F32 flushes the source
(03 R58). -/
def convert (s : State) (c : Cx) (d a dst src : Nat) (mode : RMode) : State :=
  match convType src, convType dst with
  | .fp x, .fp y =>
    let w := flushSrc x (c.ftz && y == .f32) (if x = .f32 then c.v a else loHalf (c.v a))
    s.putFp c d (convertFp x y mode c.ftz w)
  | .fp x, .int n nat =>
    let w := if x = .f32 then c.v a else loHalf (c.v a)
    let r := fpToInt x mode n nat w
    (s.putTyped c.r d n r.1).raise c.r r.2
  | .int n nat, .fp y => s.putFp c d (intToFp y mode c.ftz (c.typedInt a n nat))
  | .int _ _, .int _ _ => s

/-- CVT (04 R91). -/
def execCvt (g : Guard) (f : Fields) (s : State) : Out State :=
  runFull 0x12 0 g f s fun c =>
    .next (convert s c f.d.toNat f.a.toNat (lowBits f.c 0 4) (lowBits f.c 4 4) (c.convMode f))

/-- FRND (04 R92). -/
def execFrnd (g : Guard) (f : Fields) (s : State) : Out State :=
  runFull 0x12 1 g f s fun c =>
    match convType (lowBits f.c 0 4) with
    | .fp x =>
      let w := flushSrc x c.ftz (if x = .f32 then c.v f.a.toNat else loHalf (c.v f.a.toNat))
      .next (s.putFp c f.d.toNat (fpRound x (c.convMode f) w))
    | .int _ _ => .next s

/-- The range and width of an integer type code (04 R93). -/
def intCodeWidth (code : Nat) : Nat := 8 * 2 ^ (code % 4)
def intCodeNat (code : Nat) : Bool := decide (4 ≤ code)

/-- I2I (04 R93): trunc and sign- or zero-extension of the destination type, or saturation. -/
def execI2i (g : Guard) (f : Fields) (s : State) : Out State :=
  runFull 0x12 2 g f s fun c =>
    let dst := lowBits f.c 0 4
    let src := lowBits f.c 4 4
    let w := intCodeWidth dst
    let x := c.typedInt f.a.toNat (intCodeWidth src) (intCodeNat src)
    let y : Int :=
      if f.opt then (if intCodeNat dst then satN x w else satI x w)
      else
        let low := (BitVec.ofInt w x).toNat
        if intCodeNat dst then (low : Int) else sextNat low w
    .next (s.putTyped c.r f.d.toNat w y)

/-- The packed format that C names (04 R94). -/
def halfFmt (f : Fields) : Fmt := if lowBits f.c 0 4 = 9 then .f16 else .bf16

/-- PACK (04 R94): sources read unflushed. -/
def execPack (g : Guard) (f : Fields) (s : State) : Out State :=
  runFull 0x12 3 g f s fun c =>
    let t := halfFmt f
    let lo := convertFp .f32 t (c.convMode f) c.ftz (c.v f.a.toNat)
    let hi := convertFp .f32 t (c.convMode f) c.ftz (c.v f.b.toNat)
    .next (s.putFp c f.d.toNat (packHalves lo.1 hi.1, lo.2 ||| hi.2))

/-- UNPACK (04 R94). -/
def execUnpack (g : Guard) (f : Fields) (s : State) : Out State :=
  runFull 0x12 4 g f s fun c =>
    let t := halfFmt f
    let a := c.v f.a.toNat
    let lo := convertFp t .f32 .rn c.ftz (loHalf a)
    let hi := convertFp t .f32 .rn c.ftz (hiHalf a)
    .next ((s.putFp c f.d.toNat lo).putFp c (f.d.toNat + 1) hi)

/-- FCLASS (04 R95). -/
def execFclass (g : Guard) (f : Fields) (s : State) : Out State :=
  runFull 0x12 5 g f s fun c =>
    let t := typeFmt f.mod
    let a := c.v f.a.toNat
    .next (s.setV c.r f.d.toNat
      (if typePacked f.mod then BitVec.ofNat 32 (fpClass t (loHalf a) + 65536 * fpClass t (hiHalf a))
      else BitVec.ofNat 32 (fpClass t a)))

end Sys2Proof.Machine
end

