-- ==== Sys2Proof/Machine/Resume.lean ====
section
/-! DEFINITION. The fault unit's resume actions RETRY, SKIP, HANDLE and END (15 R322-R324), with the commands that a restore
re-issues (R335, R337). -/

namespace Sys2Proof.Machine

/-! ### Re-issued commands -/

/-- The words of an AS record after word 0 (15 R335). -/
def asOperands (words : List Word) : List Word := words.drop 1

/-- A herd record sent as a new request (10 R228, 15 R335); its LD count stands. Kind 6 among the recorded commands. -/
def reissueHerd (s : State) (c : Cx) (w : Nat) (ops : List Word) : Chk State :=
  let take := bitField w 0 4 == 4
  let pat : W32 := (ops.getD 1 0).setWidth 32
  match herdRegion s c (if take then .herdRW else .herdR) (ops.getD 0 0) with
  | .error e => .error e
  | .ok r =>
    let q : HReq := ⟨s.uid, .thread c.r, if take then .tak false else .cpy false, r.num, (ops.drop 2).take 8, pat,
      ops.getD 0 0, c.t.core, 0⟩
    let p : HPend := ⟨s.uid, bitField w 0 4, bitField w 14 10, 2 * patternCount pat, bitField w 24 3,
      if bitAt w 27 then some (bitField w 28 6) else none, r.num, q.fields.getD 0 0, 0⟩
    .ok (s.sendFor c.r q p)

/-- A recorded command checked and translated anew, and queued (15 R335, R337). Its AS count stands. -/
def reissueOne (s : State) (c : Cx) (x : Reissue) : Chk State :=
  let w := (x.words.getD 0 0).toNat
  let ops := asOperands x.words
  let b := bitField w 4 4
  let issue := bitField w 48 16
  let copy (k : Chk CopyCmd) : Chk State :=
    match k with
    | .error e => .error e
    | .ok cmd =>
      let y : CopyCmd := { cmd with uid := s.uid, who := c.r, issue := issue, mark := s.uid, priv := c.th.priv }
      .ok { s.fresh with copies := s.copies ++ [y] }
  let attn (tree : Bool) : Chk State :=
    match attnCommand s c tree (if bitAt w 8 then none else some b) (ops.getD 0 0) (ops.getD 1 0) with
    | .error e => .error e
    | .ok cmd => .ok { s.fresh with attns := s.attns ++ [{ cmd with issue := issue }] }
  match x.kind with
  | 1 => copy (copyCommand s c b (bitAt w 9) (bitAt w 10) (bitAt w 8) (ops.take 3))
  | 2 => copy (planeCopyCommand s c b (bitAt w 9) (ops.take 4))
  | 3 => copy (fillCommand s c (bitField w 16 3) (ops.getD 2 0).toNat (ops.take 3))
  | 4 => attn false
  | 5 => attn true
  | _ => reissueHerd s c w ops

/-- Recorded commands of a thread re-issued in order (15 R337): once one has failed, later AS records wait behind it, and
herd records go on being sent; one that would fail then stays recorded. -/
def reissueList (r : TRef) : List Reissue → Bool → State → Out State
  | [], _, s => .next s
  | x :: xs, stopped, s0 =>
    match s0.viewOf r with
    | none => .next s0
    | some c =>
      if x.failed || (stopped && x.kind != 6) then reissueList r xs true s0
      else
        let s := s0.rouse fun u => reissueOne u c x
        match reissueOne s c x with
        | .ok t => reissueList r xs stopped (t.modThread r fun th => { th with reissue := th.reissue.erase x })
        | .error (.trap t) => reissueList r xs true (if stopped then s else stopReissued s c x t)
        | .error (.fault f) => .fault f
        | .error .wait => .next s

/-- The recorded commands of a thread re-issued. -/
def reissueAll (r : TRef) (s : State) : Out State :=
  match s.thread r with
  | none => .next s
  | some th => reissueList r th.reissue false s

/-- A thread whose failed command is to be issued again (15 R337). -/
def Thread.anew (th : Thread) : Thread := { th with reissue := th.reissue.map fun x => { x with failed := false } }

/-- A thread runs on, or stands as exited again, its recorded commands re-issued first and its QPOP wait looked at
again. -/
def goOn (s : State) (c : Cx) : Out State :=
  let t := s.modThread c.r fun th => { th.anew with run := if th.isOver then .exited else .running, finished := false }
  match reissueAll c.r t with
  | .next u =>
    .next (u.rewait c.r)
  | .fault f => .fault f
  | .refused e => .refused e

/-! ### The actions -/

/-- The threads stopped under a FID, of teams that are resident or not. -/
def stoppedUnder (s : State) (live : Bool) (fid : Nat) : List TRef :=
  (List.range s.teams.length).flatMap fun n =>
    match s.teams[n]? with
    | none => []
    | some t =>
      if t.live = live then
        ((List.range t.threads.length).filter fun i => (t.threads[i]?).any fun th => th.run == .faulted fid).map (⟨n, ·⟩)
      else []

/-- A record of KIND 6 of the die whose thread could not take its action (15 R322, 18 R384). -/
def badAction (s : State) (c : Cx) (fid : Nat) (action : Word) : State :=
  s.postRecord (coreStack c.t.core) 6 c.t.core (BitVec.ofNat 64 fid) action

/-- The failed command of a thread dropped: it leaves its count (15 R337). -/
def dropReissue (s : State) (r : TRef) : State :=
  s.modThread r fun th =>
    match th.reissue.find? Reissue.failed with
    | none => th
    | some x => { (if x.kind = 6 then th.doneLd else th.doneAs) with reissue := th.reissue.erase x }

/-- A thread ends as by EXIT, and its later recorded commands are re-issued (15 R337). -/
def endAndReissue (s : State) (c : Cx) : Out State := reissueAll c.r (exitThread s c.r)

/-- A thread goes on at an address. -/
def Thread.resumeAt (th : Thread) (pc : Word) : Thread := { th with run := .running, wait := .none, pc := pc, since := none }

/-- A thread that goes on at an address, its recorded commands re-issued. -/
def runAt (s : State) (c : Cx) (pc : Word) : Out State :=
  reissueAll c.r (s.modThread c.r fun th => th.resumeAt pc)

/-- RETRY for one thread: of one that a re-issued command stopped, the command is issued again, and the thread goes on in its wait. -/
def retryThread (re : Bool) (s : State) (c : Cx) : Out State := if re then goOn s c else runAt s c c.th.trapPc

/-- SKIP for one thread: END and an error record where the successor cannot be computed; a re-issued command is dropped
and the thread goes on at its saved PC (15 R322, R337). -/
def skipThread (re : Bool) (s0 : State) (c : Cx) (fid : Nat) : Out State :=
  let s := if re then s0 else s0.rouse fun u => successorOf u c c.th.trapPc
  if !re then
    match successorOf s c c.th.trapPc with
    | .ok pc => runAt s c pc
    | .error (.trap _) => endAndReissue (badAction s c fid 1) c
    | .error (.fault f) => .fault f
    | .error .wait => .next s
  else
    let t := dropReissue s c.r
    match t.viewOf c.r with
    | some d => goOn t d
    | none => .next t

/-- HANDLE for one thread (15 R323): END for one that has exited; END and an error record in handler mode; else the
checks of a taken transfer, whose fault leaves the thread stopped under a new record. -/
def handleThread (s0 : State) (c : Cx) (fid : Nat) (va : Word) : Out State :=
  if c.th.finished then goOn s0 c
  else if c.th.hnd then endAndReissue (badAction s0 c fid 2) c
  else
    let s := s0.rouse fun u => checkLanding u c va true
    match checkLanding s c va true with
    | .ok _ =>
      reissueAll c.r (s.modThread c.r fun th => { th.resumeAt va with priv := true, hnd := true })
    | .error (.fault f) => .fault f
    | .error .wait => .next s
    | .error (.trap e) =>
      let t : Trap := { e with va := va, ak := 2 }
      let x := s.postFault c t c.th.trapPc false true
      .next (x.1.modThread c.r fun th => { th with trapCause := t.word, trapVa := va, run := .faulted x.2 })

/-- HANDLE and END of a thread that a re-issued command stopped drop the command first (15 R337). -/
def afterDrop (re : Bool) (k : State → Cx → Out State) (s : State) (c : Cx) : Out State :=
  if !re then k s c
  else
    let t := dropReissue s c.r
    match t.viewOf c.r with
    | some d => k t d
    | none => .next t

/-- END for one thread. -/
def endThreadNow (s : State) (c : Cx) (fid : Nat) (action : Word) : Out State :=
  endAndReissue (if action = 3 then s else badAction s c fid action) c

/-- An operation on each of several threads. -/
def eachThread (k : State → Cx → Out State) : List TRef → State → Out State
  | [], s => .next s
  | r :: rs, s =>
    match s.viewOf r with
    | none => eachThread k rs s
    | some c =>
      match k s c with
      | .next t => eachThread k rs t
      | o => o

/-- An action of a FID (15 R322, R324), `k` told whether a re-issued command had stopped the thread (R337): the fault unit holds its tuple
while a stopped thread is saved, and a FID without stopped threads is dropped. What happened before the deposit of the
tuple happens before what the threads do next, so their cores' L1 lines go. -/
def applyAction (s : State) (fid : Nat) (fits : Word → Bool) (k : Bool → State → Cx → Word → Word → Out State) :
    Option (Out State) :=
  match s.fu.resumes.find? fun r => r.fid == fid && fits r.action with
  | none => none
  | some x =>
    let now := stoppedUnder s true fid
    let saved := !(stoppedUnder s false fid).isEmpty
    if now.isEmpty && saved then none
    else
      let fu : FaultUnit :=
        if saved then s.fu
        else { s.fu with
          records := s.fu.records.filter fun r => !(r.fid == fid)
          resumes := s.fu.resumes.filter fun r => !(r.fid == fid) }
      some (eachThread (fun t c => k c.th.owing (t.dropL1 c.t.core) c x.action x.handler) now { s with fu := fu })

/-- RETRY (15 R322). -/
def execRetry (fid : Nat) (s : State) : Out State :=
  eventOut s (applyAction s fid (· == 0) fun re t c _ _ => retryThread re t c)
/-- SKIP (15 R322). -/
def execSkip (fid : Nat) (s : State) : Out State :=
  eventOut s (applyAction s fid (· == 1) fun re t c _ _ => skipThread re t c fid)
/-- HANDLE (15 R323). -/
def execHandle (fid : Nat) (s : State) : Out State :=
  eventOut s (applyAction s fid (· == 2) fun re t c _ va => afterDrop re (fun u d => handleThread u d fid va) t c)
/-- END (15 R322): also of an action that is none of the four. -/
def execEndThread (fid : Nat) (s : State) : Out State :=
  eventOut s (applyAction s fid (fun a => decide (3 ≤ a.toNat)) fun re t c a _ =>
    afterDrop re (fun u d => endThreadNow u d fid a) t c)

end Sys2Proof.Machine
end

