-- ==== Sys2Proof/Machine/SaveArea.lean ====
section
/-! DEFINITION. The save area byte for byte (15 R331-R336): its sizes, what is written at SAVED, and how a team's area
is read at restore. -/

namespace Sys2Proof.Machine

/-! ### Sizes -/

/-- team_size and launch_size (15 R336). -/
def teamSize (d : Decl) : Nat :=
  roundUp (0xE00 + d.size * (128 + 8 * d.regs) + d.size * 63 * 64 + 64 * 128 + d.park * 256 + d.scr + d.ext + d.tile) 4096
def launchSize (d : Decl) (n : Nat) : Nat := 0x1000 + roundUp (16 * n) 4096 + n * teamSize d

/-! ### Pieces -/

/-- Bytes filled with zeros up to a multiple. -/
def padTo (m : Nat) (l : List Byte) : List Byte := l ++ leBytes (roundUp l.length m - l.length) 0

def wordsBytes (ws : List Word) : List Byte := ws.flatMap fun w => leBytes 8 w.toNat

/-- A list in the order of numbers. -/
def insertByNumber {α : Type} (x : Nat × α) : List (Nat × α) → List (Nat × α)
  | [] => [x]
  | y :: ys => if x.1 < y.1 then x :: y :: ys else y :: insertByNumber x ys
def orderByNumber {α : Type} (l : List (Nat × α)) : List (Nat × α) := l.foldl (fun a x => insertByNumber x a) []

/-- The image of a barrier register (11 R237). -/
def BarReg.image (b : BarReg) : List Byte :=
  leBytes 8 (b.eb * 2 ^ 32) ++
  leBytes 8 (bitNat b.valid 63 + bitNat b.phase 62 + b.ea * 2 ^ 51 + b.ra * 2 ^ 40 + (b.rb % (2 ^ 40 : Nat)).toNat)

/-- The image of a convergence register (15 R332). -/
def ConvReg.image (k : ConvReg) : List Byte :=
  let signed := k.signed.foldl (fun n t => n + 2 ^ (t - k.first)) 0
  let ops := match k.opRec with
    | some r => wordsBytes [r.a, r.b, r.c] ++ leBytes 1 (bitNat r.mmas 0)
    | none => leBytes 25 0
  leBytes 16 (bitNat k.valid 0 + bitNat k.phase 1 + k.first * 2 ^ 10 + k.count * 2 ^ 20) ++ leBytes 128 signed ++ ops ++
    leBytes 23 0

/-- The image of a stream register (15 R332). -/
def StreamReg.image (q : StreamReg) : List Byte :=
  leBytes 8 q.desc.toNat ++ leBytes 8 (bitNat q.valid 0 + q.f * 16 + q.p * 256 + q.r * 4096)

/-- The image of a hardware barrier: count, and phase above it. -/
def HwBar.image (b : HwBar) (bits : Nat) : Nat := b.arrived.length + bitNat b.phase bits

/-- WAITK and its argument (15 R329, R334). -/
def waitRecord (th : Thread) : Nat × Nat :=
  match th.wait with
  | .bar scope num ph => (1, scope + num * 4 + bitNat ph 4)
  | .qpop _ slot _ => (2, slot)
  | _ =>
    match th.reissue.find? fun x => x.kind == 6 with
    | some x => (3, bitField (x.words.getD 0 0).toNat 14 10)
    | none => (0, 0)

/-- The record of a thread (15 R334). -/
def Thread.record (th : Thread) : List Byte :=
  let fid := match th.run with
    | .faulted f => some f
    | _ => none
  let k := waitRecord th
  leBytes 8 th.pc.toNat ++
  leBytes 4 (th.p.toNat + bitNat th.isOver 8 + bitNat fid.isSome 9 + bitNat th.hnd 10 + k.1 * 2 ^ 12) ++
  leBytes 4 (th.fpmode.toNat + th.skew.toNat * 256) ++
  leBytes 4 (th.cntLd + th.cntSt * 2 ^ 8 + th.cntAs * 2 ^ 16 + th.cntMx * 2 ^ 24) ++
  leBytes 4 th.xseq.toNat ++ leBytes 8 k.2 ++
  wordsBytes [th.trapCause, th.trapPc, th.trapVa, BitVec.ofNat 64 (fid.getD 0)] ++ leBytes 64 0 ++
  th.v.flatMap (fun w => leBytes 4 w.toNat) ++ th.tags.flatMap fun t => leBytes 4 (tagWord t).toNat

/-- An AS record (15 R335). -/
def Reissue.asRecord (x : Reissue) : List Byte := padTo 64 (wordsBytes x.words)

/-- A herd record (15 R335). -/
def Reissue.herdRecord (x : Reissue) : List Byte :=
  padTo 256 (padTo 128 (wordsBytes (x.words.take 3)) ++ wordsBytes (x.words.drop 3))

/-- The four operand words of a tile record (15 R335). -/
def TileCmd.operands (x : TileCmd) : List Word :=
  match x.words with
  | [] => [0, 0, 0, 0]
  | [a, b] => [a, 0, b, 0]
  | [a, b, c] => [a, 0, b, c]
  | ws => ws

/-- A tile record (15 R335); `i` is its place in the tile order. -/
def TileCmd.record (x : TileCmd) (i : Nat) : List Byte :=
  padTo 128 (leBytes 8 (x.fn + x.d * 16 + x.tid * 2 ^ 10 + i * 2 ^ 20) ++ wordsBytes x.operands ++
    padTo 48 (wordsBytes x.descs) ++ x.tags.flatMap fun t => leBytes 4 (tagWord t).toNat)

/-- The bytes of locations as they stand. -/
def bytesAt (s : State) (locs : List Nat) : List Byte := locs.map (memGet s.mem)

/-- Herd records in the order of their parking. -/
def parkOrder (xs : List Reissue) : List Reissue :=
  (orderByNumber ((xs.filter fun x => x.kind == 6).map fun x => (x.park, x))).map Prod.snd

/-- A team's area (15 R332, R333); `cbar` is its cluster barrier where the area holds it. -/
def teamArea (s : State) (t : Team) (cbar : HwBar) : List Byte :=
  let recs := t.threads.flatMap Thread.reissue
  let asRecs := recs.filter fun x => x.kind != 6
  let herdRecs := parkOrder recs
  let front := t.x.flatMap (fun w => leBytes 8 w.toNat) ++ t.bars.flatMap BarReg.image ++ t.convs.flatMap ConvReg.image ++
    t.strms.flatMap StreamReg.image ++ wordsBytes t.tdesc ++ t.ttag.flatMap (fun g => leBytes 4 (tagWord g).toNat) ++
    t.hbars.flatMap (fun b => leBytes 8 (b.image 11)) ++ leBytes 8 t.fpst.toNat ++ leBytes 88 0 ++
    t.threads.flatMap Thread.record
  let sections := [asRecs.flatMap Reissue.asRecord, (indexed 0 t.withdrawn).flatMap fun x => x.2.record x.1,
    herdRecs.flatMap Reissue.herdRecord, bytesAt s t.scrLocs, bytesAt s t.extLocs, bytesAt s t.tilesLocs]
  let laid := sections.foldl (fun (a : List Byte × List Nat) x =>
    let l := padTo 128 a.1
    (l ++ x, a.2 ++ [256 + l.length])) (front, [])
  let head := wordsBytes [BitVec.ofNat 64 t.index, t.rdw] ++ leBytes 4 asRecs.length ++ leBytes 4 t.withdrawn.length ++
    leBytes 4 herdRecs.length ++ leBytes 4 0 ++ laid.2.flatMap (leBytes 8 ·) ++ leBytes 8 (256 + laid.1.length) ++
    leBytes 8 (cbar.image 16) ++ leBytes 160 0
  head ++ laid.1

/-- The pieces of a team's area in which poison is kept granule by granule (07 R162): where each stands in the area, and
its locations in the team's partitions. -/
def imagePieces (offset : Nat → Nat) (t : Team) : List (Nat × List Nat) :=
  [(offset 0x38, t.scrLocs), (offset 0x40, t.extLocs), (offset 0x48, t.tilesLocs)]

/-- The locations of an area that take poison at a save: images of poisoned or uncorrectable bytes, and registers in which
an error stands. -/
def areaPoison (s : State) (t : Team) (base : Nat) (bytes : List Byte) : List Nat :=
  let offset (off : Nat) : Nat := leNat ((bytes.drop off).take 8)
  let images := (imagePieces offset t).flatMap fun p =>
    if damaged s p.2 then ((indexed 0 p.2).filter fun x => damaged s [x.2]).map fun x => base + p.1 + x.1 else []
  let regs := (declOf t.rdw).regs
  let vectors := (indexed 0 t.threads).flatMap fun y =>
    y.2.flaws.map fun f => base + 0xE00 + y.1 * (128 + 8 * regs) + 0x80 + 4 * f.1
  images ++ vectors ++ t.xflaws.map fun f => base + 0x100 + 8 * f.1

/-- The head of a launch's area and its table (15 R331); team areas stand at the given offsets. -/
def launchHead (l : Launch) (image : Nat) (table : List (Nat × Nat)) : List Byte :=
  padTo 4096 (wordsBytes ([1, BitVec.ofNat 64 l.seq] ++ l.tuple) ++ leBytes 4 table.length ++ leBytes 4 l.ret ++
    leBytes 8 (if l.decl.coop then l.lbar.image 32 else 0) ++ (List.range 512).map (Config.tdImage image)) ++
  table.flatMap fun x => leBytes 8 x.1 ++ leBytes 8 x.2

/-! ### Reading an area -/

/-- A little-endian value of an area. -/
def areaNat (s : State) (a n : Nat) : Nat := memNat s.mem a n
def areaWord (s : State) (a : Nat) : Word := BitVec.ofNat 64 (memNat s.mem a 8)

/-- A tag word read; what the model keeps of the planes a register was read from stays with an unchanged register and
tag. -/
def readTag (w : Nat) (same : Bool) (kept : Tag) : Tag :=
  if same && decide (w = (tagWord kept).toNat) then kept
  else { pval := bitAt w 5, pcnt := BitVec.ofNat 5 (w % 32), sig := BitVec.ofNat 16 (w / 65536) }

/-- The members that had arrived stand as arrived (15 R329); a changed count keeps as many as it says. -/
def readHwBar (kept : HwBar) (w bits : Nat) : HwBar :=
  { arrived := kept.arrived.take (w % 2 ^ bits), phase := bitAt w bits }

def readBar (s : State) (a : Nat) : BarReg :=
  let lo := areaNat s a 8
  let hi := areaNat s (a + 8) 8
  let rb : Nat := hi % 2 ^ 40
  { valid := bitAt hi 63, phase := bitAt hi 62, ea := bitField hi 51 11, ra := bitField hi 40 11,
    rb := if rb < 2 ^ 39 then (rb : Int) else (rb : Int) - (2 ^ 40 : Nat), eb := lo / 2 ^ 32 }

/-- A tile-set word as an area gives it, with the specifiers: its res0 bits read zero, TM but for MMAS and a scale tile that
no specifier names among them (00 R5, 12 R263, R264). -/
def readTileSet (mmas : Bool) (specs w : Word) : Word :=
  let tile (keep : Bool) (at_ : Nat) : Word := if keep then 0x3F#64 <<< at_ else 0
  w &&& (0x100003FFFF#64 ||| tile mmas 30 ||| tile (specScs (specs.toNat / 2 ^ 32) == 1) 24 |||
    tile (specScs (specs.toNat % 2 ^ 32) == 1) 18)

/-- Two specifiers as an area gives them (12 R264). -/
def readSpecs (w : Word) : Word := w &&& 0x0001FFFF0001FFFF#64

def readConv (s : State) (a : Nat) (kept : ConvReg) : ConvReg :=
  let w := areaNat s a 8
  let first := bitField w 10 10
  let set := areaNat s (a + 16) 128
  let signed := (List.range (1024 - first)).filterMap fun i => if bitAt set i then some (first + i) else none
  let mmas := bitAt (areaNat s (a + 168) 1) 0
  let specs := readSpecs (areaWord s (a + 152))
  let r : ConvRec := ⟨mmas, readTileSet mmas specs (areaWord s (a + 144)), specs, areaWord s (a + 160)⟩
  { valid := bitAt w 0, phase := bitAt w 1, first := first, count := bitField w 20 11, signed := signed,
    opRec := if signed.isEmpty then none else some r, scale := kept.scale, priv := kept.priv }

/-- A stream register: the res0 bits of its descriptor read zero (11 R245), and the claims of the QPOPs saved with WAITK 2
stand. -/
def readStrm (s : State) (a : Nat) (kept : StreamReg) : StreamReg :=
  let w := areaNat s (a + 8) 8
  { valid := bitAt w 0, desc := areaWord s a &&& 0x00F7FFFFFFFFFFFF#64, f := bitField w 4 4, p := bitField w 8 4, r := bitField w 12 4,
    claims := kept.claims }

/-- The wait a thread resumes (15 R329): the stream and the register of a QPOP are those that the thread waited with. -/
def readWait (k arg : Nat) (kept : Wait) : Wait :=
  if k = 1 then .bar (arg % 4) (arg / 4 % 4) (bitAt arg 4)
  else if k = 2 then
    match kept with
    | .qpop q _ d => .qpop q (arg % 8) d
    | _ => .none
  else .none

/-- A PC as an area gives it (01 R11): bits 47:3; one that names a header names the word after it (log 100). -/
def readPc (w : Word) : Word :=
  let a := w &&& 0x0000FFFFFFFFFFF8#64
  if bitField a.toNat 3 4 = 0 then a + 8 else a

/-- A tile descriptor as an area gives it: its res0 bits read zero (12 R251). -/
def readTdesc (w : Word) : Word := w &&& 0x800000003FFF0FFF#64

/-- TRAPPC as an area gives it (01 R12): the word at which a handler will resume, read as a PC is; else its bits 47:3, so
that the 0 of a thread that never trapped stays 0. -/
def readTrapPc (hnd : Bool) (w : Word) : Word := if hnd then readPc w else w &&& 0x0000FFFFFFFFFFF8#64

/-- A thread read from its record (15 R334). SAVEBASE and PREEMPT are in no record: free values stand there, in the
bits these registers have. -/
def readThread (s : State) (a regs : Nat) (priv : Bool) (free : Nat) (kept : Thread) : Thread :=
  let w := areaNat s (a + 8) 4
  let m := areaNat s (a + 0xC) 4
  let n := areaNat s (a + 0x10) 4
  let flag (b : Nat) : Bool := bitAt w b
  let value (i : Nat) : W32 := BitVec.ofNat 32 (areaNat s (a + 0x80 + 4 * i) 4)
  { pc := readPc (areaWord s a)
    v := (List.range regs).map value
    tags := (List.range regs).map fun i =>
      readTag (areaNat s (a + 0x80 + 4 * regs + 4 * i) 4) (kept.v.getD i 0 == value i) (kept.tags.getD i {})
    flaws := ((List.range regs).filter fun i => s.poisoned (a + 0x80 + 4 * i)).map fun i => (i, true)
    p := BitVec.ofNat 7 w
    fpmode := BitVec.ofNat 3 m
    skew := BitVec.ofNat 4 (m / 256)
    priv := flag 10 || priv
    trapCause := areaWord s (a + 0x20) &&& 0x1FFFF#64
    trapPc := readTrapPc (flag 10 || flag 9) (areaWord s (a + 0x28))
    trapVa := areaWord s (a + 0x30)
    saveBase := Config.freeWord free &&& 0x000FFFFFFFFFF000#64
    preempt := Config.freeWord (free + 1) &&& 0x1FFFFFFFF#64
    cntLd := bitField n 0 6
    cntSt := bitField n 8 6
    cntAs := bitField n 16 6
    cntMx := bitField n 24 6
    xseq := BitVec.ofNat 32 (areaNat s (a + 0x14) 4)
    hnd := flag 10
    run := if flag 9 then .faulted (areaNat s (a + 0x38) 8) else if flag 8 then .exited else .running
    finished := flag 8 && flag 9
    wait := readWait (bitField w 12 4) (areaNat s (a + 0x18) 8) kept.wait
    linkFail := kept.linkFail
    issues := kept.issues }

/-- The bits of the words of an AS record that are not res0, by its kind: those of word 0, of a plane-set descriptor (07
R157), of CPYP's control (11 R235) and of a query word (17 R360); unused words read zero (15 R335). -/
def asMasks (kind : Nat) : List Word :=
  let all : Word := 0xFFFFFFFFFFFFFFFF#64
  0xFFFF03FF000707FF#64 ::
    match kind with
    | 1 => [all, all, all, 0, 0, 0, 0]
    | 2 => [all, 0x1FFFF#64, all, 0xFFF0001FFFFFFFFF#64, 0, 0, 0]
    | 3 => [all, all, 7#64, 0, 0, 0, 0]
    | _ => [0xFFFFFFFCFFFFFFFF#64, all, 0, 0, 0, 0, 0]

/-- The words of an AS record and of a herd record as an area gives them (00 R5, 15 R335); a pattern's res0 bits stand (10
R212). -/
def readAsWords (ws : List Word) : List Word :=
  (ws.zip (asMasks (bitField (ws.getD 0 0).toNat 0 4))).map fun x => x.1 &&& x.2
def readHerdWords (ws : List Word) : List Word := (ws.headD 0 &&& 0x3FFFFFFFF#64) :: ws.tail

/-- Recorded commands with the mark of the one among the thread's kept ones that had failed (log 75). -/
def markFailed (kept xs : List Reissue) : List Reissue :=
  (indexed 0 xs).map fun y => { y.2 with failed := (kept[y.1]?).any Reissue.failed }

/-- The AS and herd records of a team's area, for one thread with its kept ones, in the area's order (15 R335). -/
def readRecords (s : State) (a tid : Nat) (kept : List Reissue) : List Reissue :=
  let as_ := a + areaNat s (a + 0x20) 8
  let hd := a + areaNat s (a + 0x30) 8
  let words (b n : Nat) : List Word := (List.range n).map fun i => areaWord s (b + 8 * i)
  let commands := (List.range (areaNat s (a + 0x10) 4)).filterMap fun i =>
    let w := areaNat s (as_ + 64 * i) 8
    if bitField w 32 10 = tid then
      some ({ kind := bitField w 0 4, words := readAsWords (words (as_ + 64 * i) 8) } : Reissue)
    else none
  let herds := (List.range (areaNat s (a + 0x18) 4)).filterMap fun i =>
    let b := hd + 256 * i
    if bitField (areaNat s b 8) 4 10 = tid then
      some ({ kind := 6, words := readHerdWords (words b 3 ++ words (b + 128) 8), park := i } : Reissue)
    else none
  markFailed (kept.filter fun x => x.kind != 6) commands ++ markFailed (parkOrder kept) herds

/-- The operand words of a command from the four of its tile record (15 R335), in the shape that the command keeps. -/
def tileWords (kept a b c d : List Word) : List Word :=
  match kept with
  | [] => []
  | [_, _] => a ++ c
  | [_, _, _] => a ++ c ++ d
  | _ => a ++ b ++ c ++ d

/-- The res0 bits of a tile command's operand words read zero (00 R5): of TLDP and TREF (12 R260), of MMA and MMAS (R263,
R264), of TEPI's control and plane-set descriptor (R273, R275). -/
def readTileWords (fn : Nat) (ws : List Word) : List Word :=
  match fn, ws with
  | 10, [a, b, c] => [readTileSet false (readSpecs b) a, readSpecs b, c]
  | 11, [a, b, c] => [readTileSet true (readSpecs b) a, readSpecs b, c]
  | 12, [a, b, x, c] =>
    [a, if bitField x.toNat 8 2 = 1 ∧ bitAt x.toNat 15 = false then b &&& 0x1FFFF#64 else b, x &&& 0xFFFFFF0007FC830F#64, c]
  | _, [a, b, x, c] => [a, b &&& 0x1FFFF#64, x &&& 0xFFFFFF#64, c &&& 0xFFFFFF1F#64]
  | _, ws => ws

/-- A tile command read from its record (15 R335). What no record has, the runs of its accesses and its signers, is the
command's as it was withdrawn (log 75). -/
def readTile (s : State) (b : Nat) (kept : TileCmd) : TileCmd :=
  let w := areaNat s b 8
  let word (i : Nat) : Word := areaWord s (b + 8 * i)
  { kept with
    fn := bitField w 0 4
    d := bitField w 4 6
    tid := bitField w 10 10
    words := readTileWords (bitField w 0 4) (tileWords kept.words [word 1] [word 2] [word 3] [word 4])
    descs := (List.range kept.descs.length).map fun i => readTdesc (word (5 + i))
    tags := (indexed 0 kept.tags).map fun y => readTag (areaNat s (b + 88 + 4 * y.1) 4) true y.2 }

/-- The tile commands of a team's area, in tile order (15 R335), of a team that had these withdrawn. -/
def readTiles (s : State) (a : Nat) (kept : List TileCmd) : List TileCmd :=
  let o := a + areaNat s (a + 0x28) 8
  (indexed 0 (kept.take (areaNat s (a + 0x14) 4))).map fun y => readTile s (o + 128 * y.1) y.2

/-- A team read from its area onto a claim (15 R337 step 1); `t` is what the device keeps of it. -/
def readTeam (s : State) (a : Nat) (t : Team) (x : Claim) (priv : Bool) : Team :=
  let regs := (declOf t.rdw).regs
  let each {α β : Type} (l : List α) (off size : Nat) (f : Nat → α → β) : List β :=
    (indexed 0 l).map fun y => f (a + off + size * y.1) y.2
  { t with
    core := x.core
    live := true
    scrBase := x.scr
    extBase := x.ext
    tileBase := x.tile
    x := each t.x 0x100 8 fun b _ => areaWord s b
    xpend := []
    xflaws := ((List.range t.x.length).filter fun i => s.poisoned (a + 0x100 + 8 * i)).map fun i => (i, true)
    bars := each t.bars 0x300 16 fun b _ => readBar s b
    convs := each t.convs 0x400 192 fun b k => readConv s b k
    strms := each t.strms 0xA00 16 fun b k => readStrm s b k
    tdesc := each t.tdesc 0xA80 8 fun b _ => readTdesc (areaWord s b)
    ttag := each t.ttag 0xC80 4 fun b g => readTag (areaNat s b 4) true g
    hbars := each t.hbars 0xD80 8 fun b h => readHwBar h (areaNat s b 8) 11
    fpst := BitVec.ofNat 5 (areaNat s (a + 0xDA0) 8)
    withdrawn := []
    threads := (indexed 0 t.threads).map fun y =>
      let th := readThread s (a + 0xE00 + y.1 * (128 + 8 * regs)) regs priv (s.free + 2 * y.1) y.2
      { th with reissue := readRecords s a y.1 y.2.reissue } }

/-- The partition images of an area, as cells of the partitions of a team (15 R337 step 1). -/
def imageCells (s : State) (a : Nat) (t : Team) : List Host.Cell :=
  (imagePieces (fun off => areaNat s (a + off) 8) t).flatMap fun p => p.2.zip (memBytes s.mem (a + p.1) p.2.length)

/-- The locations of the partitions whose image is poisoned (07 R162). -/
def imagePoison (s : State) (a : Nat) (t : Team) : List Nat :=
  if s.unpoisoned then []
  else
    (imagePieces (fun off => areaNat s (a + off) 8) t).flatMap fun p =>
      ((indexed 0 p.2).filter fun x => s.poisoned (a + p.1 + x.1)).map Prod.snd

end Sys2Proof.Machine
end

