-- ==== Sys2Proof/Machine/Take.lean ====
section
/-! DEFINITION. The team distributors' take, placement, reservation and stealing: TD_TAKE (14 R300, R303, R304, 05 R118,
R119), TEAM_PLACEMENT (05 R111, R117, 16 R349), COOP_RESERVE (05 R120) and STEAL_REQUEST (16 R350). -/

namespace Sys2Proof.Machine

/-! ### Rejection -/

/-- `total div need`, unbounded for no need (05 R119). -/
def capOf (total need : Nat) : Nat := if need = 0 then 2 ^ 64 else total / need

/-- The cooperative capacity of a declaration (05 R119). -/
def coopCapacity (d : Decl) : Nat :=
  let c := [32, 1024 / d.size, 65536 / (d.size * d.regs), capOf 131072 d.scr, capOf 262144 d.ext, capOf 256 d.bars,
    capOf 128 d.convs, capOf 128 d.strms].foldl min (2 ^ 64)
  let perCluster := if d.clus then 4 * min c (capOf 524288 (4 * d.tile)) else min (4 * c) (capOf 524288 d.tile)
  min (384 * perCluster) (capOf 327680 d.park)

/-- The rejection code of a tuple, 0 for none: the lowest that applies (05 R118, 14 R300). -/
def rejection (w : List Word) : Nat :=
  let d := declOf (w.getD 3 0)
  let n := tupleWord w 2
  let entry := tupleWord w 1
  let six := tupleWord w 6
  if 128 * 8 < d.park ∨ 64 * 8192 < d.tile ∨ 8 < d.strms ∨ 8 < d.convs ∨ 16 < d.bars ∨ 128 * 2048 < d.ext ∨
      128 * 1024 < d.scr then 1
  else if 65536 < d.size * d.regs then 2
  else if d.coop ∧ coopCapacity d < n then 3
  else if n = 0 ∨ 0xFFFFFFFF < n then 4
  else if entry % 128 ≠ 8 ∨ 2 ^ 48 ≤ entry ∨ tupleWord w 5 % 8 ≠ 0 ∨ bitField six 37 11 ≠ 0 ∨
      (bitAt six 36 ∧ bitField six 0 12 = 0) ∨ 65536 ≤ tupleWord w 7 then 5
  else if d.clus ∧ 524288 < min 4 n * d.tile then 6
  else 0

/-! ### The take -/

/-- A take with an all-ANY pattern on a kind (10 R212). -/
def anyTake (kind : Nat) : HReq :=
  ⟨0, .record, .tak true, launchRegion, [BitVec.ofNat 64 kind, 0, 0, 0, 0, 0, 0, 0], 0x08000000, 0, 0, 0⟩

/-- A head: its slot, its kind, its tuple. -/
structure Head where
  slot : Nat
  kind : Nat
  tuple : HTuple
deriving DecidableEq, Repr

def Head.cls (h : Head) : Nat := classOf (h.tuple.fields.getD 7 0)

/-- A dispatch slot of a die is free (14 R303). -/
def slotFree (s : State) (die slot : Nat) : Bool := !(s.launches.any fun l => l.hasSlot && l.die == die && l.slot == slot)

/-- The heads of the enabled kinds mapped to free slots of a die (14 R304). A tuple whose field 0 names no queue descriptor,
above 65,535, stays in the region untaken (DESIGN CHOICE, log 109: R300 has such a tuple taken and rejected, and R304 takes
only heads of enabled kinds). -/
def heads (s : State) (die : Nat) : List Head :=
  s.hst.qdescs.filterMap fun q =>
    if q.enabled && q.die == die && slotFree s die q.slot then
      (s.herd.select true (anyTake q.kind)).map fun t => ⟨q.slot, q.kind, t⟩
    else none

/-- The order of (slot, kind). -/
def pairBefore (x y : Nat × Nat) : Bool := decide (x.1 < y.1) || (x.1 == y.1 && decide (x.2 < y.2))

/-- The first of several heads by (slot, kind). -/
def firstHead : List Head → Option Head
  | [] => none
  | h :: hs => some (hs.foldl (fun a b => if pairBefore (b.slot, b.kind) (a.slot, a.kind) then b else a) h)

/-- The head a take takes (14 R304): of the highest class, the first after the last taken, wrapping. -/
def takenHead (hs : List Head) (last : Nat × Nat) : Option Head :=
  let c := hs.foldl (fun m h => max m h.cls) 0
  let top := hs.filter fun h => h.cls == c
  match firstHead (top.filter fun h => pairBefore last (h.slot, h.kind)) with
  | some h => some h
  | none => firstHead top

/-- The heads of other kinds age (14 R304, 10 R216). -/
def ageHeads (h : Herd) (hs : List Head) (c : Nat) : Herd :=
  { h with tuples := h.tuples.map fun x =>
      if hs.any fun y => y.tuple.dep == x.dep && decide (y.cls < c) then
        { x with fields := x.fields.set 7 (ageWord (x.fields.getD 7 0)) }
      else x }

/-- The launch record of a taken tuple (14 R298, R306, R308, R311). -/
def newLaunch (s : State) (die : Nat) (h : Head) : Launch :=
  let q := s.qdesc h.kind
  let w := h.tuple.fields
  let six := tupleWord w 6
  let e := s.work 0 (bitField six 0 12)
  let x0 : Word := if bitAt six 36 then (if bitField six 48 16 % 2 = 0 then e.pb0 else e.pb1) + w.getD 4 0 else w.getD 4 0
  { seq := s.nextSeq, tuple := w, kind := h.kind, ctx := q.ctx, troot := q.troot, priv := q.priv, slot := q.slot,
    die := die, cls := h.cls, x0 := x0 }

/-- What the take does to the work entries (14 R310, R311). -/
def countTake (s : State) (l : Launch) : State :=
  let t := s.modWork (fun e => { e with infl := e.infl + 1 }) l.ids
  if l.gbuf ∧ l.graph ≠ 0 then
    t.modWork (fun e =>
      if l.replay % 2 = 0 then { e with n := l.replay, inf0 := e.inf0 + 1 }
      else { e with n := l.replay, inf1 := e.inf1 + 1 }) [(0, l.graph)]
  else t

/-- The number of an ended launch is given anew, once the counter has returned to it (14 R304): its record goes, and its teams
name no launch. -/
def reuseNumber (s : State) (seq : Nat) : State :=
  { s with
    launches := s.launches.filter fun m => !(m.seq == seq && m.ended)
    teams := if s.launches.any fun m => m.seq == seq && m.ended then
        s.teams.map fun t => if t.seq = seq then { t with seq := 0 } else t
      else s.teams }

/-- TD_TAKE (14 R304): a tuple that carries a cancelled id ends as cancelled, a bad one as rejected. One with an
uncorrectable error in it is discarded (DESIGN CHOICE, log 87). -/
def takeTuple (s : State) (die : Nat) : Option State :=
  let hs := heads s die
  if s.herd.admissionDue launchRegion then none
  else
    match takenHead hs (s.lastTake.getD die (0, 0)) with
    | none => none
    | some h =>
      if s.herd.flaws.any fun x => x.1 == h.tuple.dep then discardTuple s h.tuple.dep 0 0
      else
        let l := newLaunch s die h
        let herd := ((ageHeads s.herd hs h.cls).age (anyTake h.kind) h.tuple).without h.tuple
        let s0 := reuseNumber s s.nextSeq
        let t : State := { s0 with
          herd := herd.tick
          nextSeq := nextNumber s.nextSeq
          lastTake := s.lastTake.set die (h.slot, h.kind)
          launches := s0.launches ++ [l] }
        let u := countTake t l
        let rej := rejection l.tuple
        some (if l.ids.any fun x => (s.work x.1 x.2).can then endLaunch u l.seq 1 0
          else if rej ≠ 0 then
            endLaunch (u.postRecord die 11 0 (BitVec.ofNat 64 l.seq) (BitVec.ofNat 64 rej)) l.seq 2 rej
          else u)

def execTdTake (die : Nat) (s : State) : Out State := event s (takeTuple s die)

/-! ### Placement -/

/-- The die whose TD places a team (16 R349, R350): blocks of 64, even ones the taking die's, a stolen one the other's. -/
def Launch.owner (l : Launch) (index : Nat) : Nat :=
  let b := index / 64
  if (b % 2 == 0) != l.stolen.contains b then l.die else 1 - l.die

/-- A team's state at its start (05 R111). -/
def newTeam (l : Launch) (x : Claim) : Team :=
  let d := l.decl
  let th : Thread :=
    { pc := l.tuple.getD 1 0, v := List.replicate d.regs 0, tags := List.replicate d.regs {},
      fpmode := if d.ftz then 1 else 0, priv := l.priv }
  { seq := l.seq, index := x.index, core := x.core, rdw := l.rdw,
    x := [l.x0, BitVec.ofNat 64 x.index, BitVec.ofNat 64 l.nteams] ++ List.replicate 61 0,
    scrBase := x.scr, extBase := x.ext, tileBase := x.tile, threads := List.replicate d.size th }

/-- The columns of a die all draw above its dispatch threshold (16 R348). -/
def overThreshold (s : State) (die : Nat) : Bool :=
  (List.range 384).all fun p =>
    let r := columnRec s (384 * die + p)
    decide (r.sample.dthr.toNat < r.sample.draw.toNat)

/-- The column of a die with the least measured draw (16 R348). -/
def leastColumn (s : State) (die : Nat) : Nat :=
  (List.range 384).foldl (fun m p =>
    if (columnRec s (384 * die + p)).sample.draw.toNat < (columnRec s (384 * die + m)).sample.draw.toNat then p else m) 0

/-- The column rule of a class 6 or 7 launch (14 R307). A cluster group takes the column's cluster, of which the column's
core is one. -/
def columnAllows (s : State) (l : Launch) (core : Nat) : Bool :=
  let die := coreStack core
  !(decide (6 ≤ l.cls) && l.hasSlot && overThreshold s die) ||
    (if l.decl.clus then core % 384 / 4 == leastColumn s die / 4 else core % 384 == leastColumn s die)

/-- A launch of which the TD has saved a team on the die of a core (14 R307). -/
def Launch.savedOn (s : State) (m : Launch) (core : Nat) : Bool :=
  m.agent == .td && m.saved.any fun n => (s.teams[n]?).any fun t => coreStack t.core == coreStack core

/-- A team that the TD saved comes back before any other team of its class or below is placed on the die, those of its own
launch among them (14 R307). -/
def savedFirst (s : State) (l : Launch) (core : Nat) : Bool :=
  s.launches.any fun m => m.savedOn s core && decide (l.cls ≤ m.cls)

/-- The cores of a cluster group: adjacent, on one cluster, in order of position (05 R114). -/
def onCluster (cores : List Nat) : Bool :=
  match cores with
  | [] => false
  | a :: _ => a % 4 == 0 && cores == (List.range cores.length).map (a + ·)

/-- The team indices that are placed together with one (05 R114). -/
def Launch.groupOf (l : Launch) (first : Nat) : List Nat :=
  if l.decl.clus then (List.range (min 4 (l.nteams - first / 4 * 4))).map (first / 4 * 4 + ·) else [first]

/-- The launch's teams may be placed: it has not ended, is not cancelled, and its placement is not stopped by a
pre-emption of the whole (14 R314, 15 R328). -/
def Launch.placing (l : Launch) : Bool :=
  !l.ended && !l.cancelled && (l.pre == .running || l.onlyTeam.isSome)

/-- Teams that start to exist: their tile bytes read zero (12 R250), their tile file awake for it (log 32), and their cores' L1 lines go, since the take of the
launch was an acquire (14 R304). -/
def startTeams (s : State) (l : Launch) (claims : List Claim) : State :=
  let placed := l.placed ++ claims.map Claim.index
  let teams := (indexed s.uid claims).map fun y => { newTeam l y.2 with order := y.1 }
  let tiles := teams.flatMap Team.tilesLocs
  let t := ({ s with uid := s.uid + claims.length, teams := s.teams ++ teams }.wake tiles).writeHome (tiles.map fun i => (i, 0))
  (claims.foldl (fun u x => u.dropL1 x.core) t).modLaunch l.seq fun l =>
    { l with placed := placed, hasSlot := l.hasSlot && decide (placed.length < l.nteams),
             reserved := l.reserved.filter fun x => !(placed.contains x.index) }

/-- TEAM_PLACEMENT (05 R117): a team, or a whole cluster group, on cores with room; teams of a cooperative launch on
what was reserved for them. -/
def placeTeams (s : State) (seq first : Nat) (cores : List Nat) : Option State :=
  match s.launch? seq with
  | none => none
  | some l =>
    let group := l.groupOf first
    if !l.placing ∨ l.nteams ≤ first ∨ group.any (l.placed.contains ·) ∨ group.length ≠ cores.length ∨
        group.headD 0 ≠ first ∨ (l.decl.clus ∧ !onCluster cores) ∨
        cores.any (fun c => savedFirst s l c || !columnAllows s l c) then none
    else if l.decl.coop then
      let claims := group.filterMap fun i => l.reserved.find? fun x => x.index == i
      if claims.length = group.length ∧ claims.map Claim.core = cores then some (startTeams s l claims) else none
    else if cores.any (fun c => coreStack c != l.owner first) then none
    else (claimAll l.decl (group.zip cores) s.holders).map (startTeams s l)

def execTeamPlacement (seq first : Nat) (cores : List Nat) (s : State) : Out State := event s (placeTeams s seq first cores)

/-- The teams of a launch that are neither placed nor reserved. -/
def Launch.unplaced (l : Launch) : List Nat :=
  (List.range l.nteams).filter fun i => !(l.placed.contains i) && !(l.reserved.any fun x => x.index == i)

/-- The cores of a cooperative launch's cluster groups are clusters' (05 R114). -/
def groupsOnClusters (l : Launch) (xs : List (Nat × Nat)) : Bool :=
  !l.decl.clus || xs.all fun x => x.2 % 4 == x.1 % 4 &&
    xs.all fun y => !(x.1 / 4 == y.1 / 4) || x.2 / 4 == y.2 / 4

/-- COOP_RESERVE (05 R120): every team of the launch that is not placed, in one step. -/
def reserveCoop (s : State) (seq : Nat) (cores : List Nat) : Option State :=
  match s.launch? seq with
  | none => none
  | some l =>
    let want := l.unplaced
    let xs := want.zip cores
    if !l.placing ∨ !l.decl.coop ∨ want.isEmpty ∨ want.length ≠ cores.length ∨ !l.reserved.isEmpty ∨
        !groupsOnClusters l xs ∨ cores.any (fun c => savedFirst s l c || !columnAllows s l c) then none
    else (claimAll l.decl xs s.holders).map fun claims => s.modLaunch seq fun l => { l with reserved := claims }

def execCoopReserve (seq : Nat) (cores : List Nat) (s : State) : Out State := event s (reserveCoop s seq cores)

/-! ### Looking for room -/

/-- Cores for several teams one after another: for each the first of several that has room. -/
def findCores (d : Decl) (cores : List Nat) : List Nat → List Holder → Option (List Nat)
  | [], _ => some []
  | i :: is, hs =>
    match cores.findSome? fun c => (roomFor hs i c d).map fun x => (c, x) with
    | none => none
    | some (c, x) => (findCores d cores is (hs ++ [x.holder d])).map (c :: ·)

/-- Team indices by cluster group (05 R114). -/
def clusterGroups (is : List Nat) : List (List Nat) :=
  ((is.map (· / 4)).eraseDups).map fun q => is.filter fun i => i / 4 == q

/-- Cores for several cluster groups one after another: for each the first cluster of the cores that has room for it whole,
every team at its position (05 R114). -/
def findClusters (d : Decl) (cores : List Nat) : List (List Nat) → List Holder → Option (List Nat)
  | [], _ => some []
  | g :: gs, hs =>
    let tryAt (a : Nat) : Option (List Nat × List Claim) :=
      let cs := g.map fun i => a + i % 4
      if cs.all cores.contains then (claimAll d (g.zip cs) hs).map fun xs => (cs, xs) else none
    match (cores.filter fun c => c % 4 == 0).findSome? tryAt with
    | none => none
    | some (cs, xs) => (findClusters d cores gs (hs ++ xs.map (·.holder d))).map (cs ++ ·)

/-- Cores of a list for several teams of a launch, placed together. -/
def findRoom (s : State) (l : Launch) (cores is : List Nat) : Option (List Nat) :=
  if l.decl.clus then findClusters l.decl cores (clusterGroups is) s.holders else findCores l.decl cores is s.holders

/-- The cores of a die. -/
def dieCores (die : Nat) : List Nat := (List.range 768).map (768 * die + ·)

/-- The first team of a launch that is neither placed nor reserved, among those one die places. -/
def nextTeam (l : Launch) (die : Nat) : Option Nat :=
  firstFrom (fun i => !(l.placed.contains i) && l.owner i == die) l.nteams 0

/-! ### Stealing -/

/-- The blocks of a launch (16 R349). -/
def Launch.blocks (l : Launch) : Nat := (l.nteams + 63) / 64

/-- A team of a block has been placed. -/
def Launch.touched (l : Launch) (b : Nat) : Bool := l.placed.any fun i => i / 64 == b

/-- A launch in a busy slot has an unplaced team in a block that the die's TD owns, also while it drains (14 R303, 15 R328); no
TD owns those of a cooperative launch (16 R349). -/
def Launch.waitsFor (l : Launch) (die : Nat) : Bool :=
  l.hasSlot && !l.decl.coop && (List.range l.blocks).any fun b =>
    l.owner (64 * b) == die && decide ((l.placed.filter fun i => i / 64 == b).length < min 64 (l.nteams - 64 * b))

/-- The blocks of a launch that the other die's TD can grant to a die (16 R350). -/
def Launch.grantable (l : Launch) (die b : Nat) : Bool :=
  decide (b < l.blocks) && l.owner (64 * b) == 1 - die && !l.touched b && !l.stolen.contains b

/-- The die has room for the first team, or group, of a block. -/
def roomForBlock (s : State) (l : Launch) (die b : Nat) : Bool := (findRoom s l (dieCores die) (l.groupOf (64 * b))).isSome

/-- STEAL_REQUEST (16 R350): blocks of which no team is placed pass to the die that asks, which has room for them and no
unplaced block of its own. -/
def stealBlocks (s : State) (die seq : Nat) (blocks : List Nat) : Option State :=
  match s.launch? seq with
  | none => none
  | some l =>
    if 1 < die ∨ blocks.isEmpty ∨ !l.hasSlot ∨ !l.placing ∨ l.pre ≠ .running ∨ l.decl.coop ∨
        s.launches.any (fun m => m.waitsFor die) ∨ !blocks.all (l.grantable die) ∨
        !blocks.all (roomForBlock s l die) then none
    else some (s.modLaunch seq fun l => { l with stolen := l.stolen ++ blocks.eraseDups })

def execStealRequest (die seq : Nat) (blocks : List Nat) (s : State) : Out State := event s (stealBlocks s die seq blocks)

end Sys2Proof.Machine
end

