-- ==== Sys2Proof/Machine/Preempt.lean ====
section
/-! DEFINITION. Pre-emption and restore (15 R326-R338, 14 R307): SAVE and REST, DRAIN_LIMIT_EXPIRY, QUIESCE_COMPLETE,
RESTORE_TEAM, DISPATCH_THRESHOLD_PREEMPT. -/

namespace Sys2Proof.Machine

/-! ### FORCING -/

/-- Word 0 of an AS record (15 R335). -/
def asWord (kind bar : Nat) (nb spd sps : Bool) (strm tid issue : Nat) : Word :=
  BitVec.ofNat 64 (kind + bar * 16 + bitNat nb 8 + bitNat spd 9 + bitNat sps 10 + strm * 2 ^ 16 + tid * 2 ^ 32 +
    issue % 2 ^ 16 * 2 ^ 48)

/-- A withdrawn copy and a withdrawn attention command as recorded commands. -/
def CopyCmd.recorded (x : CopyCmd) : Reissue :=
  { kind := x.kind, words := asWord x.kind x.bar x.nb x.spd x.sps x.strm x.who.tid x.issue :: x.words }
def AttnCmd.recorded (x : AttnCmd) : Reissue :=
  let k := if x.tree then 5 else 4
  { kind := k, words := [asWord k (x.bar.getD 0) x.bar.isNone false false 0 x.who.tid x.issue, x.query, x.recVa] }

/-- The commands that FORCING withdraws: copies not started, attention commands whose passage is not due (15 R330, 17
R362). -/
def CopyCmd.withdraws (x : CopyCmd) (n : Nat) : Bool := x.who.team == n && !x.started
def AttnCmd.withdraws (s : State) (x : AttnCmd) (n : Nat) : Bool := x.who.team == n && x.shut s
def TileCmd.withdraws (x : TileCmd) (n : Nat) : Bool := x.team == n && x.passes == 0 && !x.done

/-- The commands withdrawn from a thread, in issue order. -/
def withdrawnOf (s : State) (r : TRef) : List Reissue :=
  let cs := (s.copies.filter fun x => x.withdraws r.team && x.who == r).map fun x => (x.uid, x.recorded)
  let as_ := (s.attns.filter fun x => x.withdraws s r.team && x.who == r).map fun x => (x.uid, x.recorded)
  (orderByNumber (cs ++ as_)).map Prod.snd

/-- A thread stopped by FORCING (15 R329): a SLEEP ends, a wait in BAR, BARW or QPOP is kept, and any other word that it
waits in is executed again. What its core has queued below the number may happen before its stop. -/
def Thread.force (mark : Nat) (recs : List Reissue) (th : Thread) : Thread :=
  let u := { th with reissue := recs ++ th.reissue, since := some (if th.isOver then th.since.getD mark else mark) }
  if th.run = .running then
    match th.wait with
    | .bar _ _ _ => { u with run := .stopped }
    | .qpop _ _ _ => { u with run := .stopped }
    | _ => { u with run := .stopped, wait := .none }
  else u

/-- An accepted append withdrawn with its reservation, at its place among the team's tile records (17 R358). -/
def saveAppend (s : State) (t : Team) (x : Nat × TileCmd) : State :=
  match x.2.kv with
  | none => s
  | some n =>
    let w := (x.2.words.getD 0 0).toNat
    s.modSeq n fun r =>
      { r with saved := r.saved ++ [⟨t.seq, t.index, x.1, kvLayer w, kvHead w, x.2.blocks, x.2.pages⟩] }

/-- A tile command as a record keeps it: its reservation is kept by its sequence. -/
def TileCmd.recorded (x : TileCmd) : TileCmd := { x with blocks := [], pages := [] }

/-- Every thread of a team stops and every operation not started is withdrawn (15 R329, R330). -/
def forceTeam (s : State) (n : Nat) : State :=
  match s.teams[n]? with
  | none => s
  | some t =>
    let threads := (indexed 0 t.threads).map fun y => Thread.force s.uid (withdrawnOf s ⟨n, y.1⟩) y.2
    let held := s.tiles.filter (·.withdraws n)
    let u : State := { s with
      copies := s.copies.filter fun x => !x.withdraws n
      attns := s.attns.filter fun x => !x.withdraws s n
      tiles := s.tiles.filter fun x => !x.withdraws n
      appends := s.appends.filter fun x => !(x.team == n) }
    (indexed t.withdrawn.length held).foldl (fun v x => saveAppend v t x) (u.modTeam n fun t =>
      { t with threads := threads, withdrawn := t.withdrawn ++ held.map TileCmd.recorded, instances := t.instances.filter fun i => i.failed.isSome })

/-- FORCING, and QUIESCING after it (15 R328): what its tile commands held of the reservation tables is free for the other
teams of their clusters. -/
def forceUnit (s : State) (seq : Nat) : State :=
  match s.launch? seq with
  | none => s
  | some l =>
    let ns := unitTeams s l
    settleClusters ((ns.foldl forceTeam s).modLaunch seq fun l => { l with pre := .quiescing, reserved := [] }) ns

/-- A pre-emption begins (15 R326, R328). A launch that a cancel is ending only awaits its end. -/
def beginPreempt (s : State) (l : Launch) (only : Option Nat) (agent : PreAgent) (force : Bool) (limit area : Nat)
    (pool : Option (Nat × Nat)) : State :=
  if l.cancelled then s.modLaunch l.seq fun l => { l with agent := agent }
  else
    let t := s.modLaunch l.seq fun l =>
      { l with pre := .draining, agent := agent, onlyTeam := only, limit := if limit = 0 then 2 ^ 20 else limit, area := area,
               pool := pool }
    if force then forceUnit t l.seq else t

/-- DRAIN_LIMIT_EXPIRY (15 R328). -/
def expireDrain (s : State) (seq : Nat) : Option State :=
  match s.launch? seq with
  | none => none
  | some l => if l.pre = .draining ∧ !(unitTeams s l).isEmpty then some (forceUnit s seq) else none

def execDrainLimitExpiry (seq : Nat) (s : State) : Out State := event s (expireDrain s seq)

/-! ### SAVE -/

/-- The condition that a request to pre-empt meets first, in the order of 15 R338; 0 when it may begin. -/
def preemptCode (s : State) (seq : Nat) (self : Bool) (room : Launch → Nat → Bool) : Nat :=
  match s.launch? seq with
  | none => 1
  | some l =>
    if self then 6
    else if l.ended then 2
    else if l.pre ≠ .running ∨ l.agent ≠ .none then 4
    else if !room l (liveTeams s seq).length then 3
    else 0

/-- SAVE (15 R338). -/
def execSave (g : Guard) (f : Fields) (s : State) : Out State :=
  runFull 0x00 10 g f s fun c =>
    let id := c.x f.a.toNat
    let seq := id.toNat
    let code := preemptCode s seq (seq == c.la.seq) fun l n => decide (launchSize l.decl n ≤ (c.x f.b.toNat).toNat)
    let pre := c.th.preempt.toNat
    if code ≠ 0 then .next (s.setX c.r f.d.toNat (BitVec.ofNat 64 code))
    else
      let t := s.modThread c.r fun th => { th with wait := .save seq f.d.toNat }
      .here (beginPreempt t (s.launch seq) none (.thread c.r f.d.toNat) (bitAt pre 32) (pre % 2 ^ 32) c.th.saveBase.toNat none)

/-! ### QUIESCING to SAVED -/

/-- A herd request stands at its home: parked, or a deposit on the wait list. -/
def stands (s : State) (p : HPend) : Bool :=
  (s.herd.parked.any fun q => q.uid == p.uid) || s.herd.waiting.any fun q => q.uid == p.uid

/-- An HCAN of one of the thread's requests is on its way (10 R228). -/
def canUnderWay (s : State) (th : Thread) : Bool :=
  s.herd.flying.any fun q =>
    match q.op with
    | .can uid => th.herd.any fun p => p.uid == uid
    | _ => false

/-- What is under way of a team has completed at its home (15 R328, R330): no HCAN of its threads and no admission due
in a region where one of its requests stands (10 R218), and what its core had queued when they stopped, as a FENCE.sc at system
scope has it (08 R186). -/
def teamStill (s : State) (n : Nat) : Bool :=
  teamQuiet s n && (s.teams[n]?).any fun t => !queuedBeforeEnd s t &&
    t.threads.all fun th => th.pend.isEmpty && !canUnderWay s th &&
      th.herd.all fun p => stands s p && !s.herd.admissionDue p.region

/-- The requests of a thread withdrawn from their homes (10 R228, 15 R330): copies and takes become records, and a
waiting deposit is left to complete without a status. It counts toward its core's 64 deposits no more (DESIGN CHOICE, log
108: R218 does not say whether one left by a pre-emption does). -/
def withdrawThread (s : State) (tid : Nat) (th : Thread) : Thread :=
  let recs := (indexed s.uid s.herd.parked).filterMap fun q =>
    (th.herd.find? fun p => p.uid == q.2.uid).map fun p => herdRecord p tid q.2 q.1
  let deposits := (th.herd.filter fun p => decide (p.fn ≤ 1)).length
  { th with reissue := th.reissue.filter (·.kind != 6) ++ recs ++ th.reissue.filter (·.kind == 6), herd := [], cntSt := th.cntSt - deposits }

/-- A team made ready to be written: its x writes visible, but for those of requests whose results never came, and its
parked requests withdrawn. -/
def settleForSave (s : State) (n : Nat) : State :=
  match s.teams[n]? with
  | none => s
  | some t =>
    let mine := t.threads.flatMap fun th => th.herd.map HPend.uid
    let u := s.modTeam n fun t =>
      { ((t.xpend.filter fun w => w.of.isNone).foldl (fun x w => x.putX w.reg w.val) t) with
        xpend := []
        threads := (indexed 0 t.threads).map fun y => withdrawThread s y.1 y.2 }
    { u with
      uid := u.uid + u.herd.parked.length
      herd := { u.herd with parked := u.herd.parked.filter fun q => !(mine.contains q.uid) } }

/-- The cluster barrier that a team's area holds (15 R333). -/
def cbarOf (s : State) (l : Launch) (n : Nat) (t : Team) : HwBar :=
  if l.decl.clus ∧ t.index % 4 = 0 then s.hwBar n 1 0 else {}

/-- The areas of several teams, each at its offset: index, offset, bytes, and the locations that take poison. -/
def teamAreas (s : State) (l : Launch) (base : Nat) : List Nat → List (Nat × Nat × List Byte × List Nat)
  | [] => []
  | n :: ns =>
    match s.teams[n]? with
    | none => teamAreas s l base ns
    | some t =>
      let bytes := teamArea s t (cbarOf s l n t)
      (t.index, base, bytes, areaPoison s t (l.area + base) bytes) :: teamAreas s l (base + teamSize l.decl) ns

/-- The save area of a unit written (15 R331); what passes the installed HBM is written nowhere (log 19). -/
def writeArea (s : State) (l : Launch) (ns : List Nat) : State :=
  let base := 0x1000 + roundUp (16 * ns.length) 4096
  let areas := teamAreas s l base ns
  let head := launchHead l s.free (areas.map fun x => (x.1, x.2.1))
  let t := areas.foldl (fun (u : State) x => u.writeHbm (cellsAt (l.area + x.2.1) x.2.2.1))
    ({ s with free := s.free + 1 }.writeHbm (cellsAt l.area head))
  let bad := (areas.flatMap fun x => x.2.2.2).filter fun a => decide (a < hbmSize)
  if bad.isEmpty then t else t.poisonAt bad

/-- Teams in the order of their indices. -/
def inIndexOrder (s : State) (ns : List Nat) : List Nat :=
  (orderByNumber (ns.map fun n => (((s.teams[n]?).elim 0 Team.index), n))).map Prod.snd

/-- The unit is SAVED (15 R328): the area written, the reservations released, the agent answered. -/
def saveUnit (s : State) (l : Launch) : State :=
  let ns := inIndexOrder s (unitTeams s l)
  let span := span l.area (launchSize l.decl ns.length)
  let locs := ns.flatMap fun n => (s.teams[n]?).elim [] Team.locs
  let t := writeArea ((ns.foldl settleForSave s).wake (locs ++ span)) l ns
  let u := (ns.foldl releaseTeamRoom t).modLaunch l.seq fun l =>
    { l with pre := .saved, saved := ns, image := s.free, reserved := [], hasSlot := l.hasSlot && l.onlyTeam.isSome }
  let v := (u.postRecord l.die 10 0 (BitVec.ofNat 64 l.seq) 0)
  let w := answerAgent v l 0
  match l.agent with
  | .host => { w with hst := { w.hst with lastPre := some l.seq } }
  | _ => w

/-- QUIESCE_COMPLETE (15 R331): also of a launch that drained with teams left unplaced; one with none left ends with its
last retirement (R328). -/
def quiesced (s : State) (seq : Nat) : Option State :=
  match s.launch? seq with
  | none => none
  | some l =>
    let ns := unitTeams s l
    let left := l.onlyTeam.isNone && decide (l.placed.length < l.nteams)
    if (l.pre = .quiescing ∧ ns.all (teamStill s)) ∨ (l.pre = .draining ∧ ns.isEmpty ∧ left = true) then
      some (saveUnit s l)
    else none

def execQuiesceComplete (seq : Nat) (s : State) : Out State := event s (quiesced s seq)

/-! ### Restore -/

/-- Where the table of an area puts a team, if it names it (15 R331). -/
def areaOf (s : State) (area index : Nat) : Option Nat :=
  (firstFrom (fun i => areaNat s (area + 0x1000 + 16 * i) 4 == index) (areaNat s (area + 0x50) 4) 0).map fun i =>
    area + areaNat s (area + 0x1000 + 16 * i + 8) 8

/-- The header of a saved team's area is valid (15 R338). -/
def headerGood (s : State) (l : Launch) (area n : Nat) : Bool :=
  match s.teams[n]? with
  | none => false
  | some t =>
    match areaOf s area t.index with
    | none => false
    | some a =>
      decide (a + teamSize l.decl ≤ hbmSize) && areaNat s a 8 == t.index && areaWord s (a + 8) == l.rdw && decide (areaNat s (a + 0x50) 8 ≤ teamSize l.decl)

/-- The bytes of an area's head, table and team headers. A poisoned one makes the image bad (DESIGN CHOICE, log 101). -/
def areaHeads (s : State) (l : Launch) (area : Nat) : List Nat :=
  span area 0x260 ++ span (area + 0x1000) (16 * l.saved.length) ++
    l.saved.flatMap fun n => ((areaOf s area ((s.teams[n]?).elim 0 Team.index)).map fun a => span a 256).getD []

/-- An area can be restored: it lies in the installed HBM (log 19), its TDIMG is the one this device wrote, and its
headers are valid. -/
def imageGood (s : State) (l : Launch) (area : Nat) : Bool :=
  decide (area + launchSize l.decl l.saved.length ≤ hbmSize) && (List.range 512).all (fun j => memGet s.mem (area + 0x60 + j) == Config.tdImage l.image j) &&
  areaNat s (area + 0x50) 4 == l.saved.length && l.saved.all (headerGood s l area) &&
  !damaged s (areaHeads s l area)

/-- A restore of nothing left is over (15 R337): who asked gets OK. -/
def finishRestore (s : State) (seq : Nat) : State :=
  match s.launch? seq with
  | none => s
  | some l =>
    if l.pre = .restoring ∧ l.saved.isEmpty then
      let t := answerAgent (s.postRecord l.die 10 0 (BitVec.ofNat 64 seq) 1) l 0
      (t.forgetPre seq).modLaunch seq fun l => { l with pre := .running, agent := .none, onlyTeam := none, pool := none }
    else s

/-- A restore begins (15 R337): the launch barrier is read, and the teams are to be placed. -/
def beginRestore (s : State) (l : Launch) (agent : PreAgent) (area : Nat) : State :=
  let w := areaNat s (area + 0x58) 8
  finishRestore (s.modLaunch l.seq fun l =>
    { l with pre := .restoring, agent := agent, area := area,
             lbar := if l.decl.coop then readHwBar l.lbar w 32 else l.lbar }) l.seq

/-- What REST reads of an area: its head, and the heads of the area of a saved launch that it names. -/
def restReads (s : State) (area : Nat) : List Nat :=
  span area 16 ++ (((s.launch? (areaNat s (area + 8) 8)).filter fun l => l.pre == .saved).elim [] fun l => areaHeads s l area)

/-- REST (15 R338). Its reading of the area is an acquire at system scope, whatever it answers: the core's L1 lines go
(R186). An area outside the installed HBM is no image (log 19). -/
def execRest (g : Guard) (f : Fields) (s : State) : Out State :=
  runFull 0x00 11 g f s fun c =>
    let area := c.th.saveBase.toNat
    let put (code : Nat) : Eff := .next ((s.setX c.r f.d.toNat (BitVec.ofNat 64 code)).dropL1 c.t.core)
    if hbmSize < area + 0x1000 then put 5
    else if sleeping s (restReads s area) then .wait
    else if areaNat s area 8 ≠ 1 then put 5
    else
      let seq := areaNat s (area + 8) 8
      match s.launch? seq with
      | none => put 1
      | some l =>
        if l.pre = .running then put 1
        else if l.pre ≠ .saved then put 4
        else if !imageGood s l area then put 5
        else
          let t := s.modThread c.r fun th => { th with wait := .rest seq f.d.toNat }
          .here (beginRestore t l (.thread c.r f.d.toNat) area)

/-- The saved teams that are placed together next (15 R337): those of a cooperative launch whole (log 124). -/
def restoreGroup (s : State) (l : Launch) : List Nat :=
  let index (n : Nat) : Nat := (s.teams[n]?).elim 0 Team.index
  match l.saved with
  | [] => []
  | n :: _ =>
    if l.decl.coop then l.saved
    else if l.decl.clus then l.saved.filter fun m => index m / 4 == index n / 4
    else [n]

/-- The teams that are reserved for in the same step: those of a cooperative launch that no save had placed (DESIGN CHOICE,
log 124: 15 R337 has such a launch restored whole, as 05 R120 reserves it, and its unplaced teams return to placement). -/
def Launch.restoreRest (l : Launch) : List Nat := if l.decl.coop then l.unplaced else []

/-- A location of a team's old partitions as its new ones have it. -/
def relocate (old new : Team) (loc : Nat) : Nat :=
  let move (a b n : Nat) (k : Nat) : Nat := if a ≤ loc ∧ loc < a + n then b + (loc - a) else k
  let d := declOf old.rdw
  move (scratchLoc old.core old.scrBase) (scratchLoc new.core new.scrBase) d.scr
    (move (scratchLoc old.core (0x20000 + old.extBase)) (scratchLoc new.core (0x20000 + new.extBase)) d.ext loc)

/-- An append re-enters with its reservation, if its sequence is still open (17 R358). -/
def reopenAppend (s : State) (t : Team) (place : Nat) (x : TileCmd) : State × TileCmd :=
  match x.kv with
  | none => (s, x)
  | some n =>
    let mine (a : SavedAppend) : Bool := a.seq == t.seq && a.index == t.index && a.place == place
    match (s.seq? n).bind fun r => r.saved.find? mine with
    | none => (s, { x with kv := some 65536 })
    | some a =>
      (s.modSeq n fun r => { r with saved := r.saved.filter fun b => !mine b },
        { x with blocks := a.blocks, pages := a.pages })

/-- The tile commands of a team, as its area gives them, re-enter its new cluster's table in tile order (15 R337 step
2). -/
def reenterTiles (s : State) (n : Nat) (cmds : List TileCmd) (old new : Team) : State :=
  (indexed 0 cmds).foldl (fun (u : State) x =>
    let y := reopenAppend u old x.1 x.2
    let move (e : Extent) : Extent := { e with loc := if x.2.sp then relocate old new e.loc else e.loc }
    let cmd : TileCmd := { y.2 with
      uid := y.1.uid, cluster := coreCluster new.core, team := n, extents := y.2.extents.map (·.map move),
      mark := y.1.uid, migrated := none, skipped := 0 }
    { y.1.fresh with tiles := y.1.tiles ++ [cmd] }) s

/-- The images of a team written onto its claim (15 R337 steps 1 and 2), with their poison (07 R162); the L1 of the core
that resumes the team is invalidated (08 R186). -/
def placeSaved (s0 : State) (l : Launch) (n : Nat) (x : Claim) : State :=
  match s0.teams[n]? with
  | none => s0
  | some t =>
    match areaOf s0 l.area t.index with
    | none => s0
    | some a =>
      let area := span a (areaNat s0 (a + 0x50) 8)
      let s := (s0.wake (area ++ x.locs l.decl)).found area
      let new := { readTeam s a t x l.priv with order := s.uid }
      let bad := imagePoison s a new
      let w := ({ s with free := s.free + 2 * t.threads.length, uid := s.uid + 1, teams := s.teams.set n new }.writeHome
        (imageCells s a new)).dropL1 x.core
      let u := if bad.isEmpty then w else w.poisonAt bad
      let v := if l.decl.clus ∧ t.index % 4 = 0 then
        u.putHwBar n 1 0 (readHwBar (u.hwBar n 1 0) (areaNat s (a + 0x58) 8) 16) else u
      reenterTiles v n (readTiles s a t.withdrawn) t new

/-- A thread of a restored team goes on (15 R337 steps 3 to 5). One that a recorded command had stopped stays so. -/
def resumeThread (s : State) (r : TRef) : Out State :=
  match s.viewOf r with
  | none => .next s
  | some c =>
    match c.th.run with
    | .running => goOn s c
    | _ => reissueAll r s

/-- Every thread of several teams goes on. -/
def resumeAll : List TRef → State → Out State
  | [], s => .next s
  | r :: rs, s =>
    match resumeThread s r with
    | .next t => resumeAll rs t
    | o => o

/-- Another launch has saved teams that come first (14 R307): of a higher class, where this launch too was saved by
the TD, and else of its class at least. -/
def restoredFirst (s : State) (l : Launch) (core : Nat) : Bool :=
  if l.agent = .td then s.launches.any fun m => m.seq != l.seq && m.savedOn s core && decide (l.cls < m.cls)
  else savedFirst s l core

/-- RESTORE_TEAM (15 R337): the next saved team, group or whole launch placed, on any cores with room. The TD resumes
what it saved itself unasked (14 R307). -/
def restoreTeams (s : State) (seq : Nat) (cores : List Nat) : Option (Out State) :=
  match s.launch? seq with
  | none => none
  | some l =>
    let group := restoreGroup s l
    let index (n : Nat) : Nat := (s.teams[n]?).elim 0 Team.index
    let begun := l.pre == .restoring || (l.pre == .saved && l.agent == .td)
    let rest := l.restoreRest
    let xs := (group.map index ++ rest).zip cores
    if l.cancelled then none
    else if l.pre = .saved ∧ l.agent = .td ∧ group.isEmpty then some (.next (beginRestore s l .td l.area))
    else if !begun ∨ group.isEmpty ∨ group.length + rest.length ≠ cores.length ∨ cores.any (fun c => restoredFirst s l c) ∨
        !groupsOnClusters l xs then none
    else
      match claimAll l.decl xs s.holders with
      | none => none
      | some claims =>
        let s0 := if l.pre = .saved then beginRestore s l .td l.area else s
        let t := (group.zip claims).foldl (fun u x => placeSaved u l x.1 x.2) s0
        let u := t.modLaunch seq fun l =>
          { l with saved := l.saved.filter fun n => !(group.contains n), reserved := l.reserved ++ claims.drop group.length }
        let refs : List TRef := group.flatMap fun n =>
          (List.range (((u.teams[n]?).elim 0 fun t => t.threads.length))).map (⟨n, ·⟩)
        if cores.any fun c => 64 < (u.tiles.filter fun x => x.cluster == coreCluster c).length then none
        else
          some (match resumeAll refs u with
            | .next v => .next (finishRestore (settleClusters v group) seq)
            | o => o)

def execRestoreTeam (seq : Nat) (cores : List Nat) (s : State) : Out State := eventOut s (restoreTeams s seq cores)

/-! ### The pool and the dispatch threshold -/

/-- A run of the firmware pool for an area (15 R331). -/
def poolRoom (s : State) (size : Nat) : Option (Nat × Nat) :=
  match s.hst.resv with
  | none => none
  | some r => (firstFit (s.launches.filterMap fun l => l.pool.map fun p => (p.1 - r.poolBase, p.2)) size r.poolSize).map fun o =>
      (r.poolBase + o, size)

/-- The teams resident in the clusters of a column (14 R307). -/
def columnTeams (s : State) (die column : Nat) : List Nat :=
  (List.range s.teams.length).filter fun n =>
    (s.teams[n]?).any fun t => t.live && coreStack t.core == die && t.core % 384 / 4 == column / 4

/-- The class of a team: its launch's (14 R307). -/
def teamClass (s : State) (n : Nat) : Nat := (s.teams[n]?).elim 0 fun t => (s.launch t.seq).cls

/-- When a team was placed, by number. -/
def teamOrder (s : State) (n : Nat) : Nat := (s.teams[n]?).elim 0 Team.order

/-- The team the TD picks: of the least class, the one placed last (14 R307). -/
def pickedTeam (s : State) : List Nat → Option Nat
  | [] => none
  | n :: ns =>
    let after (a b : Nat) : Bool := decide (teamClass s b < teamClass s a) ||
      (teamClass s b == teamClass s a && decide (teamOrder s a ≤ teamOrder s b))
    some (ns.foldl (fun a b => if after a b then b else a) n)

/-- The launch waits in a slot for a placement by the die: of a team, of a cluster group, or of a cooperative launch whole
(05 R114, R120, 16 R349). -/
def Launch.needs (l : Launch) (die : Nat) : Bool :=
  if l.decl.coop then l.hasSlot && l.placing && l.reserved.isEmpty && decide (l.placed.length < l.nteams) else l.placing && l.waitsFor die

/-- The cores that the column rule leaves lack the room for what is to be placed next: a team or cluster group on the die,
or every team of a cooperative launch, which both TDs reserve together (14 R307, 05 R120). -/
def columnFull (s : State) (l : Launch) (die : Nat) : Bool :=
  let cores (all : List Nat) : List Nat := all.filter (columnAllows s l)
  if l.decl.coop then (findRoom s l (cores (List.range 1536)) l.unplaced).isNone
  else
    match nextTeam l die with
    | none => false
    | some i => (findRoom s l (cores (dieCores die)) (l.groupOf i)).isNone

/-- DISPATCH_THRESHOLD_PREEMPT (14 R307): the picked team, or the whole it belongs to, is saved into the pool. -/
def thresholdPreempt (s : State) (die seq team : Nat) : Option State :=
  match s.launch? seq, s.teams[team]? with
  | some l, some t =>
    let column := leastColumn s die
    let m := s.launch t.seq
    let only := if m.decl.coop then none else some t.index
    let size := launchSize m.decl (unitTeams s { m with onlyTeam := only }).length
    if l.cls < 6 ∨ !l.hasSlot ∨ !l.placing ∨ l.pre ≠ .running ∨ !overThreshold s die ∨ !columnFull s l die ∨
        pickedTeam s (columnTeams s die column) ≠ some team ∨ l.cls ≤ m.cls ∨ m.pre ≠ .running ∨ m.agent ≠ .none ∨
        m.ended ∨ m.cancelled ∨ !l.needs die then none
    else (poolRoom s size).map fun p => beginPreempt s m only .td false s.drainLimit p.1 (some p)
  | _, _ => none

def execDispatchThresholdPreempt (die seq team : Nat) (s : State) : Out State := event s (thresholdPreempt s die seq team)

end Sys2Proof.Machine
end

