-- ==== Sys2Proof/Machine/Host.lean ====
section
/-! DEFINITION. The Rykor link and the UALink ports as agents of the device (18 R372-R384): what a host or a remote device
writes, and the failure of a link write. -/

namespace Sys2Proof.Machine

/-! ### Access to the window space -/

/-- Offsets that only a privileged agent may access (18 R372). -/
def needsPrivilege (off : Nat) : Bool :=
  (decide (0x1000 ≤ off) && decide (off ≤ 0xFFFFFF)) || (decide (0x11000000 ≤ off) && decide (off ≤ 0x11FFFFFF)) ||
  (decide (0x100000000 ≤ off) && decide (off ≤ 0xC0FFFFFFFF))

/-- An access that an unprivileged channel may not make: no effect, and a record (18 R372). -/
def refuseHost (s : State) (ag : HostAgent) (off : Nat) (wr : Bool) : State :=
  s.postRecord 0 8 ag.channel.toNat (BitVec.ofNat 64 off) (if wr then 1 else 0)

/-- The request is a window deposit of an agent. -/
def HSrc.isOf (ag : HostAgent) : HSrc → Bool
  | .window _ _ (some ch) => ch == ag.channel.toNat
  | _ => false

/-- A deposit that an agent made through a window has not been performed, its count of drops with it: the agent's later
accesses wait (18 R374). -/
def agentWaits (s : State) (ag : HostAgent) : Bool :=
  (s.herd.flying.any fun q => q.src.isOf ag) || s.herd.done.any fun d => d.src.isOf ag

/-- A read of an agent returns (18 R372, R374). -/
def State.hostAnswer (s : State) (ag : HostAgent) (off : Nat) (bytes : List Byte) (error : Bool := false) : State :=
  { s with answers := s.answers ++ [{ loc := off, bytes := bytes, atomic := false, error := error, agent := some ag.channel }] }

/-- Bytes of compute HBM as an agent beyond the package reads them: an error where they are poisoned (07 R162, log 104);
what it meets in retention leaves it (R163). -/
def State.readOut (s : State) (addr len : Nat) : State × Option (List Byte) :=
  let t := (s.wake (span addr len)).found (span addr len)
  (t, if anyPoison t (span addr len) then none else some (memBytes t.mem addr len))

/-- A write of a privileged agent; another's is refused where the offset lies in CONTROL, REGION or HBM, and has no effect
outside every range. -/
def privileged (s : State) (ag : HostAgent) (off : Nat) (k : Option State) : Option State :=
  if agentWaits s ag then none else if ag.priv then k else if needsPrivilege off then some (refuseHost s ag off true) else none

/-! ### CONTROL -/

/-- PRE (18 R376, 15 R331): the status of the request is read in PRE. -/
def hostPre (s : State) (val : Word) : State :=
  let seq := val.toNat % 2 ^ 48
  let size (l : Launch) (n : Nat) : Nat := launchSize l.decl n
  let code := preemptCode s seq false fun l n => (poolRoom s (size l n)).isSome
  let put (t : State) (w : Nat) (p : Option Nat) : State := { t with hst := { t.hst with pre := BitVec.ofNat 64 w, preSeq := p } }
  let l := s.launch seq
  match poolRoom s (size l (liveTeams s seq).length) with
  | some p =>
    if code = 0 then beginPreempt (put s 0xFF (some seq)) l none .host (bitAt val.toNat 63) s.drainLimit p.1 (some p)
    else put s code none
  | none => put s code none

def execPre (ag : HostAgent) (val : Word) (s : State) : Out State :=
  event s (privileged s ag 0x1000 (some (hostPre s val)))

/-- RES (18 R376): a launch saved in the firmware pool; 0 names that of the last PRE that returned OK. -/
def hostRes (s : State) (val : Word) : State :=
  let seq := if val.toNat % 2 ^ 48 = 0 then s.hst.lastPre.getD 0 else val.toNat % 2 ^ 48
  let put (w : Nat) (p : Option Nat) : State := { s with hst := { s.hst with res := BitVec.ofNat 64 w, resSeq := p } }
  match s.launch? seq with
  | none => put 1 none
  | some l =>
    if l.pre ≠ .saved ∨ l.pool.isNone then put 1 none
    else if areaNat s l.area 8 ≠ 1 ∨ areaNat s (l.area + 8) 8 ≠ seq ∨ !imageGood s l l.area then put 5 none
    else beginRestore (put 0xFF (some seq)) l .host l.area

def execRes (ag : HostAgent) (val : Word) (s : State) : Out State :=
  event s (privileged s ag 0x1008 (some (hostRes s val)))

/-- The bits of a queue descriptor; res0 bits read zero (14 R298). -/
def qdescMask0 : Word := 0x000FFFFFFFFFFFFF#64
def qdescMask1 : Word := 0xC0000000000107FF#64

/-- QDESC_WRITE (18 R377): both words at one point. -/
def writeQdesc (s : State) (kind : Nat) (w0 w1 : Word) : Option State :=
  if 65536 ≤ kind then none
  else
    let others := s.hst.qdescs.filter fun q => !(q.kind == kind)
    some { s with hst := { s.hst with qdescs := ⟨kind, w0 &&& qdescMask0, w1 &&& qdescMask1⟩ :: others } }

def execQdescWrite (ag : HostAgent) (kind : Nat) (w0 w1 : Word) (s : State) : Out State :=
  event s (privileged s ag (0x100000 + 16 * kind) (writeQdesc s kind w0 w1))

/-- A work entry with a field written by the host (18 R376): CAN only clears, and counts are read-only. -/
def WorkEntry.put (e : WorkEntry) (off : Nat) (val : Word) : WorkEntry :=
  match off with
  | 0x08 => { e with can := e.can && bitAt val.toNat 0, ctx := bitField val.toNat 16 12 }
  | 0x10 => { e with pb0 := val }
  | 0x18 => { e with pb1 := val }
  | 0x20 => { e with sz := val }
  | _ => e

/-- WORK_ENTRY_WRITE (18 R377). -/
def writeWork (s : State) (level id off : Nat) (val : Word) : Option State :=
  if 3 ≤ level ∨ id = 0 ∨ 4096 ≤ id then none else some (s.putWork ((s.work level id).put off val))

def execWorkEntryWrite (ag : HostAgent) (level id off : Nat) (val : Word) (s : State) : Out State :=
  event s (privileged s ag (0x200000 + (level * 4096 + id) * 64 + off) (writeWork s level id off val))

/-- A write at an offset of the window space outside the registers that have an event of their own (18 R372, R376):
KVXA and the nonce. -/
def writeControl (s : State) (off : Nat) (val : Word) : Option State :=
  if off = 0x1018 then some { s with hst := { s.hst with kvxa := val &&& 0xFFFFFFFFFFFFF000#64 } }
  else if 0x2000 ≤ off ∧ off < 0x2040 ∧ off % 8 = 0 then
    some { s with hst := { s.hst with nonce := s.hst.nonce.set ((off - 0x2000) / 8) val } }
  else none

/-- HOST_CONTROL_WRITE (18 R376). -/
def execHostControlWrite (ag : HostAgent) (off : Nat) (val : Word) (s : State) : Out State :=
  event s (privileged s ag off (writeControl s off val))

/-- ATTGO (18 R383): a report is begun with the nonce as it stands; ATTREP reads zero until it is written. -/
def beginReport (s : State) (val : Word) : Option State :=
  if val = 1 ∧ s.hst.producing.isNone then
    some { s with hst := { s.hst with producing := some s.hst.nonce, report := [] } }
  else none

def execAttgo (ag : HostAgent) (val : Word) (s : State) : Out State :=
  event s (privileged s ag 0x2040 (beginReport s val))

/-- The bytes of a report that are signed (18 R383): the nonce, the SHA-512 of the running firmware's header, the
versions, and the device's serial number and public key. -/
def reportBody (s : State) (nonce : List Word) : List Byte :=
  nonce.flatMap (fun w => leBytes 8 w.toNat) ++ sha512Of s.boot.header ++ leBytes 2 s.boot.fwver.toNat ++
  leBytes 2 s.boot.fuse.toNat ++ (List.range 148).map Config.identityByte

/-- The bytes of a report with its signature (18 R383). -/
def reportBytes (s : State) (nonce : List Word) : List Byte :=
  let body := reportBody s nonce
  body ++ (List.range 132).map (Config.identitySignature s.free body) ++ leBytes 100 0

/-- REPORT_PRODUCED (18 R383). -/
def produceReport (s : State) : Option State :=
  s.hst.producing.map fun nonce =>
    { s with free := s.free + 1, hst := { s.hst with producing := none, report := reportBytes s nonce } }

def execReportProduced (s : State) : Out State := event s (produceReport s)

/-! ### Windows -/

/-- A write that a window counts as bad (14 R301). -/
def countBad (s : State) (isRegion : Bool) (num : Nat) : State :=
  let w := windowCount s isRegion num
  s.putWindow { w with bad := w.bad + 1 }

/-- A whole TUPLE write's eight fields (14 R301). -/
def tupleOf (data : List Byte) : List Word :=
  (List.range 8).map fun i => BitVec.ofNat 64 (leNat ((data.drop (8 * i)).take 8))

/-- A window's try deposit (14 R301, 18 R373). -/
def windowDeposit (s : State) (agent : Option Nat) (isRegion : Bool) (num region : Nat) (fields : List Word) : State :=
  s.fresh.sendHerd ⟨s.uid, .window isRegion num agent, .dep 0 true, region, fields, 0, 0, 0, 0⟩

/-- DEPOSIT_WINDOW_WRITE (14 R301, 18 R381): field 0 becomes the window's kind, and CLS is clamped. -/
def writeDepositWindow (s : State) (agent : Option Nat) (kind off : Nat) (data : List Byte) : Option State :=
  if 65536 ≤ kind ∨ 4096 ≤ off then none
  else if off ≠ 0 ∨ data.length ≠ 64 ∨ !s.boot.ready then some (countBad s false kind)
  else
    let f := tupleOf data
    let w := f.getD 7 0
    let cls := min (w.toNat % 8) (s.qdesc kind).clsMax
    some (windowDeposit s agent false kind launchRegion
      ((f.set 0 (BitVec.ofNat 64 kind)).set 7 ((w &&& 0xFFFFFFFFFFFFFFF8#64) ||| BitVec.ofNat 64 cls)))

def execDepositWindowWrite (win : DepositWindow) (off : Nat) (data : List Byte) (s : State) : Out State :=
  event s (if agentWaits s win.agent then none else writeDepositWindow s (some win.agent.channel.toNat) win.kind off data)

/-- A write to a region window (18 R373); the fault region is refused to remote devices, which are no agent. -/
def writeRegionWindow (s : State) (agent : Option Nat) (region off : Nat) (data : List Byte) : Option State :=
  if 4096 ≤ region ∨ 4096 ≤ off then none
  else
    let open_ := (s.herd.region? region).any fun r => r.scope == 5
    if off ≠ 0 ∨ data.length ≠ 64 ∨ !s.boot.ready ∨ !open_ ∨ region = launchRegion ∨ (agent = none ∧ region = faultRegion) then
      some (countBad s true region)
    else some (windowDeposit s agent true region region (tupleOf data))

/-- REGION_WINDOW_WRITE (18 R373). -/
def execRegionWindowWrite (ag : HostAgent) (region off : Nat) (data : List Byte) (s : State) : Out State :=
  event s (privileged s ag (0x11000000 + region * 0x1000 + off) (writeRegionWindow s (some ag.channel.toNat) region off data))

/-- A write from outside the package at its home; what it meets in retention leaves it (log 32). -/
def State.hostWrite (s : State) (ws : List Host.Cell) : State := (s.wake (ws.map Prod.fst)).writeHome ws

/-- HOST_HBM_ACCESS (18 R372, R374): a write is performed at its home; a read is answered. -/
def accessHbm (s : State) (ag : HostAgent) (wr : Bool) (addr len : Nat) (data : List Byte) : Option State :=
  if agentWaits s ag ∨ !needsPrivilege (0x100000000 + addr) then none
  else if !ag.priv then
    let t := refuseHost s ag (0x100000000 + addr) wr
    some (if wr then t else t.hostAnswer ag (0x100000000 + addr) (List.replicate len 0))
  else if hbmSize < addr + len then none
  else if wr then (if len = data.length then some (s.hostWrite (cellsAt addr data)) else none)
  else
    let r := s.readOut addr len
    some (r.1.hostAnswer ag (0x100000000 + addr) (r.2.getD []) r.2.isNone)

def execHostHbmAccess (ag : HostAgent) (wr : Bool) (addr len : Nat) (data : List Byte) (s : State) : Out State :=
  event s (accessHbm s ag wr addr len data)

/-! ### Remote devices -/

/-- Where a device's physical space has its windows (18 R379). -/
def depositBase : Nat := 0x000FFF0000000000
def regionBase : Nat := 0x000FFE0000000000

/-- A response to a remote device. -/
def State.answer (s : State) (addr : Nat) (bytes : List Byte) (atomic : Bool) : State :=
  { s with answers := s.answers ++ [{ loc := addr, bytes := bytes, atomic := atomic }] }
def State.answerError (s : State) (addr : Nat) (atomic : Bool) : State :=
  { s with answers := s.answers ++ [{ loc := addr, bytes := [], atomic := atomic, error := true }] }

/-- The byte of a window's read side (14 R301). -/
def windowByte (s : State) (isRegion : Bool) (off : Nat) : Byte :=
  let w := windowCount s isRegion (off / 4096)
  (leBytes 64 0 ++ leBytes 4 w.drops.toNat ++ leBytes 4 w.bad.toNat).getD (off % 4096) 0

/-- The byte that a remote device reads (18 R379): of compute HBM or of a window; elsewhere zero. -/
def remoteByte (s : State) (addr : Nat) : Byte :=
  if addr < hbmSize then memGet s.mem addr
  else if depositBase ≤ addr ∧ addr < depositBase + 0x10000000 then windowByte s false (addr - depositBase)
  else if regionBase ≤ addr ∧ addr < regionBase + 0x1000000 then windowByte s true (addr - regionBase)
  else 0

/-- A remote write: to compute HBM, its enabled bytes; or to a window, which takes a full write alone (18 R373, R378,
R379). -/
def remoteWrite (s : State) (addr : Nat) (bytes : List Byte) (enables : List Bool) : Option State :=
  let full := enables.isEmpty || enables.all id
  let data := if full then bytes else []
  if addr + bytes.length ≤ hbmSize then
    some (s.hostWrite (if full then cellsAt addr bytes
      else ((cellsAt addr bytes).zip enables).filterMap fun x => if x.2 then some x.1 else none))
  else if depositBase ≤ addr then writeDepositWindow s none ((addr - depositBase) / 4096) ((addr - depositBase) % 4096) data
  else if regionBase ≤ addr then writeRegionWindow s none ((addr - regionBase) / 4096) ((addr - regionBase) % 4096) data
  else none

/-- A remote atomic at its home (18 R379, 09 R201, R202): a returning one is answered with the old value, or with an error
where that is poisoned, which then stands; a reduction leaves the poison (07 R162, log 104). -/
def remoteRmw (s : State) (returning : Bool) (op ty addr : Nat) (compare : Bool) (v cmp : Word) : Option State :=
  let size := atomicSize ty
  if hbmSize < addr + size then none
  else
    let r := s.readOut addr size
    let old := memBytes s.mem addr size
    if returning ∧ r.2.isNone then some (r.1.answerError addr true)
    else
      let t := if returning then r.1.answer addr old true else r.1
      match atomicWrites op ty (BitVec.ofNat 64 (leNat old)) v cmp compare with
      | none => some t
      | some w => some (r.1.keepDamage (t.writeHome (cellsAt addr (leBytes size w.toNat))) (span addr size))

/-- A request that the device does not support is refused with an error response, and an error record is posted (18
R378); the record's fields are the model's (log 70). -/
def refuseRemote (s : State) (addr : Nat) : State :=
  (s.postRecord 0 7 (s.boot.ports.headD 0) 0 0).answerError addr false

/-- REMOTE_REQUEST (18 R378, R379): over a port that is up. -/
def serveRemote (s : State) (req : RemoteReq) : Option State :=
  if s.boot.ports.isEmpty then none
  else
    match req with
    | .read addr len =>
      if 256 < len then some (refuseRemote s addr)
      else if hbmSize ≤ addr then some (s.answer addr ((span addr len).map (remoteByte s)) false)
      else
        let r := s.readOut addr len
        some (if r.2.isNone then r.1.answerError addr false else r.1.answer addr ((span addr len).map (remoteByte r.1)) false)
    | .write addr data enables => if 256 < data.length then some (refuseRemote s addr) else remoteWrite s addr data enables
    | .atomic returning op ty compare addr v cmp => remoteRmw s returning op.toNat ty.toNat addr compare v cmp
    | .unsupported => some (refuseRemote s 0)

def execRemoteRequest (req : RemoteReq) (s : State) : Out State := event s (serveRemote s req)

/-- LINK_FAILURE (18 R380): a write or non-returning atomic that could be performed is dropped, or the next bytes of a
copy to a remote device are. -/
def failLink (s : State) (uid : Nat) : Option State :=
  match s.queue.find? fun e => e.uid == uid with
  | some e =>
    let returns := match e.what with
      | .rmw _ _ _ _ _ _ ret => ret
      | _ => false
    if e.locs.any isRemote ∧ !returns ∧ (canPerform s e.core (queueIndex s e)).isSome then some (dropRemote s e) else none
  | none =>
    match s.copy? uid with
    | none => none
    | some x =>
      match x.firstRemote with
      | none => none
      | some p => landGranuleWith true s uid p.1 p.2.1 p.2.2

def execLinkFailure (uid : Nat) (s : State) : Out State := event s (failLink s uid)

end Sys2Proof.Machine
end

