-- ==== Sys2Proof/Machine/Integer.lean ====
section
/-! DEFINITION. The integer group, OP 0x01 (04 R73, R74). Each body reads through the thread's view and writes D. -/

namespace Sys2Proof.Machine

/-- IADD (04 R73). -/
def execIadd (g : Guard) (f : Fields) (s : State) : Out State :=
  runFull 0x01 0 g f s fun c =>
    .next (s.putData c f (narrowData f f.opt f.isN (c.num f f.isN f.a + c.num f f.isN f.b)))

/-- ISUB (04 R73). -/
def execIsub (g : Guard) (f : Fields) (s : State) : Out State :=
  runFull 0x01 1 g f s fun c =>
    .next (s.putData c f (narrowData f f.opt f.isN (c.num f f.isN f.a - c.num f f.isN f.b)))

/-- IMUL (04 R73): the low bits, alike for signed and natural operands. -/
def execImul (g : Guard) (f : Fields) (s : State) : Out State :=
  runFull 0x01 2 g f s fun c =>
    .next (s.putData c f (narrowData f false true (c.num f true f.a * c.num f true f.b)))

/-- IMULH (04 R73): the product shifted right by the width, floor. -/
def execImulh (g : Guard) (f : Fields) (s : State) : Out State :=
  runFull 0x01 3 g f s fun c =>
    .next (s.putData c f
      (narrowData f false f.isN (c.num f f.isN f.a * c.num f f.isN f.b / ((2 ^ dataWidth f : Nat) : Int))))

/-- IMAD (04 R73). -/
def execImad (g : Guard) (f : Fields) (s : State) : Out State :=
  runFull 0x01 4 g f s fun c =>
    .next (s.putData c f (narrowData f false true (c.num f true f.a * c.num f true f.b + c.num f true f.c)))

/-- IMADW (04 R74). -/
def execImadw (g : Guard) (f : Fields) (s : State) : Out State :=
  runFull 0x01 5 g f s fun c =>
    .next (s.setPair c.r f.d.toNat
      (BitVec.ofInt 64 (sv f.isN (c.v f.a.toNat) * sv f.isN (c.v f.b.toNat) + ((c.pair f.c.toNat).toNat : Int))))

/-- IADD64 (04 R74). -/
def execIadd64 (g : Guard) (f : Fields) (s : State) : Out State :=
  runFull 0x01 6 g f s fun c => .next (s.setPair c.r f.d.toNat (c.pair f.a.toNat + c.pair f.b.toNat))

/-- ISUB64 (04 R74). -/
def execIsub64 (g : Guard) (f : Fields) (s : State) : Out State :=
  runFull 0x01 7 g f s fun c => .next (s.setPair c.r f.d.toNat (c.pair f.a.toNat - c.pair f.b.toNat))

/-- IMIN (04 R73). -/
def execImin (g : Guard) (f : Fields) (s : State) : Out State :=
  runFull 0x01 8 g f s fun c =>
    .next (s.putData c f (narrowData f false f.isN (min (c.num f f.isN f.a) (c.num f f.isN f.b))))

/-- IMAX (04 R73). -/
def execImax (g : Guard) (f : Fields) (s : State) : Out State :=
  runFull 0x01 9 g f s fun c =>
    .next (s.putData c f (narrowData f false f.isN (max (c.num f f.isN f.a) (c.num f f.isN f.b))))

/-- IABS (04 R73). -/
def execIabs (g : Guard) (f : Fields) (s : State) : Out State :=
  runFull 0x01 10 g f s fun c =>
    .next (s.putData c f (narrowData f f.opt false ((c.num f false f.a).natAbs : Int)))

/-- INEG (04 R73). -/
def execIneg (g : Guard) (f : Fields) (s : State) : Out State :=
  runFull 0x01 11 g f s fun c => .next (s.putData c f (narrowData f f.opt false (-(c.num f false f.a))))

end Sys2Proof.Machine
end

