-- ==== Sys2Proof/Machine/KvSeq.lean ====
section
/-! DEFINITION. The sequence commands KVSEQ, KVFORK and KVREL (17 R369, R370). -/

namespace Sys2Proof.Machine

/-- The sequence number of a command; the bits below it must be zero for most commands (17 R369). -/
def seqOf (w : Word) : Nat := bitField w.toNat 48 16

/-- A result x register written. -/
def result (s : State) (c : Cx) (f : Fields) (w : Word) : Eff := .next (s.setX c.r f.d.toNat w)

/-- A record named by xA whose lower bits must be zero: KV 0x01, then 0x03. -/
def namedSeq (s : State) (c : Cx) (w : Word) : Chk SeqRec :=
  match openSeq s c (seqOf w) with
  | .error e => .error e
  | .ok r => if bitField w.toNat 0 48 ≠ 0 then stopTrap cKv 3 else .ok r

/-- KVSEQ_OPEN (17 R370). -/
def execKvseqOpen (g : Guard) (f : Fields) (s : State) : Out State :=
  runFull 0x48 3 g f s fun c =>
    let w := (c.x f.a.toNat).toNat
    let npl := bitField w 18 5
    if bitField w 23 41 ≠ 0 ∨ npl = 0 ∨ 16 < npl then .trap { cause := cKv, sub := 3 }
    else
      match freeSeq s with
      | none => .trap { cause := cKv, sub := 6 }
      | some n =>
        let nl := bitField w 0 8 + 1
        let nh := bitField w 8 6 + 1
        let r : SeqRec := { num := n, ctx := c.la.ctx, nl := nl, nh := nh, hd := 16 * (bitField w 14 4 + 1), npl := npl,
                            chains := List.replicate (nl * nh) {} }
        result { s with seqs := s.seqs ++ [r] } c f (BitVec.ofNat 64 n)

/-- An accepted append or a started scan of the sequence has not completed (17 R370): one whose passage is due has started
(R362). -/
def seqBusy (s : State) (n : Nat) : Bool :=
  (s.tiles.any fun x => x.kv == some n) ||
    s.attns.any fun a => kvSeq a.query.toNat == n && (a.gate.isSome || (a.passage s).isSome)

/-- The record freed, its pages released, and the commands at the gate gone (17 R370). -/
def closeSeq (s : State) (r : SeqRec) : State :=
  let t : State := { s with
    seqs := s.seqs.filter fun q => !(q.num == r.num)
    attns := s.attns.map fun a =>
      if kvSeq a.query.toNat = r.num ∧ a.gate.isNone then { a with gone := true } else a }
  let u := releasePages t (r.chains.flatMap Chain.pages).eraseDups
  (r.saved.flatMap SavedAppend.pages).foldl freePage u

/-- KVSEQ_CLOSE (17 R370). -/
def execKvseqClose (g : Guard) (f : Fields) (s : State) : Out State :=
  runFull 0x48 3 g f s fun c =>
    Eff.ofChk (namedSeq s c (c.x f.a.toNat)) fun r =>
      if seqBusy s r.num then .wait else result (closeSeq s r) c f 0

/-- The tail of a chain has no successor, when the chain alone holds it. -/
def endTail (s : State) (k : Chain) : State :=
  match k.pages.getLast? with
  | some p => if 1 < pageRefs s p then s else s.putPage p 0 4 noPage
  | none => s

/-- A chain cut to `n` positions (17 R370): the chain, and the pages that leave it. -/
def trimChain (s : State) (n : Nat) (k : Chain) : Chain × List Nat :=
  let keep := k.pages.filter fun p => decide (pagePbase s p < n)
  ({ k with len := min k.len n, pages := keep }, k.pages.filter fun p => !(keep.contains p))

/-- The pages that an accepted append gives back when a trim has cleared every block it had reserved (17 R370). -/
def unneeded (n : Nat) (blocks : List (Nat × Nat)) (pages : List Nat) : List Nat :=
  if blocks.any (fun x => decide (x.1 < n)) then [] else pages

/-- The reservations of a sequence's accepted appends at a position and above cleared (17 R370); an append that has none
left gives its pages back. -/
def clearReservations (s : State) (num n : Nat) : State :=
  let mine := s.tiles.filter fun x => x.kv == some num && !x.done
  let held := ((s.seq? num).elim [] SeqRec.saved)
  let below (l : List (Nat × Nat)) : List (Nat × Nat) := l.filter fun x => decide (x.1 < n)
  let rest (l : List (Nat × Nat)) (ps : List Nat) : List Nat := ps.filter fun p => !((unneeded n l ps).contains p)
  let cut (x : TileCmd) : TileCmd := { x with blocks := below x.blocks, pages := rest x.blocks x.pages }
  let t : State := { s with tiles := s.tiles.map fun x => if x.kv = some num ∧ x.done = false then cut x else x }
  let u := t.modSeq num fun q =>
    { q with saved := q.saved.map fun a => { a with blocks := below a.blocks, pages := rest a.blocks a.pages } }
  (mine.flatMap (fun x => unneeded n x.blocks x.pages) ++ held.flatMap fun a => unneeded n a.blocks a.pages).foldl freePage u

/-- A sequence trimmed (17 R370). -/
def trimSeq (s : State) (r : SeqRec) (n : Nat) : State :=
  let cut := r.chains.map (trimChain s n)
  let t := (clearReservations s r.num n).modSeq r.num fun q => { q with chains := cut.map Prod.fst }
  let u := cut.foldl (fun (u : State) x =>
    x.1.pages.foldl (fun v p => if n < pagePbase v p + 64 ∧ pageRefs v p ≤ 1 then clearSlots v p n else v) (endTail u x.1)) t
  releasePages u (cut.flatMap Prod.snd)

/-- KVSEQ_TRIM (17 R370). -/
def execKvseqTrim (g : Guard) (f : Fields) (s : State) : Out State :=
  runFull 0x48 3 g f s fun c =>
    let n := (c.x f.b.toNat).toNat
    Eff.ofChk (openSeq s c (seqOf (c.x f.a.toNat))) fun r =>
      if r.chains.any fun k => decide (n < k.base) then .trap { cause := cKv, sub := 2 }
      else if bitField (c.x f.a.toNat).toNat 0 48 ≠ 0 then .trap { cause := cKv, sub := 3 }
      else result (trimSeq (passGates s r.num) r n) c f 0

/-- KVSEQ_STAT (17 R370): an acquire at device scope. -/
def execKvseqStat (g : Guard) (f : Fields) (s : State) : Out State :=
  runFull 0x48 3 g f s fun c =>
    let w := (c.x f.a.toNat).toNat
    Eff.ofChk (openSeq s c (kvSeq w)) fun r =>
      if r.nl ≤ kvLayer w ∨ r.nh ≤ kvHead w then .trap { cause := cKv, sub := 2 }
      else if bitField w 0 34 ≠ 0 then .trap { cause := cKv, sub := 3 }
      else
        let k := r.chain (kvLayer w) (kvHead w)
        result (s.dropL1 c.t.core) c f (BitVec.ofNat 64 (k.base * 2 ^ 32 + k.len))

/-- The pairs that a window holds, from their bytes. -/
def windowPairs : List Byte → List (Nat × Nat)
  | a :: b :: c :: d :: e :: f :: g :: h :: bs => (leNat [a, b, c, d], leNat [e, f, g, h]) :: windowPairs bs
  | _ => []

/-- The DFS slots of a page rewritten where its positions lie in the window (17 R370). -/
def rewriteSlots (r : SeqRec) (s : State) (pn : Nat) : State :=
  let b := pagePbase s pn
  (List.range 64).foldl (fun u i =>
    if r.w0 ≤ b + i ∧ b + i < r.w0 + r.window.length then
      let p := r.dfsPair (b + i)
      (u.putPage pn (0x80 + 8 * i) 4 p.1).putPage pn (0x84 + 8 * i) 4 p.2
    else u) s

/-- A sequence's DFS window set (17 R370). -/
def setWindow (s : State) (r : SeqRec) (w0 : Nat) (pairs : List (Nat × Nat)) : State :=
  let q : SeqRec := { r with w0 := w0, window := pairs }
  (q.chains.flatMap Chain.pages).foldl (rewriteSlots q) (s.modSeq r.num fun x => { x with w0 := w0, window := pairs })

/-- KVSEQ_DFS (17 R370): the pairs are read as loads at issue; the causes in the order of 15 R317. -/
def execKvseqDfs (g : Guard) (f : Fields) (s : State) : Out State :=
  runFull 0x48 3 g f s fun c =>
    let a := (c.x f.a.toNat).toNat
    let va := c.x f.b.toNat
    let n := (c.x f.c.toNat).toNat
    if va.toNat % 8 ≠ 0 then .trap { cause := cAlign, sub := 0, va := va, ak := Acc.load.ak }
    else
      Eff.ofChk (translateRange s c .load va (8 * min n 64)) fun runs =>
        Eff.ofChk (openSeq s c (bitField a 48 16)) fun r =>
          if 2 ^ 32 < bitField a 0 32 + n then .trap { cause := cKv, sub := 2 }
          else if bitField a 32 16 ≠ 0 ∨ n = 0 ∨ 64 < n then .trap { cause := cKv, sub := 3 }
          else
            withBytes s c true (extentLocs runs) va Acc.load.ak fun t bs =>
              result (setWindow t r (bitField a 0 32) (windowPairs bs)) c f 0

/-- The page of a chain that holds a position in its interior (17 R370). -/
def interiorPage (s : State) (n : Nat) (k : Chain) : Option Nat :=
  k.pages.find? fun p => decide (pagePbase s p < n) && decide (n < pagePbase s p + 64)

/-- The chains of a fork: whole pages below `n` shared, and for each interior page its copy; with the copies to make. -/
def forkChains (s : State) (n : Nat) : List Chain → List Nat → List Chain × List (Nat × Nat × Nat)
  | [], _ => ([], [])
  | k :: ks, fresh =>
    let shared := k.pages.filter fun p => decide (pagePbase s p + 64 ≤ n)
    match interiorPage s n k, fresh with
    | some p, new :: rest =>
      let x := forkChains s n ks rest
      ({ pages := shared ++ [new], len := n, base := k.base } :: x.1, (ks.length, p, new) :: x.2)
    | _, _ =>
      let x := forkChains s n ks fresh
      ({ pages := shared, len := n, base := k.base } :: x.1, x.2)

/-- The copy of an interior page: its slots below `n` (17 R370). The first number counts the chains after its own. -/
def forkPage (r : SeqRec) (n : Nat) (s : State) (x : Nat × Nat × Nat) : State :=
  let i := r.chains.length - 1 - x.1
  let b := pagePbase s x.2.1
  let t := writeHeader s r (i / r.nh) (i % r.nh) x.2.2 b
  copySlots t r.npl x.2.1 x.2.2 (n - b) (n - b)

/-- KVFORK (17 R370). -/
def execKvfork (g : Guard) (f : Fields) (s : State) : Out State :=
  runFull 0x48 4 g f s fun c =>
    let n := (c.x f.b.toNat).toNat
    Eff.ofChk (openSeq s c (seqOf (c.x f.a.toNat))) fun r =>
      if r.chains.any fun k => decide (n < k.base) || decide (k.len < n) then .trap { cause := cKv, sub := 2 }
      else if bitField (c.x f.a.toNat).toNat 0 48 ≠ 0 then .trap { cause := cKv, sub := 3 }
      else
        match allocPages (r.chains.filter fun k => (interiorPage s n k).isSome).length s with
        | none => .trap { cause := cKv, sub := 4 }
        | some (ps, t) =>
          match freeSeq s with
          | none => .trap { cause := cKv, sub := 6 }
          | some m =>
            let forked := forkChains s n r.chains ps
            let q : SeqRec := { num := m, ctx := r.ctx, nl := r.nl, nh := r.nh, hd := r.hd, npl := r.npl,
                                chains := forked.1 }
            let u : State := { t with seqs := t.seqs ++ [q] }
            let v := (q.chains.flatMap Chain.pages).foldl noteRefs (forked.2.foldl (forkPage q n) u)
            result v c f (BitVec.ofNat 64 m)

/-- A chain released below `n` (17 R370): the chain, and the pages that leave it. -/
def relChain (s : State) (n : Nat) (k : Chain) : Chain × List Nat :=
  ({ k with base := max k.base n, pages := k.pages.filter fun p => decide (n < pagePbase s p + 64) },
    k.pages.filter fun p => decide (pagePbase s p + 64 ≤ n))

/-- KVREL (17 R370). -/
def execKvrel (g : Guard) (f : Fields) (s : State) : Out State :=
  runFull 0x48 5 g f s fun c =>
    let n := (c.x f.b.toNat).toNat
    Eff.ofChk (openSeq s c (seqOf (c.x f.a.toNat))) fun r =>
      if n % 64 ≠ 0 ∨ r.chains.any fun k => decide (k.len < n) then .trap { cause := cKv, sub := 2 }
      else if bitField (c.x f.a.toNat).toNat 0 48 ≠ 0 then .trap { cause := cKv, sub := 3 }
      else
        let cut := r.chains.map (relChain s n)
        let t := (passGates s r.num).modSeq r.num fun q => { q with chains := cut.map Prod.fst }
        result (releasePages t (cut.flatMap Prod.snd)) c f 0

end Sys2Proof.Machine
end

