-- ==== Sys2Proof/Machine/Kvx.lean ====
section
/-! DEFINITION. Sequence export and import through KVX (18 R386). -/

namespace Sys2Proof.Machine

/-- KVX as it reads next. -/
def State.putKvx (s : State) (w : Nat) : State := { s with hst := { s.hst with kvx := BitVec.ofNat 64 w } }

/-- An accepted append, in the machine or in a save area, or a started scan has not completed (18 R386). -/
def kvxBusy (s : State) (r : SeqRec) : Bool := seqBusy s r.num || !r.saved.isEmpty

/-- The header of an image (18 R386): 1 KiB; NL = 256 is written as 0. -/
def imageHeader (r : SeqRec) : List Byte :=
  let pairs := r.window.flatMap fun p => leBytes 4 p.1 ++ leBytes 4 p.2
  padTo 1024 (padTo 512 (leBytes 1 r.nl ++ leBytes 1 r.nh ++ leBytes 1 (r.hd / 16) ++ leBytes 1 r.npl ++ leBytes 4 r.w0 ++
    leBytes 4 r.window.length) ++ pairs)

/-- The 16 bytes of a chain (18 R386). -/
def chainHeader (k : Chain) : List Byte := leBytes 4 k.base ++ leBytes 4 k.len ++ leBytes 4 k.pages.length ++ leBytes 4 0

/-- A page of a chain exported to an address: NEXT none, REFS 1, and of a shared page only the chain's own slots, with FILL
as they give it (17 R353). -/
def exportPage (s : State) (k : Chain) (pn a : Nat) : State :=
  let n := min 0x14000 (hbmSize - a)
  let t := copyBytes s true (span (pageLoc pn 0) n) (span a n)
  let u := t.writeHbm (cellsAt a (leBytes 4 noPage) ++ cellsAt (a + 0xF) (leBytes 1 1))
  let own := min 64 (k.len - pagePbase s pn)
  if 1 < pageRefs s pn then
    u.writeHbm (cellsAt (a + 0x0C) (leBytes 1 (min (pageNat s pn 0x0C 1) own)) ++
      cellsAt (a + 0x280 + 4 * own) (List.replicate (4 * (64 - own)) 0))
  else u

/-- The pages of a record in the image's order, each with its chain. -/
def imagePages (r : SeqRec) : List (Chain × Nat) := r.chains.flatMap fun k => k.pages.map fun p => (k, p)

/-- Where the pages of an image begin. -/
def pagesAt (chains : Nat) : Nat := 1024 + 16 * chains

/-- KVX_EXPORT (18 R386). What of the image passes the installed HBM is written nowhere (log 19). -/
def exportSeq (s : State) (val : Word) : Option State :=
  if bitAt val.toNat 63 then none
  else
    some (match s.seq? (val.toNat % 65536) with
      | none => s.putKvx 1
      | some r =>
        let a := s.hst.kvxa.toNat
        if kvxBusy s r then s.putKvx 2
        else
          let t := s.writeHbm (cellsAt a (imageHeader r ++ r.chains.flatMap chainHeader))
          let u := (indexed 0 (imagePages r)).foldl (fun (v : State) x =>
            exportPage v x.2.1 x.2.2 (a + pagesAt r.chains.length + 0x14000 * x.1)) t
          u.putKvx 0)

def execKvxExport (ag : HostAgent) (val : Word) (s : State) : Out State :=
  event s (privileged s ag 0x1010 (exportSeq s val))

/-- A chain as an image gives it, its page count, and the place of its first page. -/
structure ImageChain where
  base : Nat
  len : Nat
  count : Nat
  first : Nat
deriving DecidableEq, Repr

/-- The chains of an image. -/
def imageChains (s : State) (a n : Nat) : List ImageChain :=
  (List.range n).foldl (fun l i =>
    let b := a + 1024 + 16 * i
    l ++ [⟨areaNat s b 4, areaNat s (b + 4) 4, areaNat s (b + 8) 4, l.foldl (fun k c => k + c.count) 0⟩]) []

/-- A chain of an image is well formed: its pages follow one another from BASE and cover it, each with no NEXT and one
holder. -/
def ImageChain.good (s : State) (pages : Nat) (c : ImageChain) : Bool :=
  decide (c.base ≤ c.len) && decide (c.len ≤ c.base / 64 * 64 + 64 * c.count) &&
  (List.range c.count).all fun i =>
    let p := pages + 0x14000 * (c.first + i)
    areaNat s p 4 == noPage && areaNat s (p + 4) 4 == c.base / 64 * 64 + 64 * i && areaNat s (p + 0xF) 1 == 1

/-- The record an image describes, before its pages (18 R386); none when it is malformed. -/
def imageRecord (s : State) (a ctx n : Nat) : Option (SeqRec × List ImageChain) :=
  let nl := if areaNat s a 1 = 0 then 256 else areaNat s a 1
  let nh := areaNat s (a + 1) 1
  let hd := areaNat s (a + 2) 1
  let npl := areaNat s (a + 3) 1
  let w0 := areaNat s (a + 4) 4
  let count := areaNat s (a + 8) 4
  if nh = 0 ∨ 64 < nh ∨ hd = 0 ∨ 16 < hd ∨ npl = 0 ∨ 16 < npl ∨ 64 < count ∨ 2 ^ 32 < w0 + count then none
  else
    let chains := imageChains s a (nl * nh)
    if chains.all (ImageChain.good s (a + pagesAt (nl * nh))) then
      some ({ num := n, ctx := ctx, nl := nl, nh := nh, hd := 16 * hd, npl := npl, w0 := w0,
              window := (List.range count).map fun i => (areaNat s (a + 0x200 + 8 * i) 4, areaNat s (a + 0x204 + 8 * i) 4),
              chains := chains.map fun c => { base := c.base, len := c.len } }, chains)
    else none

/-- A page imported: its bytes, but for the res0 bytes; its record's number, its successor, one holder, and FILL as its
WMASK gives it (17 R353). -/
def importPage (s : State) (n pn next a : Nat) : State :=
  let zero (off len : Nat) (u : State) : State := u.writeHome (cellsAt (pageLoc pn off) (List.replicate len 0))
  let t := copyBytes s true (span a 0x14000) (span (pageLoc pn 0) 0x14000)
  let u := zero 0x10 112 (zero 0x380 128 (zero 0x12400 7168 t))
  (((u.putPage pn 0 4 next).putPage pn 8 2 n).putPage pn 0xF 1 1).noteFill pn

/-- The pages of an image imported onto pages of the pool, chain by chain. -/
def importChains (n pages : Nat) : List ImageChain → List Nat → State → List (List Nat) × State
  | [], _, s => ([], s)
  | c :: cs, pool, s =>
    let mine := pool.take c.count
    let t := (indexed 0 mine).foldl (fun (u : State) x =>
      importPage u n x.2 (mine.getD (x.1 + 1) noPage) (pages + 0x14000 * (c.first + x.1))) s
    let rest := importChains n pages cs (pool.drop c.count) t
    (mine :: rest.1, rest.2)

/-- KVX_IMPORT (18 R386). -/
def importSeq (s : State) (val : Word) : Option State :=
  if !bitAt val.toNat 63 then none
  else
    let a := s.hst.kvxa.toNat
    some (if hbmSize < a + 1024 then s.putKvx 3
      else
        match imageRecord s a (bitField val.toNat 16 12) ((freeSeq s).getD 0) with
        | none => s.putKvx 3
        | some (r, chains) =>
          let total := chains.foldl (fun k c => k + c.count) 0
          let pages := a + pagesAt chains.length
          if hbmSize < pages + 0x14000 * total then s.putKvx 3
          else
            match freeSeq s, allocPages total s with
            | some n, some (pool, t) =>
              let x := importChains n pages chains pool t
              let chains2 := (r.chains.zip x.1).map fun y => { y.1 with pages := y.2 }
              { x.2 with seqs := x.2.seqs ++ [{ r with chains := chains2 }] }.putKvx (2 ^ 63 + n)
            | _, _ => s.putKvx 4)

def execKvxImport (ag : HostAgent) (val : Word) (s : State) : Out State :=
  event s (privileged s ag 0x1010 (importSeq s val))

end Sys2Proof.Machine
end

