-- ==== Sys2Proof/Machine/LoadStore.lean ====
section
/-! DEFINITION. The memory group, OP 0x20 (09 R187-R194): LD, ST, LDS, STS and PRF. -/

namespace Sys2Proof.Machine

/-- The scope and the ordering bit of LD and ST (09 R188). -/
def accessScope (f : Fields) : Nat := lowBits f.c 6 3
def accessOrdered (f : Fields) : Bool := f.c.getLsbD 9

/-- LD (09 R189-R191). -/
def execLd (g : Guard) (f : Fields) (s : State) : Out State :=
  runFull 0x20 0 g f s fun c =>
    let size := accessSize f.mod
    let ea := c.accessAddr f
    let wide := wideScope (accessScope f)
    if 63 ≤ c.th.cntLd then .wait
    else
      Eff.ofChk (checkAligned ea size Acc.load.ak) fun _ =>
        Eff.ofChk (translate s c .load ea f.am) fun x =>
          withBytes s c wide (span x.loc size) ea Acc.load.ak fun t bs =>
            let u := if accessOrdered f && wide then t.dropL1 c.t.core else t
            .next (u.addPending c.r
              { uid := s.uid, vregs := loadedRegs f.d.toNat size bs, xregs := [], ready := true, counted := true })

/-- ST (09 R189-R191). -/
def execSt (g : Guard) (f : Fields) (s : State) : Out State :=
  runFull 0x20 1 g f s fun c =>
    let size := accessSize f.mod
    let ea := c.accessAddr f
    if 63 ≤ c.th.cntSt then .wait
    else
      Eff.ofChk (checkAligned ea size Acc.store.ak) fun _ =>
        Eff.ofChk (translate s c .store ea f.am) fun x =>
          let done : Eff := .next (s.issueStore c ea (cellsAt x.loc (c.storedBytes f.d.toNat size))
            (accessOrdered f && wideScope (accessScope f)))
          if accessOrdered f then linkStop s c done else done

/-- The row length of the skewed view (07 R151, R152). -/
def skewIndex (shift w : Nat) : Nat :=
  if shift = 0 then w
  else
    let len := 2 ^ shift
    w / 32 * 32 + (w % len + w / len) % 32

/-- A team-relative offset checked, and the locations of its bytes (07 R149, R152, 09 R192). -/
def scratchLocs (c : Cx) (o : Word) (size : Nat) (skewed : Bool) (ak : Nat) : Chk (List Nat) :=
  let d := declOf c.t.rdw
  let a := o.toNat
  if a % size ≠ 0 then stopTrap cAlign 0 o ak
  else if a + size ≤ d.scr then
    let cell (b : Nat) : Nat :=
      if skewed then 4 * skewIndex c.th.skew.toNat (b / 4) + b % 4 else b
    .ok ((List.range size).map fun j => scratchLoc c.t.core (c.t.scrBase + cell (a + j)))
  else if 0x20000 ≤ a ∧ a + size ≤ 0x20000 + d.ext then
    if skewed then stopTrap cTtype 2 o ak
    else .ok ((List.range size).map fun j => scratchLoc c.t.core (c.t.extBase + a + j))
  else stopTrap cPerm 5 o ak

/-- LDS (09 R192, R193). -/
def execLds (g : Guard) (f : Fields) (s : State) : Out State :=
  runFull 0x20 2 g f s fun c =>
    let size := accessSize f.mod
    let o := c.scratchAddr f
    if 63 ≤ c.th.cntLd then .wait
    else
      Eff.ofChk (scratchLocs c o size f.am Acc.load.ak) fun locs =>
        withBytes s c false locs o Acc.load.ak fun t bs =>
          .next (t.addPending c.r
            { uid := s.uid, vregs := loadedRegs f.d.toNat size bs, xregs := [], ready := true, counted := true })

/-- STS (09 R192, R193). -/
def execSts (g : Guard) (f : Fields) (s : State) : Out State :=
  runFull 0x20 3 g f s fun c =>
    let size := accessSize f.mod
    let o := c.scratchAddr f
    if 63 ≤ c.th.cntSt then .wait
    else
      Eff.ofChk (scratchLocs c o size f.am Acc.store.ak) fun locs =>
        .next (s.issueStore c o (locs.zip (c.storedBytes f.d.toNat size)) false)

/-- A core's L1 takes the line of a compute HBM location from its home (07 R154); not a damaged one, nor from a slice in
retention. -/
def State.fillL1 (s : State) (core loc : Nat) : State :=
  let base := loc / 128 * 128
  if !isHbm loc || s.l1.any (fun l => l.core == core && l.loc == base) || damaged s (span base 128) ||
      sleeping s [base] then s
  else { s with l1 := s.l1 ++ [⟨core, base, memBytes s.mem base 128, []⟩], l2 := s.l2.touch 0 [base] }

/-- PRF (09 R194), into L1 or into L2: XLATE 0x01 and PERM end it with no effect. A slice in retention makes it wait (07
R163). -/
def execPrf (g : Guard) (f : Fields) (s : State) : Out State :=
  runFull 0x20 4 g f s fun c =>
    let va := c.address f 128 (sextNat f.c.toNat 10)
    match translate s c .prefetch va with
    | .ok x =>
      if isHbm x.loc && sleeping s [x.loc] && (f.mod != 0 || (l1Byte s c.t.core x.loc).isNone) then .wait
      else .next (if f.mod = 0 then s.fillL1 c.t.core x.loc else { s with l2 := s.l2.touch 0 [x.loc] })
    | .error (.trap t) => if (t.cause = cXlate ∧ t.sub = 1) ∨ t.cause = cPerm then .next s else .trap t
    | .error (.fault e) => .fault e
    | .error .wait => .wait

end Sys2Proof.Machine
end

