-- ==== Sys2Proof/Machine/Logic.lean ====
section
/-! DEFINITION. The logic, shift and bitfield group, OP 0x02 (04 R75-R78), over patterns zero-extended to 64 bits. -/

namespace Sys2Proof.Machine

/-- A bitwise operation on two patterns. -/
def bitwise (s : State) (c : Cx) (f : Fields) (op : Word → Word → Word) : Eff :=
  .next (s.putData c f (op (c.data f f.a) (c.data f f.b)))

/-- AND (04 R75). -/
def execAnd (g : Guard) (f : Fields) (s : State) : Out State :=
  runFull 0x02 0 g f s fun c => bitwise s c f (· &&& ·)

/-- OR (04 R75). -/
def execOr (g : Guard) (f : Fields) (s : State) : Out State :=
  runFull 0x02 1 g f s fun c => bitwise s c f (· ||| ·)

/-- XOR (04 R75). -/
def execXor (g : Guard) (f : Fields) (s : State) : Out State :=
  runFull 0x02 2 g f s fun c => bitwise s c f (· ^^^ ·)

/-- ANDN (04 R75). -/
def execAndn (g : Guard) (f : Fields) (s : State) : Out State :=
  runFull 0x02 3 g f s fun c => bitwise s c f fun a b => a &&& ~~~b

/-- The low `w` bits of a number, as a pattern. -/
def lowPattern (w x : Nat) : Word := BitVec.ofNat 64 (x % 2 ^ w)

/-- Shift left; 0 when the count reaches the width (04 R75). -/
def shiftLeft (w : Nat) (a : Word) (cnt : Nat) : Word := if w ≤ cnt then 0 else lowPattern w (a.toNat * 2 ^ cnt)
/-- Logical shift right; 0 when the count reaches the width (04 R75). -/
def shiftRight (w : Nat) (a : Word) (cnt : Nat) : Word := if w ≤ cnt then 0 else lowPattern w (a.toNat / 2 ^ cnt)
/-- Arithmetic shift right by at most `w - 1` (04 R75). -/
def shiftArith (w : Nat) (a : Word) (cnt : Nat) : Word :=
  lowPattern w (BitVec.ofInt 64 (sextNat a.toNat w / ((2 ^ min cnt (w - 1) : Nat) : Int))).toNat

/-- SHL (04 R75). -/
def execShl (g : Guard) (f : Fields) (s : State) : Out State :=
  runFull 0x02 4 g f s fun c => .next (s.putData c f (shiftLeft (dataWidth f) (c.data f f.a) (c.data f f.b).toNat))

/-- SHR (04 R75). -/
def execShr (g : Guard) (f : Fields) (s : State) : Out State :=
  runFull 0x02 5 g f s fun c => .next (s.putData c f (shiftRight (dataWidth f) (c.data f f.a) (c.data f f.b).toNat))

/-- SAR (04 R75). -/
def execSar (g : Guard) (f : Fields) (s : State) : Out State :=
  runFull 0x02 6 g f s fun c => .next (s.putData c f (shiftArith (dataWidth f) (c.data f f.a) (c.data f f.b).toNat))

/-- The funnel shift of b above a (04 R76). -/
def funnel (w : Nat) (left : Bool) (a b : Word) (cnt : Nat) : Word :=
  let n := min cnt w
  let v := b.toNat * 2 ^ w + a.toNat
  if left then lowPattern w (v * 2 ^ n / 2 ^ w) else lowPattern w (v / 2 ^ n)

/-- SHF (04 R76). -/
def execShf (g : Guard) (f : Fields) (s : State) : Out State :=
  runFull 0x02 7 g f s fun c =>
    .next (s.putData c f (funnel (dataWidth f) f.opt (c.data f f.a) (c.data f f.b) (c.data f f.c).toNat))

/-- The bitfield extract of 04 R77. -/
def extractField (w : Nat) (nat : Bool) (a : Word) (ctl : Nat) : Word :=
  let pos := ctl % 256
  let len := min (ctl / 256 % 256) w
  let wide : Nat := if nat then a.toNat else (BitVec.ofInt 512 (sextNat a.toNat w)).toNat
  let field := wide / 2 ^ pos % 2 ^ len
  if len = 0 then 0
  else if nat then lowPattern w field
  else lowPattern w (BitVec.ofInt 64 (sextNat field len)).toNat

/-- BFE (04 R77). -/
def execBfe (g : Guard) (f : Fields) (s : State) : Out State :=
  runFull 0x02 8 g f s fun c =>
    .next (s.putData c f (extractField (dataWidth f) f.isN (c.data f f.a) (c.data f f.b).toNat))

/-- The bitfield insert of 04 R77. -/
def insertField (w : Nat) (a b : Word) (ctl : Nat) : Word :=
  let pos := ctl % 256
  let top := min (pos + ctl / 256 % 256) w
  if top ≤ pos then a
  else lowPattern w (a.toNat % 2 ^ pos + b.toNat % 2 ^ (top - pos) * 2 ^ pos + a.toNat / 2 ^ top * 2 ^ top)

/-- BFI (04 R77). -/
def execBfi (g : Guard) (f : Fields) (s : State) : Out State :=
  runFull 0x02 9 g f s fun c =>
    .next (s.putData c f (insertField (dataWidth f) (c.data f f.a) (c.data f f.b) (c.data f f.c).toNat))

/-- POPC (04 R75). -/
def execPopc (g : Guard) (f : Fields) (s : State) : Out State :=
  runFull 0x02 10 g f s fun c =>
    .next (s.putData c f (BitVec.ofNat 64 (popCount 64 (c.data f f.a).toNat)))

/-- The number of significant bits of a number. -/
def bitLength (x : Nat) : Nat := if x = 0 then 0 else x.log2 + 1

/-- CLZ (04 R75). -/
def execClz (g : Guard) (f : Fields) (s : State) : Out State :=
  runFull 0x02 11 g f s fun c =>
    .next (s.putData c f (BitVec.ofNat 64 (dataWidth f - bitLength (c.data f f.a).toNat)))

/-- Bits `n-1 : 0` reversed. -/
def reverseBits (x : Nat) : Nat → Nat
  | 0 => 0
  | n + 1 => x % 2 * 2 ^ n + reverseBits (x / 2) n

/-- BREV (04 R75). -/
def execBrev (g : Guard) (f : Fields) (s : State) : Out State :=
  runFull 0x02 12 g f s fun c =>
    .next (s.putData c f (BitVec.ofNat 64 (reverseBits (c.data f f.a).toNat (dataWidth f))))

/-- Byte `j` of PRMT's result (04 R78): `src` holds b above a. -/
def permuteByte (src ctl j : Nat) : Nat :=
  let n := ctl / 16 ^ j % 16
  let byte := src / 256 ^ (n % 8) % 256
  if n < 8 then byte else if 128 ≤ byte then 255 else 0

/-- PRMT (04 R78). -/
def execPrmt (g : Guard) (f : Fields) (s : State) : Out State :=
  runFull 0x02 13 g f s fun c =>
    let src := (c.v f.b.toNat).toNat * 2 ^ 32 + (c.v f.a.toNat).toNat
    let b := permuteByte src (c.v f.c.toNat).toNat
    .next (s.setV c.r f.d.toNat (BitVec.ofNat 32 (b 0 + 256 * b 1 + 65536 * b 2 + 16777216 * b 3)))

end Sys2Proof.Machine
end

