-- ==== Sys2Proof/Machine/Move.lean ====
section
/-! DEFINITION. The compare and move group, OP 0x03 (04 R79-R81), and the immediate group, OP 0x04 (R82-R84). -/

namespace Sys2Proof.Machine

/-- ICMP (04 R79). -/
def execIcmp (g : Guard) (f : Fields) (s : State) : Out State :=
  runFull 0x03 0 g f s fun c =>
    let x := intCond (lowBits f.c 3 3) (c.num f f.isN f.a) (c.num f f.isN f.b)
    .next (s.setP c.r f.d.toNat (combineCond (lowBits f.c 6 2) x (c.p (lowBits f.c 0 3))))

/-- SEL (04 R80). -/
def execSel (g : Guard) (f : Fields) (s : State) : Out State :=
  runFull 0x03 1 g f s fun c =>
    let src := if c.p (lowBits f.c 0 3) then f.a else f.b
    .next (if f.isX then s.setX c.r f.d.toNat (c.x src.toNat)
      else s.moveV c.r f.d.toNat (c.v src.toNat) (c.tag src.toNat))

/-- PCOMB (04 R81). -/
def execPcomb (g : Guard) (f : Fields) (s : State) : Out State :=
  runFull 0x03 2 g f s fun c =>
    let bit (n : Nat) : Nat := if c.p (lowBits f.a n 3) then 1 else 0
    .next (s.setP c.r f.d.toNat (bitAt f.b.toNat (4 * bit 0 + 2 * bit 3 + bit 6)))

/-- MOV (04 R80). -/
def execMov (g : Guard) (f : Fields) (s : State) : Out State :=
  runFull 0x03 3 g f s fun c =>
    .next (if f.isX then s.setX c.r f.d.toNat (c.x f.a.toNat)
      else s.moveV c.r f.d.toNat (c.v f.a.toNat) (c.tag f.a.toNat))

/-- PGET (04 R80). -/
def execPget (g : Guard) (f : Fields) (s : State) : Out State :=
  runFull 0x03 4 g f s fun c => .next (s.setV c.r f.d.toNat (0x80#32 ||| c.th.p.setWidth 32))

/-- Predicates below `n` written from the bits of a value where a mask has a one. -/
def setMasked (r : TRef) (mask : Nat) (a : W32) : Nat → State → State
  | 0, s => s
  | n + 1, s =>
    let t := setMasked r mask a n s
    if bitAt mask n then t.setP r n (a.getLsbD n) else t

/-- PSET (04 R80). -/
def execPset (g : Guard) (f : Fields) (s : State) : Out State :=
  runFull 0x03 5 g f s fun c => .next (setMasked c.r f.b.toNat (c.v f.a.toNat) 7 s)

/-- X2V (04 R80). -/
def execX2v (g : Guard) (f : Fields) (s : State) : Out State :=
  runFull 0x03 6 g f s fun c =>
    let x := c.x f.a.toNat
    .next (s.setV c.r f.d.toNat (if f.opt then (x >>> 32).setWidth 32 else x.setWidth 32))

/-- V2X (04 R80). -/
def execV2x (g : Guard) (f : Fields) (s : State) : Out State :=
  runFull 0x03 7 g f s fun c =>
    .next (s.setX c.r f.d.toNat (if f.opt then c.pair f.a.toNat else (c.v f.a.toNat).setWidth 64))

/-- The 20-bit immediate sign-extended (04 R82). -/
def imm20 (f : Fields) : Int := f.imm.toInt

/-- IADDI (04 R82). -/
def execIaddi (g : Guard) (f : Fields) (s : State) : Out State :=
  runFull 0x04 0 g f s fun c => .next (s.putData c f (narrowData f false false (c.num f false f.a + imm20 f)))

/-- ANDI (04 R82). -/
def execAndi (g : Guard) (f : Fields) (s : State) : Out State :=
  runFull 0x04 1 g f s fun c => .next (s.putData c f (c.data f f.a &&& narrowData f false false (imm20 f)))

/-- ORI (04 R82). -/
def execOri (g : Guard) (f : Fields) (s : State) : Out State :=
  runFull 0x04 2 g f s fun c => .next (s.putData c f (c.data f f.a ||| narrowData f false false (imm20 f)))

/-- XORI (04 R82). -/
def execXori (g : Guard) (f : Fields) (s : State) : Out State :=
  runFull 0x04 3 g f s fun c => .next (s.putData c f (c.data f f.a ^^^ narrowData f false false (imm20 f)))

/-- SHLI (04 R82); the count is below the width (02 R48). -/
def execShli (g : Guard) (f : Fields) (s : State) : Out State :=
  runFull 0x04 4 g f s fun c =>
    .next (s.putData c f (narrowData f false false (c.num f true f.a * ((2 ^ f.imm.toNat : Nat) : Int))))

/-- SHRI (04 R82). -/
def execShri (g : Guard) (f : Fields) (s : State) : Out State :=
  runFull 0x04 5 g f s fun c =>
    .next (s.putData c f (narrowData f false false (c.num f true f.a / ((2 ^ f.imm.toNat : Nat) : Int))))

/-- SARI (04 R82). -/
def execSari (g : Guard) (f : Fields) (s : State) : Out State :=
  runFull 0x04 6 g f s fun c =>
    .next (s.putData c f (narrowData f false false (c.num f false f.a / ((2 ^ f.imm.toNat : Nat) : Int))))

/-- MOVI (04 R82). -/
def execMovi (g : Guard) (f : Fields) (s : State) : Out State :=
  runFull 0x04 7 g f s fun c => .next (s.putData c f (narrowData f false false (imm20 f)))

/-- LIMM (04 R83) with its extension word. -/
def execLimm (g : Guard) (f : Fields) (ext : Word) (s : State) : Out State :=
  runWord 0x04 8 1 true false g f s fun c =>
    let low : Word := ext &&& 0xFFFFFFFF#64
    .next
      (if f.isX then s.setX c.r f.d.toNat (if f.opt then low else ext)
      else if f.opt then s.setV c.r f.d.toNat (ext.setWidth 32)
      else s.setPair c.r f.d.toNat ext)

/-- ICMPI (04 R84). -/
def execIcmpi (g : Guard) (f : Fields) (s : State) : Out State :=
  runFull 0x04 9 g f s fun c =>
    let imm := narrowData f false false (imm20 f)
    let y := if f.isX then sv f.isN imm else sv f.isN (imm.setWidth 32)
    .next (s.setP c.r (lowBits f.d 0 3) (intCond (lowBits f.d 3 3) (c.num f f.isN f.a) y))

end Sys2Proof.Machine
end

