-- ==== Sys2Proof/Machine/Pair.lean ====
section
/-! DEFINITION. The pair word (02 R35, R36, 04 R101). -/

namespace Sys2Proof.Machine

/-- A slot's result and flags from its D and A values (04 R101), for every slot opcode but NOP. -/
def slotValue (sop : Nat) (ftz : Bool) (d a : W32) : W32 × FpFlags :=
  let z (w : W32) : W32 := flushSrc .f32 ftz w
  let w64 (w : W32) : Word := w.setWidth 64
  match sop with
  | 0x01 => (a, 0)
  | 0x02 => (d + a, 0)
  | 0x03 => (d - a, 0)
  | 0x04 => (d * a, 0)
  | 0x05 => (if d.toInt ≤ a.toInt then d else a, 0)
  | 0x06 => (if d.toInt ≤ a.toInt then a else d, 0)
  | 0x07 => (d &&& a, 0)
  | 0x08 => (d ||| a, 0)
  | 0x09 => (d ^^^ a, 0)
  | 0x0A => ((shiftLeft 32 (w64 d) a.toNat).setWidth 32, 0)
  | 0x0B => ((shiftRight 32 (w64 d) a.toNat).setWidth 32, 0)
  | 0x0C => ((shiftArith 32 (w64 d) a.toNat).setWidth 32, 0)
  | 0x10 => fpAdd .f32 .rn ftz (z d) (z a)
  | 0x11 => fpSub .f32 .rn ftz (z d) (z a)
  | 0x12 => fpMul .f32 .rn ftz (z d) (z a)
  | 0x13 => fpMinMax .f32 false (z d) (z a)
  | _ => fpMinMax .f32 true (z d) (z a)

/-- A slot writes its destination and raises its flags, from the values both slots read first (02 R35). -/
def writeSlot (c : Cx) (x : Slot) (s : State) : State :=
  if x.sop = 0 ∨ c.slotGuard x = false then s
  else if x.sop = 1 then s.moveV c.r x.d.toNat (c.v x.a.toNat) (c.tag x.a.toNat)
  else s.putFp c x.d.toNat (slotValue x.sop.toNat c.ftz (c.v x.d.toNat) (c.v x.a.toNat))

/-- PAIR_WORD (02 R35). -/
def execPairWord (s0 s1 : Slot) (s : State) : Out State :=
  runPair s0 s1 s fun c => .next (writeSlot c s1 (writeSlot c s0 s))

end Sys2Proof.Machine
end

