-- ==== Sys2Proof/Machine/System.lean ====
section
/-! DEFINITION. The system group, OP 0x00: control registers and system values (04 R99, R100, 01 R12-R17), BKPT and
TRAP (15 R318), CCTL and TLBI (09 R205, R207). -/

namespace Sys2Proof.Machine

/-- CYCLES as read now: a free number of cycles has passed (log 1). -/
def cyclesNow (s : State) (core : Nat) : Nat := coreCycles s core + Config.elapsed s.free

/-- A read of CYCLES recorded. -/
def State.tick (s : State) (core : Nat) : State :=
  { s.passTo core (cyclesNow s core) with free := s.free + 1 }

/-- The value of a control register (01 R12-R17, 15 R327, 12 R251). -/
def controlValue (s : State) (c : Cx) (n : Nat) : Word :=
  match n with
  | 0 => if c.th.priv then 1 else 0
  | 1 => c.th.fpmode.setWidth 64
  | 2 => c.t.fpst.setWidth 64
  | 3 => BitVec.ofNat 64 (cyclesNow s c.t.core)
  | 4 => c.th.skew.setWidth 64
  | 5 => c.th.trapCause
  | 6 => c.th.trapPc
  | 7 => c.th.trapVa
  | 8 => c.th.saveBase
  | 9 => c.th.preempt
  | _ => c.t.tdescOf (n - 0x40)

/-- MOVCR (04 R99). -/
def execMovcr (g : Guard) (f : Fields) (s : State) : Out State :=
  runFull 0x00 5 g f s fun c =>
    let n := f.imm.toNat
    let w := controlValue s c n
    let t := if n = 3 then s.tick c.t.core else s
    .next
      (if f.isX then t.setX c.r f.d.toNat w
      else if f.opt then t.setV c.r f.d.toNat (w.setWidth 32)
      else t.setPair c.r f.d.toNat w)

/-- A control register written, following its field map (01 R13-R15, 07 R151, 15 R327, 12 R251). -/
def controlWrite (s : State) (c : Cx) (n : Nat) (w : Word) : Chk State :=
  match n with
  | 1 => .ok (s.modThread c.r fun th => { th with fpmode := w.setWidth 3 })
  | 2 => .ok (s.modTeam c.r.team fun t => { t with fpst := clearFlags t.fpst w })
  | 4 =>
    let sh := w.toNat % 16
    if sh = 0 ∨ (5 ≤ sh ∧ sh ≤ 10) then .ok (s.modThread c.r fun th => { th with skew := BitVec.ofNat 4 sh })
    else stopTrap cIllegal 0xF
  | 8 => .ok (s.modThread c.r fun th => { th with saveBase := w &&& 0x000FFFFFFFFFF000#64 })
  | 9 => .ok (s.modThread c.r fun th => { th with preempt := w &&& 0x1FFFFFFFF#64 })
  | _ => setTile s c (n - 0x40) w

/-- MOVRC (04 R99). -/
def execMovrc (g : Guard) (f : Fields) (s : State) : Out State :=
  runFull 0x00 6 g f s fun c =>
    let w : Word :=
      if f.isX then c.x f.a.toNat else if f.opt then (c.v f.a.toNat).setWidth 64 else c.pair f.a.toNat
    Eff.ofChk (controlWrite s c f.imm.toNat w) .next

/-- The system values of 05 R113 and 16 R340. -/
def systemValue (c : Cx) (n : Nat) : Nat :=
  let core := c.t.core
  match n with
  | 0 => c.r.tid
  | 1 => c.t.index
  | 2 => (declOf c.t.rdw).size
  | 3 => c.r.tid % 32
  | 4 => c.r.tid / 32
  | 5 => core
  | 6 => core % 384
  | 7 => 384 * coreStack core + core % 384
  | 8 => core / 384 % 2 + 1
  | 9 => coreDie core
  | 10 => c.la.seq % 2 ^ 32
  | _ => c.la.nteams

/-- MOVSR (04 R100). -/
def execMovsr (g : Guard) (f : Fields) (s : State) : Out State :=
  runFull 0x00 7 g f s fun c =>
    let x := systemValue c f.imm.toNat
    .next (if f.isX then s.setX c.r f.d.toNat (BitVec.ofNat 64 x) else s.setV c.r f.d.toNat (BitVec.ofNat 32 x))

/-- BKPT (15 R318). -/
def execBkpt (g : Guard) (f : Fields) (s : State) : Out State :=
  runFull 0x00 1 g f s fun _ => .trap { cause := cTrap, sub := 0x80 + f.imm.toNat }

/-- TRAP (15 R318). -/
def execTrap (g : Guard) (f : Fields) (s : State) : Out State :=
  runFull 0x00 2 g f s fun _ => .trap { cause := cTrap, sub := f.imm.toNat }

/-- CCTL_DINV (09 R205). -/
def execCctlDinv (g : Guard) (f : Fields) (s : State) : Out State :=
  runFull 0x00 8 g f s fun c => .next (s.dropL1 c.t.core)

/-- CCTL_IINV (09 R205): the copies of one line in every core's instruction cache. -/
def execCctlIinv (g : Guard) (f : Fields) (s : State) : Out State :=
  runFull 0x00 8 g f s fun c =>
    Eff.ofChk (translate s c .iinv (c.address f 128 (sextNat f.c.toNat 10))) fun x =>
      .next { s with icache := s.icache.filter fun l => !(l.pa == x.loc / 128 * 128) }

/-- CCTL_IALL (09 R205). -/
def execCctlIall (g : Guard) (f : Fields) (s : State) : Out State :=
  runFull 0x00 8 g f s fun c => .next { s with icache := s.icache.filter fun l => !(l.core == c.t.core) }

/-- TLBI_VA (09 R207): entries at any level that translate the page, whichever context's. -/
def execTlbiVa (g : Guard) (f : Fields) (s : State) : Out State :=
  runFull 0x00 9 g f s fun c =>
    let va := c.address f 4096 (sextNat f.c.toNat 10)
    if 2 ^ 48 ≤ va.toNat then .trap { cause := cXlate, sub := 3, va := va }
    else .next { s with tlb := s.tlb.filter fun e => !(e.path == va.toNat / 2 ^ (39 - 9 * e.lvl)) }

/-- TLBI_CTX (09 R207). -/
def execTlbiCtx (g : Guard) (f : Fields) (s : State) : Out State :=
  runFull 0x00 9 g f s fun c => .next { s with tlb := s.tlb.filter fun e => !(e.troot == c.la.troot) }

/-- TLBI_ALL (09 R207). -/
def execTlbiAll (g : Guard) (f : Fields) (s : State) : Out State :=
  runFull 0x00 9 g f s fun _ => .next { s with tlb := [] }

end Sys2Proof.Machine
end

