-- ==== Sys2Proof/Machine/WorkInstr.lean ====
section
/-! DEFINITION. LSTAT, LCAN and GPATCH, OP 0x50 (14 R312-R315), and what a cancel does. -/

namespace Sys2Proof.Machine

/-! ### Cancelling -/

/-- FIDs under which no thread is stopped any longer are dropped, with the fault unit's takes for them (15 R324). What an
earlier take admits is admitted first (10 R218). -/
def dropFids (s0 : State) (fids : List Nat) : State :=
  let s : State := { s0 with herd := s0.herd.admitEvery }
  let empty (f : Nat) : Bool :=
    fids.contains f && !(s.teams.any fun t => t.threads.any fun th => th.run == .faulted f)
  let keep (q : HReq) : Bool :=
    match q.src with
    | .fu f => !empty f
    | _ => true
  { s with
    fu := { s.fu with
      records := s.fu.records.filter fun r => !empty r.fid
      resumes := s.fu.resumes.filter fun r => !empty r.fid }
    herd := { s.herd with parked := s.herd.parked.filter keep, flying := s.herd.flying.filter keep } }

/-- A deposit of a cancelled team that would wait at its home is removed from the wait list (14 R314); one that an earlier
take admits is admitted first (10 R218). -/
def dropDeposits (s0 : State) (n : Nat) : State :=
  let s : State := { s0 with herd := s0.herd.admitEvery }
  let mine (q : HReq) : Bool :=
    match q.src with
    | .thread r => r.team == n
    | _ => false
  let once (q : HReq) : HReq :=
    if mine q then
      { q with op := match q.op with
          | .dep p _ => .dep p true
          | o => o }
    else q
  let gone := (s.herd.waiting.filter mine).map HReq.uid
  let t : State := { s with herd := { s.herd with
    waiting := s.herd.waiting.filter fun q => !mine q
    flying := s.herd.flying.map once } }
  t.modThreads n fun th => { th with herd := th.herd.filter fun p => !(gone.contains p.uid) }

/-- The FIDs under which threads of a team are stopped. -/
def Team.fids (t : Team) : List Nat :=
  t.threads.filterMap fun th =>
    match th.run with
    | .faulted f => some f
    | _ => none

/-- A thread that a cancel stops where it stands; what its core has queued below the number may happen before its end. -/
def Thread.cancelled (mark : Nat) (th : Thread) : Thread :=
  { th with
    run := if th.isOver then .exited else .stopped
    wait := .none
    reissue := []
    since := some (if th.isOver then th.since.getD mark else mark) }

/-- Every thread of a resident team stops (14 R314): parked requests, waiting deposits, commands at the gate and
unanswered appends are withdrawn, and its FIDs dropped. -/
def cancelTeam (s : State) (n : Nat) : State :=
  match s.teams[n]? with
  | none => s
  | some t =>
    let a := (List.range t.threads.length).foldl (fun (u : State) i => withdrawParked u ⟨n, i⟩) s
    let b := dropDeposits (a.modThreads n (Thread.cancelled a.uid)) n
    let c : State := { b with
      attns := b.attns.filter fun x => !(x.who.team == n && x.shut b)
      appends := b.appends.filter fun x => !(x.team == n) }
    dropFids c t.fids

/-- The threads of a saved team are stopped for good. A deposit that such a team left in a home's wait list stays there and
completes (15 R330). DESIGN CHOICE (log 126): 14 R314 removes the waiting deposits of the launch's threads, and this one is
recorded with none. -/
def abandonTeam (s : State) (n : Nat) : State :=
  match s.teams[n]? with
  | none => s
  | some t => dropFids (s.modThreads n (Thread.cancelled s.uid)) t.fids

/-- A cancel reaches a launch record (14 R314, 15 R328): nothing of it is placed or restored any more. -/
def cancelLaunch (s : State) (seq : Nat) : State :=
  match s.launch? seq with
  | none => s
  | some l =>
    if l.ended || l.cancelled then s
    else
      let pre := if l.pre = .restoring then .restoring else .running
      let a := s.modLaunch seq fun l => { l with cancelled := true, hasSlot := false, reserved := [], saved := [], pre := pre }
      let b := (liveTeams a seq).foldl cancelTeam a
      settleLaunch (l.saved.foldl abandonTeam b) seq

/-! ### The instructions -/

/-- The launch an id names for a thread: of its own context (14 R312). -/
def namedLaunch (s : State) (c : Cx) (id : Word) : Option Launch :=
  if id.toNat = 0 ∨ 2 ^ 48 ≤ id.toNat then none
  else (s.launch? id.toNat).filter fun l => l.ctx == c.la.ctx

/-- The work entry an id names for a thread (14 R312). -/
def namedWork (s : State) (c : Cx) (level : Nat) (id : Word) : Option WorkEntry :=
  if id.toNat = 0 ∨ 4096 ≤ id.toNat then none
  else
    let e := s.work level id.toNat
    if e.ctx = c.la.ctx then some e else none

/-- The state of a launch as LSTAT gives it (14 R313). -/
def Launch.status (l : Launch) : Nat :=
  if l.ended then 0
  else if l.cancelled then 4
  else
    match l.pre with
    | .draining => 5
    | .quiescing => 5
    | .saved => 6
    | .restoring => 7
    | .running => if l.placed.isEmpty then 1 else if l.placed.length < l.nteams then 2 else 3

/-- LSTAT's value (14 R313). -/
def launchStatus (s : State) (c : Cx) (id : Word) : Word :=
  match namedLaunch s c id with
  | none => 0
  | some l => if l.ended then 0 else BitVec.ofNat 64 (l.status * 2 ^ 48 + l.ret)
def workStatus (s : State) (c : Cx) (level : Nat) (id : Word) : Word :=
  match namedWork s c level id with
  | none => 0
  | some e => BitVec.ofNat 64 ((if e.can then 2 else 1) * 2 ^ 48 + min e.infl 0xFFFF * 2 ^ 32 + e.completed)

/-- LSTAT (14 R313): above the launch level an acquire at system scope. -/
def execLstat (g : Guard) (f : Fields) (s : State) : Out State :=
  runFull 0x50 0 g f s fun c =>
    let id := c.x f.a.toNat
    let level := f.mod.toNat
    .next
      (if level = 0 then s.setX c.r f.d.toNat (launchStatus s c id)
      else (s.setX c.r f.d.toNat (workStatus s c (level - 1) id)).dropL1 c.t.core)

/-- The launches in flight that carry an id. -/
def carrying (s : State) (level id : Nat) : List Nat :=
  (s.launches.filter fun l => !l.ended && l.ids.contains (level, id)).map Launch.seq

/-- LCAN (14 R314): the result is written when the cancel is set. -/
def execLcan (g : Guard) (f : Fields) (s : State) : Out State :=
  runFull 0x50 1 g f s fun c =>
    let id := c.x f.a.toNat
    let level := f.mod.toNat
    let put (code : Nat) : State := s.setX c.r f.d.toNat (BitVec.ofNat 64 code)
    .next
      (if level = 0 then
        match namedLaunch s c id with
        | none => put 1
        | some l => if l.ended then put 2 else cancelLaunch (put 0) l.seq
      else
        match namedWork s c (level - 1) id with
        | none => put 1
        | some e =>
          (carrying s (level - 1) id.toNat).foldl cancelLaunch ((put 0).putWork { e with can := true }))

/-- GPATCH's condition code, or the buffer it copies to (14 R315). -/
def patchTarget (s : State) (c : Cx) (id w : Word) : Nat ⊕ Word :=
  match namedWork s c 0 id with
  | none => .inl 2
  | some e =>
    let len := bitField w.toNat 0 32
    let off := bitField w.toNat 32 32
    let t := (e.n + 1) % 2
    if len = 0 ∨ len % 16 ≠ 0 ∨ off % 16 ≠ 0 ∨ e.sz.toNat < off + len then .inl 3
    else if 0 < (if t = 0 then e.inf0 else e.inf1) then .inl 1
    else .inr ((if t = 0 then e.pb0 else e.pb1) + BitVec.ofNat 64 off)

/-- The bytes of a patch stored at their homes (14 R315). Those to a remote device are dropped where no port is up, or the
link fails them after its retries (18 R380). -/
def patchStore (s : State) (c : Cx) (va : Word) (locs : List Nat) (bs : List Byte) : State :=
  if linkReadFails s locs then
    let first := va + BitVec.ofNat 64 ((locs.findIdx? isRemote).getD 0)
    ({ s.writeLocal c.t.core (s.boot.ports.headD 0) (locs.zip bs) with readFail := false }).modThread c.r fun th =>
      { th with linkFail := some (th.linkFail.getD first) }
  else s.writeFrom c.t.core (locs.zip bs)

/-- GPATCH (14 R315): the source read as a load and the buffer written as a store, at device scope; it waits for the
core's earlier stores, so that its own follow them (08 R168, R176). -/
def execGpatch (g : Guard) (f : Fields) (s : State) : Out State :=
  runFull 0x50 2 g f s fun c =>
    let src := c.x f.b.toNat
    let w := c.x f.c.toNat
    let len := bitField w.toNat 0 32
    match patchTarget s c (c.x f.a.toNat) w with
    | .inl code => .next (s.setX c.r f.d.toNat (BitVec.ofNat 64 code))
    | .inr dst =>
      Eff.ofChk (translateRange s c .load src len) fun from_ =>
        Eff.ofChk (translateRange s c .store dst len) fun to_ =>
          let out := extentLocs to_
          if sleeping s out then .wait
          else
            afterQueue s c (withBytes s c true (extentLocs from_) src Acc.load.ak fun t bs =>
              .next ((patchStore t c dst out bs).setX c.r f.d.toNat 0))

end Sys2Proof.Machine
end

