-- ==== Sys2Proof/Machine/Dispatch.lean ====
section
/-! DEFINITION. The meaning of every row of opcode_table.json: one arm per constructor of `Instr`. -/

namespace Sys2Proof.Machine

def exec (i : Instr) (s : State) : Host.Outcome State Fault Refusal :=
  match i with
  | .nop g f => Sys2Proof.Machine.execNop g f s
  | .bkpt g f => Sys2Proof.Machine.execBkpt g f s
  | .trap g f => Sys2Proof.Machine.execTrap g f s
  | .eret g f => Sys2Proof.Machine.execEret g f s
  | .eretNext g f => Sys2Proof.Machine.execEretNext g f s
  | .yield g f => Sys2Proof.Machine.execYield g f s
  | .movcr g f => Sys2Proof.Machine.execMovcr g f s
  | .movrc g f => Sys2Proof.Machine.execMovrc g f s
  | .movsr g f => Sys2Proof.Machine.execMovsr g f s
  | .cctlDinv g f => Sys2Proof.Machine.execCctlDinv g f s
  | .cctlIinv g f => Sys2Proof.Machine.execCctlIinv g f s
  | .cctlIall g f => Sys2Proof.Machine.execCctlIall g f s
  | .tlbiVa g f => Sys2Proof.Machine.execTlbiVa g f s
  | .tlbiCtx g f => Sys2Proof.Machine.execTlbiCtx g f s
  | .tlbiAll g f => Sys2Proof.Machine.execTlbiAll g f s
  | .save g f => Sys2Proof.Machine.execSave g f s
  | .rest g f => Sys2Proof.Machine.execRest g f s
  | .iadd g f => Sys2Proof.Machine.execIadd g f s
  | .isub g f => Sys2Proof.Machine.execIsub g f s
  | .imul g f => Sys2Proof.Machine.execImul g f s
  | .imulh g f => Sys2Proof.Machine.execImulh g f s
  | .imad g f => Sys2Proof.Machine.execImad g f s
  | .imadw g f => Sys2Proof.Machine.execImadw g f s
  | .iadd64 g f => Sys2Proof.Machine.execIadd64 g f s
  | .isub64 g f => Sys2Proof.Machine.execIsub64 g f s
  | .imin g f => Sys2Proof.Machine.execImin g f s
  | .imax g f => Sys2Proof.Machine.execImax g f s
  | .iabs g f => Sys2Proof.Machine.execIabs g f s
  | .ineg g f => Sys2Proof.Machine.execIneg g f s
  | .and g f => Sys2Proof.Machine.execAnd g f s
  | .or g f => Sys2Proof.Machine.execOr g f s
  | .xor g f => Sys2Proof.Machine.execXor g f s
  | .andn g f => Sys2Proof.Machine.execAndn g f s
  | .shl g f => Sys2Proof.Machine.execShl g f s
  | .shr g f => Sys2Proof.Machine.execShr g f s
  | .sar g f => Sys2Proof.Machine.execSar g f s
  | .shf g f => Sys2Proof.Machine.execShf g f s
  | .bfe g f => Sys2Proof.Machine.execBfe g f s
  | .bfi g f => Sys2Proof.Machine.execBfi g f s
  | .popc g f => Sys2Proof.Machine.execPopc g f s
  | .clz g f => Sys2Proof.Machine.execClz g f s
  | .brev g f => Sys2Proof.Machine.execBrev g f s
  | .prmt g f => Sys2Proof.Machine.execPrmt g f s
  | .icmp g f => Sys2Proof.Machine.execIcmp g f s
  | .sel g f => Sys2Proof.Machine.execSel g f s
  | .pcomb g f => Sys2Proof.Machine.execPcomb g f s
  | .mov g f => Sys2Proof.Machine.execMov g f s
  | .pget g f => Sys2Proof.Machine.execPget g f s
  | .pset g f => Sys2Proof.Machine.execPset g f s
  | .x2v g f => Sys2Proof.Machine.execX2v g f s
  | .v2x g f => Sys2Proof.Machine.execV2x g f s
  | .iaddi g f => Sys2Proof.Machine.execIaddi g f s
  | .andi g f => Sys2Proof.Machine.execAndi g f s
  | .ori g f => Sys2Proof.Machine.execOri g f s
  | .xori g f => Sys2Proof.Machine.execXori g f s
  | .shli g f => Sys2Proof.Machine.execShli g f s
  | .shri g f => Sys2Proof.Machine.execShri g f s
  | .sari g f => Sys2Proof.Machine.execSari g f s
  | .movi g f => Sys2Proof.Machine.execMovi g f s
  | .limm g f ext => Sys2Proof.Machine.execLimm g f ext s
  | .icmpi g f => Sys2Proof.Machine.execIcmpi g f s
  | .fadd g f => Sys2Proof.Machine.execFadd g f s
  | .fsub g f => Sys2Proof.Machine.execFsub g f s
  | .fmul g f => Sys2Proof.Machine.execFmul g f s
  | .ffma g f => Sys2Proof.Machine.execFfma g f s
  | .fmin g f => Sys2Proof.Machine.execFmin g f s
  | .fmax g f => Sys2Proof.Machine.execFmax g f s
  | .fcmp g f => Sys2Proof.Machine.execFcmp g f s
  | .fdiv g f => Sys2Proof.Machine.execFdiv g f s
  | .fsqrt g f => Sys2Proof.Machine.execFsqrt g f s
  | .frcp g f => Sys2Proof.Machine.execFrcp g f s
  | .frsq g f => Sys2Proof.Machine.execFrsq g f s
  | .fex2 g f => Sys2Proof.Machine.execFex2 g f s
  | .flg2 g f => Sys2Proof.Machine.execFlg2 g f s
  | .fsin g f => Sys2Proof.Machine.execFsin g f s
  | .fcos g f => Sys2Proof.Machine.execFcos g f s
  | .ftanh g f => Sys2Proof.Machine.execFtanh g f s
  | .ferf g f => Sys2Proof.Machine.execFerf g f s
  | .cvt g f => Sys2Proof.Machine.execCvt g f s
  | .frnd g f => Sys2Proof.Machine.execFrnd g f s
  | .i2i g f => Sys2Proof.Machine.execI2i g f s
  | .pack g f => Sys2Proof.Machine.execPack g f s
  | .unpack g f => Sys2Proof.Machine.execUnpack g f s
  | .fclass g f => Sys2Proof.Machine.execFclass g f s
  | .bra g f => Sys2Proof.Machine.execBra g f s
  | .brx g f => Sys2Proof.Machine.execBrx g f s
  | .call g f => Sys2Proof.Machine.execCall g f s
  | .callx g f => Sys2Proof.Machine.execCallx g f s
  | .ret g f => Sys2Proof.Machine.execRet g f s
  | .exit g f => Sys2Proof.Machine.execExit g f s
  | .sleep g f => Sys2Proof.Machine.execSleep g f s
  | .pairWord s0 s1 => Sys2Proof.Machine.execPairWord s0 s1 s
  | .ld g f => Sys2Proof.Machine.execLd g f s
  | .st g f => Sys2Proof.Machine.execSt g f s
  | .lds g f => Sys2Proof.Machine.execLds g f s
  | .sts g f => Sys2Proof.Machine.execSts g f s
  | .prf g f => Sys2Proof.Machine.execPrf g f s
  | .pld g f => Sys2Proof.Machine.execPld g f s
  | .pref g f => Sys2Proof.Machine.execPref g f s
  | .pst g f => Sys2Proof.Machine.execPst g f s
  | .ptagGet g f => Sys2Proof.Machine.execPtagGet g f s
  | .ptagSet g f => Sys2Proof.Machine.execPtagSet g f s
  | .atom g f => Sys2Proof.Machine.execAtom g f s
  | .atomc g f => Sys2Proof.Machine.execAtomc g f s
  | .red g f => Sys2Proof.Machine.execRed g f s
  | .fence g f => Sys2Proof.Machine.execFence g f s
  | .wait g f => Sys2Proof.Machine.execWait g f s
  | .hdep g f => Sys2Proof.Machine.execHdep g f s
  | .hdepc g f => Sys2Proof.Machine.execHdepc g f s
  | .hdec g f => Sys2Proof.Machine.execHdec g f s
  | .hcpy g f => Sys2Proof.Machine.execHcpy g f s
  | .htak g f => Sys2Proof.Machine.execHtak g f s
  | .hcpyt g f => Sys2Proof.Machine.execHcpyt g f s
  | .htakt g f => Sys2Proof.Machine.execHtakt g f s
  | .hcan g f => Sys2Proof.Machine.execHcan g f s
  | .hcre g f => Sys2Proof.Machine.execHcre g f s
  | .hdel g f => Sys2Proof.Machine.execHdel g f s
  | .shfl g f => Sys2Proof.Machine.execShfl g f s
  | .vote g f => Sys2Proof.Machine.execVote g f s
  | .gred g f => Sys2Proof.Machine.execGred g f s
  | .gscan g f => Sys2Proof.Machine.execGscan g f s
  | .elect g f => Sys2Proof.Machine.execElect g f s
  | .bar g f => Sys2Proof.Machine.execBar g f s
  | .bara g f => Sys2Proof.Machine.execBara g f s
  | .barw g f => Sys2Proof.Machine.execBarw g f s
  | .brinit g f => Sys2Proof.Machine.execBrinit g f s
  | .brdue g f => Sys2Proof.Machine.execBrdue g f s
  | .brarv g f => Sys2Proof.Machine.execBrarv g f s
  | .brwait g f => Sys2Proof.Machine.execBrwait g f s
  | .brtry g f => Sys2Proof.Machine.execBrtry g f s
  | .brinv g f => Sys2Proof.Machine.execBrinv g f s
  | .cpy g f => Sys2Proof.Machine.execCpy g f s
  | .cpyp g f => Sys2Proof.Machine.execCpyp g f s
  | .qcfg g f => Sys2Proof.Machine.execQcfg g f s
  | .qfill g f => Sys2Proof.Machine.execQfill g f s
  | .qpop g f => Sys2Proof.Machine.execQpop g f s
  | .qrel g f => Sys2Proof.Machine.execQrel g f s
  | .tset g f => Sys2Proof.Machine.execTset g f s
  | .tget g f => Sys2Proof.Machine.execTget g f s
  | .tld g f => Sys2Proof.Machine.execTld g f s
  | .tldp g f => Sys2Proof.Machine.execTldp g f s
  | .tref g f => Sys2Proof.Machine.execTref g f s
  | .tst g f => Sys2Proof.Machine.execTst g f s
  | .tzero g f => Sys2Proof.Machine.execTzero g f s
  | .trdv g f => Sys2Proof.Machine.execTrdv g f s
  | .twrv g f => Sys2Proof.Machine.execTwrv g f s
  | .kinit g f => Sys2Proof.Machine.execKinit g f s
  | .mma g f => Sys2Proof.Machine.execMma g f s
  | .mmas g f => Sys2Proof.Machine.execMmas g f s
  | .tepi g f => Sys2Proof.Machine.execTepi g f s
  | .tepiKv g f => Sys2Proof.Machine.execTepiKv g f s
  | .smpl g f => Sys2Proof.Machine.execSmpl g f s
  | .attn g f => Sys2Proof.Machine.execAttn g f s
  | .attnt g f => Sys2Proof.Machine.execAttnt g f s
  | .kvseqOpen g f => Sys2Proof.Machine.execKvseqOpen g f s
  | .kvseqClose g f => Sys2Proof.Machine.execKvseqClose g f s
  | .kvseqTrim g f => Sys2Proof.Machine.execKvseqTrim g f s
  | .kvseqStat g f => Sys2Proof.Machine.execKvseqStat g f s
  | .kvseqDfs g f => Sys2Proof.Machine.execKvseqDfs g f s
  | .kvfork g f => Sys2Proof.Machine.execKvfork g f s
  | .kvrel g f => Sys2Proof.Machine.execKvrel g f s
  | .lstat g f => Sys2Proof.Machine.execLstat g f s
  | .lcan g f => Sys2Proof.Machine.execLcan g f s
  | .gpatch g f => Sys2Proof.Machine.execGpatch g f s
  | .retry fid => Sys2Proof.Machine.execRetry fid s
  | .skip fid => Sys2Proof.Machine.execSkip fid s
  | .handle fid => Sys2Proof.Machine.execHandle fid s
  | .endThread fid => Sys2Proof.Machine.execEndThread fid s
  | .storePerform core k => Sys2Proof.Machine.execStorePerform core k s
  | .atomicPerform core k => Sys2Proof.Machine.execAtomicPerform core k s
  | .loadComplete team tid uid => Sys2Proof.Machine.execLoadComplete team tid uid s
  | .mxePassGrant cluster => Sys2Proof.Machine.execMxePassGrant cluster s
  | .mxeMigration uid engine => Sys2Proof.Machine.execMxeMigration uid engine s
  | .tileCommandComplete uid => Sys2Proof.Machine.execTileCommandComplete uid s
  | .copyStart uid => Sys2Proof.Machine.execCopyStart uid s
  | .granuleLanding uid plane off len => Sys2Proof.Machine.execGranuleLanding uid plane off len s
  | .copyComplete uid => Sys2Proof.Machine.execCopyComplete uid s
  | .samplerRun uid => Sys2Proof.Machine.execSamplerRun uid s
  | .appendAccept team tid => Sys2Proof.Machine.execAppendAccept team tid s
  | .appendWrite uid => Sys2Proof.Machine.execAppendWrite uid s
  | .gatePassage uid => Sys2Proof.Machine.execGatePassage uid s
  | .attentionScan uid => Sys2Proof.Machine.execAttentionScan uid s
  | .herdDepositArrival uid => Sys2Proof.Machine.execHerdDepositArrival uid s
  | .herdMatchArrival uid => Sys2Proof.Machine.execHerdMatchArrival uid s
  | .herdHdecArrival uid => Sys2Proof.Machine.execHerdHdecArrival uid s
  | .herdHcanArrival uid => Sys2Proof.Machine.execHerdHcanArrival uid s
  | .herdHdelPerform region => Sys2Proof.Machine.execHerdHdelPerform region s
  | .depositAdmit region kind => Sys2Proof.Machine.execDepositAdmit region kind s
  | .herdRequestComplete uid => Sys2Proof.Machine.execHerdRequestComplete uid s
  | .sleepExpiry team tid => Sys2Proof.Machine.execSleepExpiry team tid s
  | .bandRegroup core => Sys2Proof.Machine.execBandRegroup core s
  | .tdTake die => Sys2Proof.Machine.execTdTake die s
  | .teamPlacement seq first cores => Sys2Proof.Machine.execTeamPlacement seq first cores s
  | .coopReserve seq cores => Sys2Proof.Machine.execCoopReserve seq cores s
  | .stealRequest die seq blocks => Sys2Proof.Machine.execStealRequest die seq blocks s
  | .teamRetire team => Sys2Proof.Machine.execTeamRetire team s
  | .retirementMessage team => Sys2Proof.Machine.execRetirementMessage team s
  | .dispatchThresholdPreempt die seq team => Sys2Proof.Machine.execDispatchThresholdPreempt die seq team s
  | .drainLimitExpiry seq => Sys2Proof.Machine.execDrainLimitExpiry seq s
  | .quiesceComplete seq => Sys2Proof.Machine.execQuiesceComplete seq s
  | .restoreTeam seq cores => Sys2Proof.Machine.execRestoreTeam seq cores s
  | .pre ag val => Sys2Proof.Machine.execPre ag val s
  | .res ag val => Sys2Proof.Machine.execRes ag val s
  | .kvxExport ag val => Sys2Proof.Machine.execKvxExport ag val s
  | .kvxImport ag val => Sys2Proof.Machine.execKvxImport ag val s
  | .attgo ag val => Sys2Proof.Machine.execAttgo ag val s
  | .qdescWrite ag kind w0 w1 => Sys2Proof.Machine.execQdescWrite ag kind w0 w1 s
  | .workEntryWrite ag level id off val => Sys2Proof.Machine.execWorkEntryWrite ag level id off val s
  | .hostControlWrite ag off val => Sys2Proof.Machine.execHostControlWrite ag off val s
  | .depositWindowWrite win off data => Sys2Proof.Machine.execDepositWindowWrite win off data s
  | .regionWindowWrite ag region off data => Sys2Proof.Machine.execRegionWindowWrite ag region off data s
  | .hostHbmAccess ag wr addr len data => Sys2Proof.Machine.execHostHbmAccess ag wr addr len data s
  | .remoteRequest req => Sys2Proof.Machine.execRemoteRequest req s
  | .linkFailure uid => Sys2Proof.Machine.execLinkFailure uid s
  | .deviceNumberAssign num => Sys2Proof.Machine.execDeviceNumberAssign num s
  | .telemetrySample column sample => Sys2Proof.Machine.execTelemetrySample column sample s
  | .columnThrottle column layers => Sys2Proof.Machine.execColumnThrottle column layers s
  | .criticalTemperature column layer => Sys2Proof.Machine.execCriticalTemperature column layer s
  | .tripLimit column layer => Sys2Proof.Machine.execTripLimit column layer s
  | .retentionEntry arr => Sys2Proof.Machine.execRetentionEntry arr s
  | .retentionExit arr => Sys2Proof.Machine.execRetentionExit arr s
  | .poisonMark site => Sys2Proof.Machine.execPoisonMark site s
  | .reset warm => Sys2Proof.Machine.execReset warm s
  | .calib ports code => Sys2Proof.Machine.execCalib ports code s
  | .meminit code => Sys2Proof.Machine.execMeminit code s
  | .fwcheck image => Sys2Proof.Machine.execFwcheck image s
  | .start rec_ code => Sys2Proof.Machine.execStart rec_ code s
  | .xRegisterWriteVisible team tid => Sys2Proof.Machine.execXRegisterWriteVisible team tid s
  | .layerCooled column layer => Sys2Proof.Machine.execLayerCooled column layer s
  | .portFailure port => Sys2Proof.Machine.execPortFailure port s
  | .reportProduced => Sys2Proof.Machine.execReportProduced s

end Sys2Proof.Machine
end

