-- ==== Sys2Proof/Machine/Driver.lean ====
section
/-! DEFINITION. Which event of the device's own agents comes next when the agenda names none: the candidates, each
with whether it can happen now. The manual leaves these moments open. Events of the host, of remote devices, of
sensors and of failing parts come only from the agenda. -/

namespace Sys2Proof.Machine

/-- An event and whether it can happen. -/
abbrev Due := Instr × (Unit → Bool)

/-- Boot stages that run by themselves (18 R381); how they end is free. -/
def bootRecord : Reservation :=
  let n (i : Nat) : Nat := (Config.reservation i).toNat
  ⟨n 0, n 1, n 2, n 3, n 4, n 5, n 6, n 7, n 8, n 9⟩
def bootImage : FirmwareImage :=
  ⟨(List.range 512).map Config.firmwareByte, (List.range Config.firmwareLength).map fun j => Config.firmwareByte (512 + j)⟩
def dueBoot (s : State) : List Due :=
  [(.calib (List.range 8) (Config.bootOutcome 1), fun _ => (calibrate s (List.range 8) (Config.bootOutcome 1)).isSome),
    (.meminit (Config.bootOutcome 2), fun _ => (initMemory s (Config.bootOutcome 2)).isSome),
    (.fwcheck bootImage, fun _ => (checkFirmware s bootImage).isSome),
    (.start bootRecord (Config.bootOutcome 4), fun _ => (startDevice s bootRecord (Config.bootOutcome 4)).isSome)]

/-- The store queues. -/
def dueQueue (s : State) : List Due :=
  s.queue.flatMap fun e =>
    let k := queueIndex s e
    [(.storePerform e.core k, fun _ => (performStore s e.core k).isSome),
      (.atomicPerform e.core k, fun _ => (performAtomic s e.core k).isSome)]

/-- The threads of a team that may need something: their numbers. -/
def threadRefs (s : State) : List (TRef × Thread) :=
  (indexed 0 s.teams).flatMap fun t => (indexed 0 t.2.threads).map fun th => (⟨t.1, th.1⟩, th.2)

/-- Loads that complete, x writes, and threads that sleep. -/
def dueThreads (s : State) : List Due :=
  (threadRefs s).flatMap fun x =>
    (x.2.pend.map fun p =>
      ((.loadComplete x.1.team x.1.tid p.uid : Instr), fun _ => (completeLoad s x.1.team x.1.tid p.uid).isSome)) ++
    [(.sleepExpiry x.1.team x.1.tid, fun _ => (wakeSleeper s x.1.team x.1.tid).isSome)]
def dueXs (s : State) : List Due :=
  (indexed 0 s.teams).flatMap fun t =>
    t.2.xpend.map fun w => (.xRegisterWriteVisible t.1 w.tid, fun _ => (showX s t.1 w.tid).isSome)

/-- The matrix engines. -/
def dueTiles (s : State) : List Due :=
  s.tiles.flatMap fun x =>
    [(.tileCommandComplete x.uid, fun _ => (completeTile s x.uid).isSome),
      (.mxePassGrant x.engine, fun _ => (grantPass s x.engine).isSome),
      (.appendWrite x.uid, fun _ => x.kv.isSome && (writeAppend s x.uid).isSome)]

/-- The copy engines: 16 bytes at a time. -/
def dueCopies (s : State) : List Due :=
  s.copies.flatMap fun x =>
    [(.copyStart x.uid, fun _ => (startCopy s x.uid).isSome), (.copyComplete x.uid, fun _ => (completeCopy s x.uid).isSome)] ++
    (indexed 0 x.planes).map fun p =>
      let off := 16 * ((firstFrom (fun i => !bitAt p.2.landed i) (p.2.len / 16) 0).getD 0)
      (.granuleLanding x.uid p.1 off p.2.grain, fun _ => (landGranule s x.uid p.1 off p.2.grain).isSome)

/-- The samplers and the Eland die. -/
def dueEland (s : State) : List Due :=
  (s.smpls.map fun x => ((.samplerRun x.uid : Instr), fun _ => (runSampler s x.uid).isSome)) ++
  (s.appends.map fun x => (.appendAccept x.team x.tid, fun _ => (answerAppend s x.team x.tid).isSome)) ++
  s.attns.flatMap fun x =>
    [(.gatePassage x.uid, fun _ => (passGate s x.uid).isSome), (.attentionScan x.uid, fun _ => (scanAttn s x.uid).isSome)]

/-- The herd. -/
def dueHerd (s : State) : List Due :=
  (s.herd.done.map fun d => ((.herdRequestComplete d.uid : Instr), fun _ => (completeHerd s d.uid).isSome)) ++
  (s.herd.waiting.map fun q =>
    (.depositAdmit q.region (q.fields.getD 0 0), fun _ => (admitDeposit s q.region (q.fields.getD 0 0)).isSome)) ++
  (s.herd.flying.flatMap fun q =>
    [(.herdDepositArrival q.uid, fun _ => (arriveDeposit s q.uid).isSome),
      (.herdMatchArrival q.uid, fun _ => (arriveMatch s q.uid).isSome),
      (.herdHdecArrival q.uid, fun _ => (arriveHdec s q.uid).isSome),
      (.herdHcanArrival q.uid, fun _ => (arriveHcan s q.uid).isSome)]) ++
  s.herd.regions.map fun r => (.herdHdelPerform r.num, fun _ => (performHdel s r.num).isSome)

/-- The fault unit: the action of each resume tuple it holds (15 R322). -/
def dueResumes (s : State) : List Due :=
  s.fu.resumes.map fun r =>
    let free := !((stoppedUnder s true r.fid).isEmpty && !(stoppedUnder s false r.fid).isEmpty)
    ((if r.action = 0 then .retry r.fid else if r.action = 1 then .skip r.fid else if r.action = 2 then .handle r.fid
      else .endThread r.fid : Instr), fun _ => free)

/-- A placement of a launch by a die. -/
def placementBy (s : State) (l : Launch) (die : Nat) : List Due :=
  match (if l.placing && !l.decl.coop then nextTeam l die else none) with
  | none => []
  | some i =>
    let group := l.groupOf i
    let cores := (dieCores die).filter fun c => columnAllows s l c && !savedFirst s l c
    match findRoom s l cores group with
    | none => []
    | some cs => [(.teamPlacement l.seq (group.headD 0) cs, fun _ => (placeTeams s l.seq (group.headD 0) cs).isSome)]

/-- The reservation and the placements of a cooperative launch. -/
def placementCoop (s : State) (l : Launch) : List Due :=
  if !l.placing || !l.decl.coop then []
  else
    match l.reserved with
    | x :: _ =>
      let group := l.groupOf x.index
      let cores := group.filterMap fun i => (l.reserved.find? fun y => y.index == i).map Claim.core
      [(.teamPlacement l.seq (group.headD 0) cores, fun _ => (placeTeams s l.seq (group.headD 0) cores).isSome)]
    | [] =>
      if l.nteams ≤ l.placed.length then []
      else
        match findRoom s l ((List.range 1536).filter fun c => columnAllows s l c && !savedFirst s l c) l.unplaced with
        | none => []
        | some cs => [(.coopReserve l.seq cs, fun _ => (reserveCoop s l.seq cs).isSome)]

/-- A restore of a launch. -/
def dueRestore (s : State) (l : Launch) : List Due :=
  if l.pre == .restoring || (l.pre == .saved && l.agent == .td) then
    let group := ((restoreGroup s l).map fun n => (s.teams[n]?).elim 0 Team.index) ++ l.restoreRest
    match findRoom s l ((List.range 1536).filter fun c => !restoredFirst s l c) group with
    | none => []
    | some cs => [(.restoreTeam l.seq cs, fun _ => (restoreTeams s l.seq cs).isSome)]
  else []

/-- The threshold rule for a launch on a die. -/
def dueThreshold (s : State) (l : Launch) (die : Nat) : List Due :=
  if decide (6 ≤ l.cls) && l.hasSlot && overThreshold s die then
    match pickedTeam s (columnTeams s die (leastColumn s die)) with
    | none => []
    | some n => [(.dispatchThresholdPreempt die l.seq n, fun _ => (thresholdPreempt s die l.seq n).isSome)]
  else []

/-- The steal requests of a die's TD (16 R350): one block at a time. -/
def dueSteals (s : State) (die : Nat) : List Due :=
  if s.launches.any fun m => m.waitsFor die then []
  else
    s.launches.filterMap fun l =>
      if l.ended || !l.hasSlot || !l.placing || l.decl.coop then none
      else
        (firstFrom (l.grantable die) l.blocks 0).map fun b =>
          (.stealRequest die l.seq [b], fun _ => (stealBlocks s die l.seq [b]).isSome)

/-- The team distributors. -/
def dueTds (s : State) : List Due :=
  ((indexed 0 s.teams).flatMap fun t =>
    [(.retirementMessage t.1, fun _ => (s.launch t.2.seq).reports.contains t.1),
      (.teamRetire t.1, fun _ => t.2.live && (retireTeam s t.1).isSome)]) ++
  (s.launches.flatMap fun l =>
    if l.ended then []
    else [(.quiesceComplete l.seq, fun _ => (quiesced s l.seq).isSome)] ++ dueRestore s l ++ placementBy s l 0 ++ placementBy s l 1 ++
      placementCoop s l ++ dueThreshold s l 0 ++ dueThreshold s l 1) ++
  dueSteals s 0 ++ dueSteals s 1 ++
  [(.tdTake 0, fun _ => (takeTuple s 0).isSome), (.tdTake 1, fun _ => (takeTuple s 1).isSome)]

/-- Drain limits that run out about as often as the turns go (15 R327). -/
def dueLimits (s : State) : List Due :=
  (s.launches.filter fun l => l.limit != 0 && s.turn % l.limit == l.limit - 1).map fun l =>
    (.drainLimitExpiry l.seq, fun _ => (expireDrain s l.seq).isSome)

/-- Arrays in retention: each leaves it in its turn (07 R163). -/
def dueArrays (s : State) : List Due := s.retained.map fun a => (.retentionExit a, fun _ => true)

/-- What comes when nothing else does: reports and drain limits. -/
def dueLast (s : State) : List Due :=
  [(.reportProduced, fun _ => (produceReport s).isSome)] ++
  s.launches.map fun l => (.drainLimitExpiry l.seq, fun _ => (expireDrain s l.seq).isSome)

/-- A list begun at another place. -/
def rotated {α : Type} (k : Nat) (l : List α) : List α := l.drop (k % l.length) ++ l.take (k % l.length)

/-- The candidates agent by agent. -/
def candidateGroups (s : State) : List (List Due) :=
  [dueBoot s, dueQueue s, dueThreads s, dueXs s, dueTiles s, dueCopies s, dueEland s, dueHerd s, dueResumes s, dueTds s,
    dueArrays s]

/-- The candidates in the order in which they are asked: agents and their events take turns. -/
def candidates (s : State) : List Due :=
  dueLimits s ++ (rotated s.turn ((candidateGroups s).map (rotated s.turn))).flatten

/-- The first candidate that can happen. -/
def nextEvent (s : State) : Option Instr := ((candidates s).find? fun d => d.2 ()).map Prod.fst

/-- The first event that can happen when nothing else does. -/
def lastEvent (s : State) : Option Instr := ((candidates s ++ dueLast s).find? fun d => d.2 ()).map Prod.fst

end Sys2Proof.Machine
end

