-- ==== Sys2Proof/Machine/Silent.lean ====
section
/-! DEFINITION. The moves that are no row of the table: caches take and drop copies (07 R148, R154, 02 R45), writes leave a
queue's head (08 R168), reductions merge (R179), errors are corrected or met (07 R161), a link read fails (18 R380), and
the host reads the window space: what each register reads as (18 R372-R376, R384, R395). -/

namespace Sys2Proof.Machine

/-! ### Caches and the store queue -/

/-- The entry of a table that translates a path at a level, as the core's walker reads it now (07 R140, R148). -/
def entryAt (s : State) (core troot path lvl : Nat) : Nat → Nat → Option Nat
  | 0, _ => none
  | fuel + 1, table =>
    let at_ := lvl - fuel
    match readEntry s core troot table at_ (BitVec.ofNat 64 (path * 2 ^ (39 - 9 * lvl))) 0 with
    | .error _ => none
    | .ok e =>
      if fuel = 0 then some e
      else if bitAt e 0 ∧ !entryBad e at_ ∧ !bitAt e 1 then entryAt s core troot path lvl fuel (bitField e 12 40 * 4096)
      else none

/-- A core caches a translation that its die's cache holds (07 R148). -/
def fillTlb (s : State) (core troot lvl path : Nat) : Option State :=
  if 4 ≤ lvl ∨ (s.tlb.any fun e => e.core == core && e.troot == troot && e.lvl == lvl && e.path == path) then none
  else (entryAt s core troot path lvl (lvl + 1) troot).map fun e => { s with tlb := ⟨core, troot, lvl, path, e⟩ :: s.tlb }

/-- A core caches a translation by a walk of its own, whose reads are an acquire at device scope: its L1 lines go (07 R148,
08 R170). A translation made in an access stands for one that the die's cache serves (log 128). -/
def walkTlb (s : State) (core troot lvl path : Nat) : Option State :=
  (fillTlb s core troot lvl path).map fun t => t.dropL1 core

/-- An instruction cache takes a line (02 R45). -/
def fillLine (s : State) (core pa : Nat) : Option State :=
  if pa % 128 ≠ 0 ∨ hbmSize < pa + 128 ∨ lineCached s core pa ∨ damaged s (span pa 128) ∨ sleeping s [pa] then none
  else some { s with icache := ⟨core, pa, memLine s pa, none⟩ :: s.icache, l2 := s.l2.touch 0 [pa] }

/-- The oldest write of a core's queue that its other threads do not see leaves the head (08 R168). DESIGN CHOICE
(log 96): an atomic not yet performed, a returning one too, holds no later write of its core back here. -/
def advanceHead (s : State) (core : Nat) : Option State :=
  ((s.coreQueue core).find? fun e => !e.left).map fun e =>
    { s with queue := s.queue.map fun x => if x.uid = e.uid then { x with left := true } else x }

/-! ### What the host reads -/

/-- The status word (18 R375). -/
def statusWord (s : State) : Word :=
  let b := s.boot
  BitVec.ofNat 64 (b.fwver.toNat * 2 ^ 32 + bitNat b.warm 16 + b.fcode % 256 * 256 + b.stage % 16 * 16 + bitNat b.fail 1 +
    bitNat b.ready 0)

/-- The bytes of the reservation record (18 R395). -/
def reservationBytes (s : State) : List Byte :=
  match s.hst.resv with
  | none => leBytes 128 0
  | some r =>
    padTo 128 ([0xFFF + r.launchSize * 2 ^ 24, r.launchBase, 0xFFE + r.faultSize * 2 ^ 24, r.faultBase,
      0xFFD + r.pageSize * 2 ^ 24, r.pageBase, r.poolBase, r.poolSize, r.ovfBase, r.ovfSize, hbmSize].flatMap (leBytes 8 ·))

/-- A work entry's 64 bytes (18 R376). -/
def WorkEntry.bytes (e : WorkEntry) : List Byte :=
  padTo 64 (leBytes 4 e.completed ++ leBytes 4 e.infl ++ leBytes 8 (bitNat e.can 0 + e.ctx * 2 ^ 16) ++
    wordsBytes [e.pb0, e.pb1, e.sz] ++ leBytes 4 e.inf0 ++ leBytes 4 e.inf1 ++ leBytes 4 e.n)

/-- A record's 32 bytes (18 R384). -/
def LogRec.bytes (r : LogRec) : List Byte :=
  leBytes 2 r.kind ++ leBytes 2 r.unitNo ++ leBytes 4 0 ++ wordsBytes [r.cycles, r.d0, r.d1]

/-- The byte of a log or ring at an offset: the count, and record n at 64 + (n mod 4,096) × 32 (18 R384). -/
def Log.byteAt (l : Log) (off : Nat) : Byte :=
  if off < 8 then (leBytes 8 l.count).getD off 0
  else if off < 64 then 0
  else
    let place := (off - 64) / 32
    let first := l.count - l.recs.length
    let n := if first % 4096 ≤ place then first / 4096 * 4096 + place else (first / 4096 + 1) * 4096 + place
    if 4096 ≤ place then 0 else ((l.recs[n - first]?).elim [] LogRec.bytes).getD ((off - 64) % 32) 0

/-- The byte of three logs laid one after another (18 R384). -/
def logsByte (ls : List Log) (off : Nat) : Byte := (ls.getD (off / 0x40000) {}).byteAt (off % 0x40000)

/-- The byte of a privileged agent's read of CONTROL (18 R376). -/
def controlByte (s : State) (off : Nat) : Byte :=
  let h := s.hst
  if off < 0x1020 then (wordsBytes [h.pre, h.res, h.kvx, h.kvxa]).getD (off - 0x1000) 0
  else if off < 0x2000 then 0
  else if off < 0x2040 then (wordsBytes h.nonce).getD (off - 0x2000) 0
  else if off < 0x2400 then 0
  else if off < 0x2600 then h.report.getD (off - 0x2400) 0
  else if off < 0x3000 then 0
  else if off < 0x3080 then (reservationBytes s).getD (off - 0x3000) 0
  else if off < 0x100000 then 0
  else if off < 0x200000 then
    let q := s.qdesc ((off - 0x100000) / 16)
    (wordsBytes [q.w0, q.w1]).getD (off % 16) 0
  else if off < 0x2C0000 then
    let i := (off - 0x200000) / 64
    (s.work (i / 4096) (i % 4096)).bytes.getD (off % 64) 0
  else if off < 0x800000 then 0
  else if off < 0x8C0000 then logsByte h.rings (off - 0x800000)
  else if off < 0xC00000 then 0
  else if off < 0xCC0000 then logsByte h.elogs (off - 0xC00000)
  else 0

/-- The byte a host agent reads at an offset of the window space (18 R372). -/
def hostByte (s : State) (priv : Bool) (off : Nat) : Byte :=
  if off < 0x1000 then (wordsBytes [statusWord s]).getD off 0
  else if needsPrivilege off ∧ !priv then 0
  else if off < 0x1000000 then controlByte s off
  else if off < 0x11000000 then windowByte s false (off - 0x1000000)
  else if off < 0x12000000 then windowByte s true (off - 0x11000000)
  else if 0x100000000 ≤ off ∧ off < 0x100000000 + hbmSize then memGet s.mem (off - 0x100000000)
  else 0

/-- A read of a host agent at an offset of the window space, answered (18 R372, R374): of compute HBM as the agents beyond the
package read it, elsewhere byte by byte. -/
def hostReads (s : State) (ag : HostAgent) (off len : Nat) : State :=
  let t := if needsPrivilege off ∧ !ag.priv then refuseHost s ag off false else s
  if ag.priv ∧ 0x100000000 ≤ off ∧ off + len ≤ 0x100000000 + hbmSize then
    let r := t.readOut (off - 0x100000000) len
    r.1.hostAnswer ag off (r.2.getD []) r.2.isNone
  else t.hostAnswer ag off ((List.range len).map fun i => hostByte t ag.priv (off + i))

/-! ### The moves -/

/-- A silent move; none where it cannot happen. -/
def silentMove (s : State) : Silent → Option State
  | .fillL1 core loc => some (s.fillL1 core loc)
  | .dropL1 core loc => some { s with l1 := s.l1.filter fun l => !(l.core == core && l.loc == loc) }
  | .fillLine core pa => fillLine s core pa
  | .dropLine core pa => some { s with icache := s.icache.filter fun l => !(l.core == core && l.pa == pa) }
  | .fillTlb core troot lvl path => fillTlb s core troot lvl path
  | .walkTlb core troot lvl path => walkTlb s core troot lvl path
  | .dropTlb core troot lvl path =>
    some { s with tlb := s.tlb.filter fun e => !(e.core == core && e.troot == troot && e.lvl == lvl && e.path == path) }
  | .advance core => advanceHead s core
  | .merge uid into => mergeReds s uid into
  | .corrected die unitNo detail => if die < 3 then some (s.postRecord die 1 unitNo detail 0) else none
  | .fillL2 loc => if isHbm loc ∧ loc < hbmSize ∧ !sleeping s [loc] then some { s with l2 := s.l2.touch 0 [loc] } else none
  | .damage site => damageAt s site
  | .backingLost dep die unitNo =>
    if die < 3 ∧ s.herd.touched.contains dep then
      discardTuple s dep die unitNo
    else none
  | .pageLost pn die unitNo => if die < 3 ∧ s.herd.pagesTouched then discardPage s pn die unitNo else none
  | .readFails => some { s with readFail := true }
  | .hostRead ag off len => if agentWaits s ag then none else some (hostReads s ag off len)

end Sys2Proof.Machine
end

