-- ==== Sys2Proof/Machine/Cycle.lean ====
section
/-! DEFINITION. One move of the machine (01 R19, R20): the word of a thread, fetched, decoded and executed; an event; or a
silent move. -/

namespace Sys2Proof.Machine

/-- The current thread's word, fetched, decoded and executed (01 R20, R21): a fetch fault or a word that is no instruction
traps. A thread that cannot issue, and no thread, change nothing. -/
def runCurrent (s : State) : Out State :=
  match s.view with
  | none => .next s
  | some c =>
    if !c.canIssue then .next s
    else
      match fetchWord s c c.th.pc with
      | .error (.trap t) => .next (s.trapIn s c t)
      | .error (.fault f) => .fault f
      | .error .wait => .next s
      | .ok w =>
        match decodeWord w.1.toNat w.2 with
        | .instr i _ => exec i s
        | .illegal sub slot => .next (s.trapIn s c (illegalTrap c w.1 sub slot))
        | .short => .next (s.trapIn s c { cause := cIllegal, sub := 0xE })

/-- A thread can issue. -/
def runnable (s : State) (r : TRef) : Bool := (s.viewOf r).any Cx.canIssue

/-- The threads in order, those after the current one first. -/
def roundRobin (s : State) : List TRef :=
  let all := (threadRefs s).map Prod.fst
  match s.cur with
  | none => all
  | some r =>
    let later (x : TRef) : Bool := decide (r.team < x.team) || (x.team == r.team && decide (r.tid < x.tid))
    all.filter later ++ all.filter fun x => !later x

/-- The thread whose word comes next: the first that can issue. -/
def pick (s : State) : Option TRef := (roundRobin s).find? (runnable s)

/-- A thread's word executed. -/
def stepThread (s : State) (r : TRef) : Out State := runCurrent { s with cur := some r, turn := s.turn + 1 }

/-- An event of the device's own. -/
def stepEvent (s : State) (i : Instr) : Out State := exec i { s with turn := s.turn + 1 }

/-- A move of the agenda. -/
def perform (s : State) : Move → Out State
  | .thread r => runCurrent { s with cur := some r }
  | .event i => exec i s
  | .silent m => .next ((silentMove s m).getD s)

/-- A package that holds after its trip limit acts only on RESET (18 R387). -/
def performHeld (s : State) : Move → Out State
  | .event (.reset warm) => exec (.reset warm) s
  | _ => .next s

/-- One move: the agenda's next; with an empty agenda a thread's word and an event in turn, as far as there are any. -/
def cycle (s : State) : Out State :=
  match s.agenda with
  | m :: ms =>
    let t : State := { s with agenda := ms }
    if s.boot.held then performHeld t m else perform t m
  | [] =>
    if s.boot.held then .next s
    else
      match (if s.turn % 2 = 1 then nextEvent s else none) with
      | some i => stepEvent s i
      | none =>
        match pick s with
        | some r => stepThread s r
        | none =>
          match lastEvent s with
          | some i => stepEvent s i
          | none => .next s

end Sys2Proof.Machine
end

