-- ==== Sys2Proof/Machine/Place.lean ====
section
/-! DEFINITION. Placing an instruction where the next step fetches (log 14): in the line of the thread that issues next,
or, where none can issue, in a line of a launch installed for it. It stands for the program load that the host and the team
distributors do. -/

namespace Sys2Proof.Machine

/-- The 16 words of a line whose word `i` is an instruction's first word: START marks every word that is no extension
(02 R41). -/
def lineWith (i : Nat) (w x : Word) : List Word :=
  let ext := !bitAt w.toNat 63 && bitField w.toNat 0 2 == 1
  let head : Nat := 0xFFFE - (if ext then 2 ^ (i + 1) else 0)
  (((List.replicate 16 (0 : Word)).set 0 (BitVec.ofNat 64 (head % 65536))).set i w).set (i + 1) (if ext then x else 0)

/-- The line put at a physical address; no cached copy of it stays. -/
def State.putLine (s : State) (pa : Nat) (ws : List Word) : State :=
  { s with
    mem := memPut s.mem pa (ws.flatMap fun w => leBytes 8 w.toNat)
    poison := s.poison.filter fun g => decide (g < pa / 8) || decide (pa / 8 + 16 ≤ g)
    icache := s.icache.filter fun l => l.pa != pa }

/-- The thread's PC lies in a line of compute HBM that it may fetch, past the line's header: the line's physical
address. -/
def fetchable (s : State) (r : TRef) : Option Nat :=
  match s.viewOf r with
  | none => none
  | some c =>
    match translate s c .fetch c.th.pc with
    | .error _ => none
    | .ok x => if c.th.pc.toNat % 128 < 8 then none else some (x.loc / 128 * 128)

/-- The tuple of the installed launch: entry 0x4008, one team of one thread that declares every register. -/
def placedTuple : List Word := [1, 0x4008, 1, 0x000062200001FC00, 0, 0, 0, 0]

/-- A launch of one privileged thread, its address space one 1 GiB page, with the tables at 0x1000 and 0x2000. -/
def State.install (s : State) : State :=
  let l : Launch :=
    { seq := s.nextSeq, tuple := placedTuple, kind := 1, ctx := 1, troot := 0x1000, priv := true, slot := 0, die := 0,
      cls := 0, x0 := 0, placed := [0] }
  let t := newTeam l ⟨0, 0, 0, 0, 0⟩
  { s with
    mem := memPut (memPut s.mem 0x1000 (leBytes 8 0x2001)) 0x2000 (leBytes 8 0x3F)
    tlb := []
    launches := s.launches ++ [l]
    nextSeq := nextNumber s.nextSeq
    teams := s.teams ++ [t]
    boot := { s.boot with stage := 5, fail := false, ready := true } }

/-- The state with the words of an instruction where the next step fetches. -/
def State.placeWords (s : State) (w x : Word) : State :=
  let go (t : State) (r : TRef) (pa : Nat) : State :=
    let i := bitField ((t.thread r).elim 0 Thread.pc).toNat 3 4
    { t.putLine pa (lineWith i w x) with
      agenda := [.thread r]
      boot := { t.boot with held := false } }
  let fallback : State := go s.install ⟨s.teams.length, 0⟩ 0x4000
  match pick s with
  | none => fallback
  | some r =>
    match fetchable s r with
    | none => fallback
    | some pa => go s r pa

end Sys2Proof.Machine
end

