-- ==== Sys2Proof/Machine/Step.lean ====
section
/-! DEFINITION. The step of the machine, and the placing of one instruction for it. -/

namespace Sys2Proof.Machine

/-- One step: one move of the machine (01 R19, R20). -/
def step (s : State) : Host.Outcome State Fault Refusal := cycle s

/-- The state with one instruction of `nbits` bits placed where the next step fetches. -/
def State.withFetchWord (s : State) (nbits w : Nat) : State :=
  let u := w % 2 ^ nbits
  s.placeWords (BitVec.ofNat 64 u) (BitVec.ofNat 64 (u / 2 ^ 64))

end Sys2Proof.Machine
end

