-- ==== Sys2Proof/Safety.lean ====
section
/-! DEFINITION. The terms of the claims: when a word stands at its effect and what it leaves when it completes, what a
step that goes on is, what a state keeps of another, and the invariant of memory. -/

namespace Sys2Proof.Machine

/-- A safe step: the machine goes on, with neither a fault nor a refusal. -/
def StepsOn (s : State) : Prop := ∃ t, step s = .next t

/-- The word of an opcode and function stands at its guard (01 R20, R21): a thread is current and can issue, no register
that the word names awaits a result (R22) or sleeps (07 R163), and no check of the word fails. `x` is the X field, `ext`
whether the word takes an extension, and `skipV` leaves out the wait for vector registers (10 R225). -/
structure AtGuard (op fn x : Nat) (ext skipV : Bool) (g : Guard) (f : Fields) (s : State) (c : Cx) : Prop where
  view : s.view = some c
  issues : c.canIssue = true
  arrived : c.hazard (if skipV then [] else shapeVecs (shape op fn f) f) (shapeXs (shape op fn f) f)
    (g.gp.toNat :: (shape op fn f).preds) = false
  awake : wordWaits s c (shapeVecs (shape op fn f) f) = false
  legal : frontTrap op fn x g f c ext = none

/-- The word stands at its effect: its guard is true as well, no copy, take or acquire of the thread holds its accesses
back (10 R227, 08 R171), and no register that it reads holds an uncorrectable error (07 R161, R162). -/
structure AtEffect (op fn x : Nat) (ext skipV : Bool) (g : Guard) (f : Fields) (s : State) (c : Cx) : Prop
    extends AtGuard op fn x ext skipV g f s c where
  guard : c.guard g = true
  free : gatedWord op fn f = true → c.held = false ∧ awaitsAcquire s c = false
  sound : c.flawTrap (sourceVecs op fn f) (sourceXs op fn f) 0 = none

/-- A full word without extension stands at its effect. -/
abbrev Acts (op fn : Nat) (g : Guard) (f : Fields) (s : State) (c : Cx) : Prop :=
  AtEffect op fn 0 false false g f s c

/-- A pair word stands at its effect (01 R20, 02 R35). -/
structure PairActs (s0 s1 : Slot) (s : State) (c : Cx) : Prop where
  view : s.view = some c
  issues : c.canIssue = true
  arrived : c.hazard (slotVecs s0 ++ slotVecs s1) [] (slotPreds s0 ++ slotPreds s1) = false
  awake : wordWaits s c (slotVecs s0 ++ slotVecs s1) = false
  legal : pairTrap c s0 s1 = none
  sound : c.pairFlaw s0 s1 = none

/-- The state `t` of a word's effects with PC at the word's sequential successor (02 R43). -/
def Cx.past (c : Cx) (t : State) (ext : Bool := false) : State := t.setPc c.r ((nextWord c.th.pc ext).getD 0)

/-- Completion: the outcome of a word that ends with these effects. -/
def Cx.completes (c : Cx) (t : State) (ext : Bool := false) : Out State := .next (c.past t ext)

/-- An event may happen: the package does not hold after its trip limit (18 R387). -/
abbrev Awake (s : State) : Prop := s.boot.held = false

/-- Every location but those listed reads in `t` as it reads in `s`. -/
def MemKept (s t : State) (but : List Nat) : Prop := ∀ a, a ∉ but → memGet t.mem a = memGet s.mem a

/-- A read of these locations by the thread gives these bytes at once: of the bytes that its store queue does not serve no
array sleeps, no link fails, no granule is poisoned or uncorrectable, and no atomic that the thread sees there awaits its
performance (07 R161-R163, 08 R168, 18 R380). -/
structure Reads (s : State) (c : Cx) (wide : Bool) (locs : List Nat) (bs : List Byte) : Prop where
  awake : sleeping s (unserved s c locs) = false
  linked : linkReadFails s (unserved s c locs) = false
  clean : readSub s c.t.core wide (unserved s c locs) = none
  bytes : readBytes s c wide 0 locs = some bs

/-- One thread has become `th`; every other thread, and memory, stand. -/
structure Became (s t : State) (r : TRef) (th : Thread) : Prop where
  thread : t.thread r = some th
  others : ∀ q, q ≠ r → t.thread q = s.thread q
  mem : t.mem = s.mem

/-- The thread past its word, waiting for nothing (02 R43). -/
def Cx.gone (c : Cx) : Thread := { c.th with pc := (nextWord c.th.pc false).getD 0, wait := .none, since := none }

/-- The thread past its word, with one AS operation more (09 R204, 15 R335). -/
def Cx.issuedAs (c : Cx) : Thread := { c.gone with cntAs := c.th.cntAs + 1, issues := c.th.issues + 1 }

/-- All of the machine but its teams stands as before (its own counters aside). -/
structure SameDevice (s t : State) : Prop where
  mem : t.mem = s.mem
  poison : t.poison = s.poison ∧ t.tilePoison = s.tilePoison ∧ t.errors = s.errors
  retained : t.retained = s.retained
  queue : t.queue = s.queue
  l1 : t.l1 = s.l1
  l2 : t.l2 = s.l2
  icache : t.icache = s.icache
  tlb : t.tlb = s.tlb
  launches : t.launches = s.launches
  nextSeq : t.nextSeq = s.nextSeq
  herd : t.herd = s.herd
  fu : t.fu = s.fu
  copies : t.copies = s.copies
  tiles : t.tiles = s.tiles
  smpls : t.smpls = s.smpls
  attns : t.attns = s.attns
  appends : t.appends = s.appends
  seqs : t.seqs = s.seqs
  hst : t.hst = s.hst
  boot : t.boot = s.boot
  cols : t.cols = s.cols
  outbound : t.outbound = s.outbound ∧ t.answers = s.answers
  drainLimit : t.drainLimit = s.drainLimit
  planeReads : t.planeReads = s.planeReads

/-- The thread has issued a load-class operation and gone past its word (01 R22, 09 R204); the x registers that it will
write are in the order of the thread's x writes (05 R109). Every other register of the team, every other team and thread,
memory and the rest of the device stand, but the core's store queue, L1 lines, the L2 lines, what State notes of plane
loads, and the Reads that leave the device (18 R379). -/
structure Issued (s t : State) (c : Cx) (p : Pending) : Prop where
  teams : t.teams = ((s.modThread c.r fun _ => { c.th with
    pc := (nextWord c.th.pc false).getD 0
    since := none
    pend := c.th.pend ++ [p]
    cntLd := if p.counted then c.th.cntLd + 1 else c.th.cntLd }).awaitX c.r (p.xregs.map Prod.fst) p.uid).teams
  device : SameDevice
    { s with queue := t.queue, l1 := t.l1, l2 := t.l2, planeReads := t.planeReads, outbound := t.outbound } t
  sent : ∃ reads, t.outbound = s.outbound ++ reads ∧ ∀ x ∈ reads, isOutside x.loc = true ∧ ∃ n, x.kind = .read n

/-- The thread has sent a herd request and gone past its word (10 R220, R221): the request is on its way, the thread
awaits its completion, and deposits count on ST, the others on LD; everything else stands. -/
structure Requested (s t : State) (c : Cx) (q : HReq) (p : HPend) : Prop where
  teams : t.teams = ((s.modThread c.r fun _ => { c.th with
    pc := (nextWord c.th.pc false).getD 0
    since := none
    herd := c.th.herd ++ [p]
    cntSt := if p.fn ≤ 1 then c.th.cntSt + 1 else c.th.cntSt
    cntLd := if p.fn ≤ 1 then c.th.cntLd else c.th.cntLd + 1 }).awaitX c.r p.xs.toList p.uid).teams
  device : SameDevice { s with herd := { s.herd with flying := s.herd.flying ++ [q] } } t

/-- The registers of a thread that no data instruction writes stand as before: modes, trap registers, counters, what it
waits for and what it has in flight (01 R12-R17, 09 R204). -/
structure SameControl (x y : Thread) : Prop where
  fpmode : y.fpmode = x.fpmode
  skew : y.skew = x.skew
  priv : y.priv = x.priv
  trapCause : y.trapCause = x.trapCause
  trapPc : y.trapPc = x.trapPc
  trapVa : y.trapVa = x.trapVa
  saveBase : y.saveBase = x.saveBase
  preempt : y.preempt = x.preempt
  counters : y.cntLd = x.cntLd ∧ y.cntSt = x.cntSt ∧ y.cntAs = x.cntAs ∧ y.cntMx = x.cntMx
  xseq : y.xseq = x.xseq
  hnd : y.hnd = x.hnd
  run : y.run = x.run
  wait : y.wait = x.wait
  flight : y.pend = x.pend ∧ y.herd = x.herd ∧ y.reissue = x.reissue
  rest : y.finished = x.finished ∧ y.linkFail = x.linkFail ∧ y.issues = x.issues

/-- A team's registers that its threads share, but x writes under way and FPST, stand as before (05 R108). -/
structure SameShared (t u : Team) : Prop where
  place : u.seq = t.seq ∧ u.index = t.index ∧ u.core = t.core ∧ u.rdw = t.rdw ∧ u.live = t.live ∧ u.order = t.order
  shares : u.scrBase = t.scrBase ∧ u.extBase = t.extBase ∧ u.tileBase = t.tileBase
  x : u.x = t.x ∧ u.xflaws = t.xflaws
  barriers : u.bars = t.bars ∧ u.convs = t.convs ∧ u.strms = t.strms ∧ u.hbars = t.hbars
  tiles : u.tdesc = t.tdesc ∧ u.ttag = t.ttag ∧ u.withdrawn = t.withdrawn
  instances : u.instances = t.instances

/-- What a data word leaves of the machine (04): the device, every other team and thread, what the team shares, and the
registers of the thread but the destinations: vector registers `vs`, each with its precision tag (01 R8) and what errors
stand in it, predicates `ps` and x registers `xs`. Flags of FPST are only added. -/
structure DataFrame (s t : State) (c : Cx) (vs ps xs : List Nat) : Prop where
  device : SameDevice s t
  teams : ∀ n, n ≠ c.r.team → t.teams[n]? = s.teams[n]?
  team : ∃ u, t.teams[c.r.team]? = some u ∧ SameShared c.t u ∧ c.t.fpst &&& u.fpst = c.t.fpst ∧
    (∀ n, n ≠ c.r.tid → u.threads[n]? = c.t.threads[n]?) ∧ ∀ n, n ∉ xs → u.readX c.r.tid n = c.x n
  thread : ∃ th, t.thread c.r = some th ∧ SameControl c.th th ∧
    (∀ n, n ∉ vs → th.v[n]? = c.th.v[n]? ∧ th.tags[n]? = c.th.tags[n]? ∧ ∀ b, (n, b) ∈ th.flaws ↔ (n, b) ∈ c.th.flaws) ∧
    ∀ n, n ∉ ps → th.pred n = c.p n

/-- The trap of the first of a list of checks whose condition holds (01 R21, 15 R317). -/
def FirstFault : List (Prop × Trap) → Trap → Prop
  | [], _ => False
  | (p, x) :: l, t => p ∧ t = x ∨ ¬ p ∧ FirstFault l t

/-- The first of the ranges 0 to `n - 1` that stops, stops with this trap. -/
def FirstStop {α : Type} (n : Nat) (range : Nat → Chk α) (t : Trap) : Prop :=
  ∃ m, m < n ∧ (∀ k, k < m → ∃ e, range k = .ok e) ∧ range m = .error (.trap t)

/-! ### Numbers (03) -/

/-- The integer nearest to a number, of two the even one (12 R275). -/
def IsNearest (x : Rat) (n : Int) : Prop :=
  (n : Rat) - 1 / 2 ≤ x ∧ x ≤ n + 1 / 2 ∧ ((n : Rat) - 1 / 2 = x ∨ x = n + 1 / 2 → n % 2 = 0)

/-- The value of a finite pattern (03 R56). -/
def patValue (t : Fmt) (w : W32) : Rat :=
  match fpValue t w with
  | .fin s m e => (if s then -(m : Rat) else m) * 2 ^ e
  | _ => 0

/-- A finite pattern. -/
def isFinite (t : Fmt) (w : W32) : Bool := decide (fpMag t w < t.infBits)

def ratAbs (x : Rat) : Rat := if x < 0 then -x else x

/-- The magnitude that magnitude bits stand for (03 R56), also where the format holds no such value. -/
def Fmt.step (t : Fmt) (k : Nat) : Rat :=
  if k < 2 ^ t.fbits then (k : Rat) * 2 ^ (t.emin - t.fbits)
  else ((2 ^ t.fbits + k % 2 ^ t.fbits : Nat) : Rat) * 2 ^ (t.emin - t.fbits + ((k / 2 ^ t.fbits : Nat) : Int) - 1)

/-- A rounding mode takes a magnitude `x`, of the sign `s`, to place `k` of the growing magnitudes `g` (03 R57): the
nearest with ties to even, or the neighbour on the mode's side. -/
def Picks (mode : RMode) (s : Bool) (g : Nat → Rat) (x : Rat) (k : Nat) : Prop :=
  let toward : Prop := g k ≤ x ∧ x < g (k + 1)
  let away : Prop := x ≤ g k ∧ (k = 0 ∨ g (k - 1) < x)
  match mode with
  | .rn => ∀ j, (x - g k) ^ 2 ≤ (x - g j) ^ 2 ∧ (j ≠ k → (x - g j) ^ 2 = (x - g k) ^ 2 → k % 2 = 0)
  | .rz => toward
  | .ru => if s then toward else away
  | .rd => if s then away else toward

/-- A pattern and flags are an exact magnitude, not zero, of a sign, rounded once (03 R57), with the result flush of 03
R58. Place `k` is among the format's magnitudes, place `q` among those of its precision and no least exponent. -/
def RoundedTo (t : Fmt) (mode : RMode) (ftz s : Bool) (x : Rat) (r : W32 × FpFlags) : Prop :=
  ∃ (k q : Nat) (top : Int), Picks mode s t.step x k ∧ 2 ^ top ≤ x ∧ x < 2 ^ (top + 1) ∧
    Picks mode s (fun n => (n : Rat) * 2 ^ (top - t.fbits)) x q ∧
    let tiny : Prop := (q : Rat) * 2 ^ (top - t.fbits) < 2 ^ t.emin
    let largest : Nat :=
      match mode with
      | .rn => t.infBits
      | .rz => t.infBits - 1
      | .ru => if s then t.infBits - 1 else t.infBits
      | .rd => if s then t.infBits else t.infBits - 1
    let nx : FpFlags := if t.step k = x then 0 else flagNX
    (t.infBits ≤ k → r = (fpPattern t s largest, flagOF ||| flagNX)) ∧
    (k < t.infBits → ftz = true ∧ t = .f32 ∧ tiny → r = (fpPattern t s 0, flagUF ||| flagNX)) ∧
    (k < t.infBits → ¬ (ftz = true ∧ t = .f32 ∧ tiny) → r.1 = fpPattern t s k ∧
      (tiny → r.2 = if t.step k = x then 0 else flagUF ||| flagNX) ∧ (¬ tiny → r.2 = nx))

/-- The same for a special function (04 R88): rounded to nearest, with its own rule of flags. -/
def SpecialRounded (t : Fmt) (ftz s : Bool) (x : Rat) (r : W32 × FpFlags) : Prop :=
  ∃ (k q : Nat) (top : Int), Picks .rn s t.step x k ∧ 2 ^ top ≤ x ∧ x < 2 ^ (top + 1) ∧
    Picks .rn s (fun n => (n : Rat) * 2 ^ (top - t.fbits)) x q ∧
    let tiny : Prop := (q : Rat) * 2 ^ (top - t.fbits) < 2 ^ t.emin
    (t.infBits ≤ k → r = (fpPattern t s t.infBits, flagOF)) ∧
    (k < t.infBits → ftz = true ∧ t = .f32 ∧ tiny → r = (fpPattern t s 0, flagUF)) ∧
    (k < t.infBits → ¬ (ftz = true ∧ t = .f32 ∧ tiny) → r.1 = fpPattern t s k ∧
      (tiny ∧ t.step k ≠ x → r.2 = flagUF) ∧ (¬ tiny ∨ t.step k = x → r.2 = 0))

/-- The value of a finite element of the matrix engine (03 R69). -/
def Elem.value : Elem → Rat
  | .fin m e => (m : Rat) * 2 ^ e
  | _ => 0

end Sys2Proof.Machine
end

