-- ==== Sys2Proof/Certificates/Slice0/Obligations.lean ====
section
/-! DEFINITION. The statements for the provers. A statement on words assumes `Acts`: the word passes the waits and checks
of 01 R20-R22 and its guard holds; its conclusion is the state in which the word completes. -/

open Sys2Proof Sys2Proof.Machine

/-! ### Data words (04) -/

/-- 04 R73, R74: the integer group. The sums and products are those of bit vectors; `.sat` clamps the exact result. 04
R75: AND, OR, XOR and ANDN, the three shifts by an unreduced count, POPC, CLZ and BREV. 04 R82, R83: the immediate group
and LIMM. -/
def Obligations.IntegerResults : Prop :=
  (∀ (g : Guard) (f : Fields) (s : State) (c : Cx),
    let w := dataWidth f
    let clamp (x : Int) : Word :=
      if f.isN then BitVec.ofInt 64 (max 0 (min x (2 ^ w - 1)))
      else BitVec.ofInt 64 (max (-2 ^ (w - 1)) (min x (2 ^ (w - 1) - 1)))
    let a := c.num f f.isN f.a
    let b := c.num f f.isN f.b
    let put (x : Word) : Out State := c.completes (s.putData c f x)
    (Acts 0x01 0 g f s c →
      exec (.iadd g f) s = put (if f.opt then clamp (a + b) else c.data f f.a + c.data f f.b)) ∧
    (Acts 0x01 1 g f s c →
      exec (.isub g f) s = put (if f.opt then clamp (a - b) else c.data f f.a - c.data f f.b)) ∧
    (Acts 0x01 2 g f s c → exec (.imul g f) s = put (c.data f f.a * c.data f f.b)) ∧
    (Acts 0x01 3 g f s c → exec (.imulh g f) s = put (BitVec.ofInt 64 ((a * b) >>> w))) ∧
    (Acts 0x01 4 g f s c → exec (.imad g f) s = put (c.data f f.a * c.data f f.b + c.data f f.c)) ∧
    (Acts 0x01 5 g f s c →
      exec (.imadw g f) s = c.completes (s.setPair c.r f.d.toNat
        ((if f.isN then (c.v f.a.toNat).setWidth 64 * (c.v f.b.toNat).setWidth 64
          else (c.v f.a.toNat).signExtend 64 * (c.v f.b.toNat).signExtend 64) + c.pair f.c.toNat))) ∧
    (Acts 0x01 6 g f s c →
      exec (.iadd64 g f) s = c.completes (s.setPair c.r f.d.toNat (c.pair f.a.toNat + c.pair f.b.toNat))) ∧
    (Acts 0x01 7 g f s c →
      exec (.isub64 g f) s = c.completes (s.setPair c.r f.d.toNat (c.pair f.a.toNat - c.pair f.b.toNat))) ∧
    (Acts 0x01 8 g f s c → exec (.imin g f) s = put (if a ≤ b then c.data f f.a else c.data f f.b)) ∧
    (Acts 0x01 9 g f s c → exec (.imax g f) s = put (if a ≤ b then c.data f f.b else c.data f f.a)) ∧
    (Acts 0x01 10 g f s c →
      exec (.iabs g f) s = put (if f.opt ∧ a = -2 ^ (w - 1) then BitVec.ofInt 64 (2 ^ (w - 1) - 1)
        else if a < 0 then -c.data f f.a else c.data f f.a)) ∧
    (Acts 0x01 11 g f s c →
      exec (.ineg g f) s = put (if f.opt ∧ a = -2 ^ (w - 1) then BitVec.ofInt 64 (2 ^ (w - 1) - 1)
        else -c.data f f.a))) ∧
  (∀ (g : Guard) (f : Fields) (s : State) (c : Cx),
    let w := dataWidth f
    let a := c.data f f.a
    let b := c.data f f.b
    let put (x : Word) : Out State := c.completes (s.putData c f x)
    let each (on64 : BitVec 64 → BitVec 64) (on32 : BitVec 32 → BitVec 32) : Out State :=
      put (if f.isX then on64 (c.x f.a.toNat) else (on32 (c.v f.a.toNat)).setWidth 64)
    (Acts 0x02 0 g f s c → exec (.and g f) s = put (a &&& b)) ∧
    (Acts 0x02 1 g f s c → exec (.or g f) s = put (a ||| b)) ∧
    (Acts 0x02 2 g f s c → exec (.xor g f) s = put (a ^^^ b)) ∧
    (Acts 0x02 3 g f s c → exec (.andn g f) s = put (a &&& ~~~b)) ∧
    (Acts 0x02 4 g f s c → exec (.shl g f) s = put (if w ≤ b.toNat then 0 else a <<< b.toNat)) ∧
    (Acts 0x02 5 g f s c → exec (.shr g f) s = put (if w ≤ b.toNat then 0 else a >>> b.toNat)) ∧
    (Acts 0x02 6 g f s c →
      exec (.sar g f) s = put (if f.isX then (c.x f.a.toNat).sshiftRight (min b.toNat 63)
        else ((c.v f.a.toNat).sshiftRight (min b.toNat 31)).setWidth 64)) ∧
    (Acts 0x02 10 g f s c → exec (.popc g f) s = each BitVec.cpop BitVec.cpop) ∧
    (Acts 0x02 11 g f s c → exec (.clz g f) s = each BitVec.clz BitVec.clz) ∧
    (Acts 0x02 12 g f s c → exec (.brev g f) s = each BitVec.reverse BitVec.reverse)) ∧
  ∀ (g : Guard) (f : Fields) (s : State) (c : Cx),
    let a := c.data f f.a
    let i : Word := f.imm.signExtend 64
    let put (x : Word) : Out State := c.completes (s.putData c f x)
    (Acts 0x04 0 g f s c → exec (.iaddi g f) s = put (a + i)) ∧
    (Acts 0x04 1 g f s c → exec (.andi g f) s = put (a &&& i)) ∧
    (Acts 0x04 2 g f s c → exec (.ori g f) s = put (a ||| i)) ∧
    (Acts 0x04 3 g f s c → exec (.xori g f) s = put (a ^^^ i)) ∧
    (Acts 0x04 4 g f s c → exec (.shli g f) s = put (a <<< f.imm.toNat)) ∧
    (Acts 0x04 5 g f s c → exec (.shri g f) s = put (a >>> f.imm.toNat)) ∧
    (Acts 0x04 6 g f s c →
      exec (.sari g f) s = put (if f.isX then (c.x f.a.toNat).sshiftRight f.imm.toNat
        else ((c.v f.a.toNat).sshiftRight f.imm.toNat).setWidth 64)) ∧
    (Acts 0x04 7 g f s c → exec (.movi g f) s = put i) ∧
    ∀ ext : Word, AtEffect 0x04 8 1 true false g f s c →
      exec (.limm g f ext) s = c.completes
        (if f.isX then s.setX c.r f.d.toNat (if f.opt then (ext.setWidth 32).setWidth 64 else ext)
        else if f.opt then s.setV c.r f.d.toNat (ext.setWidth 32)
        else s.setPair c.r f.d.toNat ext) true

/-- 04 R76-R78: SHF shifts b above a by min(c, w), `.l` giving the high half of the left shift, else the low half of the
right shift; bit by bit, what BFE extracts and BFI inserts, for a control operand with position `pos` and length `len`;
and PRMT, whose nibble j of c selects byte j of D among the eight bytes of b above a, or replicates that byte's top bit. A
set MOD bit 6 or 7 that the word does not define raises ILLEGAL 0x07, and PRMT's bit 5 0x03 (04 R71), unless a lower
sub-cause applies, which the word with that bit clear raises too. -/
def Obligations.FieldResults : Prop :=
  let undefinedMod (fn keep code : Nat) (g : Guard) (f : Fields) : Prop :=
    ∃ sub, sub ≤ code ∧ fullSub 0x02 fn 0 g f = some sub ∧
      (sub < code → fullSub 0x02 fn 0 g { f with mod := f.mod &&& BitVec.ofNat 3 keep } = some sub)
  (∀ (g : Guard) (f : Fields) (s : State) (c : Cx),
    (Acts 0x02 7 g f s c →
      exec (.shf g f) s =
        if f.isX then
          let v : BitVec 128 := c.x f.b.toNat ++ c.x f.a.toNat
          let n := min (c.x f.c.toNat).toNat 64
          c.completes (s.setX c.r f.d.toNat (if f.opt then ((v <<< n) >>> 64).setWidth 64 else (v >>> n).setWidth 64))
        else
          let v : BitVec 64 := c.v f.b.toNat ++ c.v f.a.toNat
          let n := min (c.v f.c.toNat).toNat 32
          c.completes (s.setV c.r f.d.toNat (if f.opt then ((v <<< n) >>> 32).setWidth 32 else (v >>> n).setWidth 32))) ∧
    (f.isN = true → undefinedMod 7 5 7 g f)) ∧
  (∀ (g : Guard) (f : Fields) (s : State) (c : Cx),
    let w := dataWidth f
    let a := c.data f f.a
    (Acts 0x02 8 g f s c →
      let pos := (c.data f f.b).toNat % 256
      let len := min ((c.data f f.b).toNat / 256 % 256) w
      let bit (p : Nat) : Bool := if p < w then a.getLsbD p else !f.isN && a.getLsbD (w - 1)
      ∃ x : Word, exec (.bfe g f) s = c.completes (s.putData c f x) ∧
        ∀ i, i < w → x.getLsbD i =
          if len = 0 then false
          else if i < len then bit (pos + i)
          else !f.isN && bit (pos + len - 1)) ∧
    (Acts 0x02 9 g f s c →
      let pos := (c.data f f.c).toNat % 256
      let len := (c.data f f.c).toNat / 256 % 256
      ∃ x : Word, exec (.bfi g f) s = c.completes (s.putData c f x) ∧
        ∀ i, i < w → x.getLsbD i =
          if pos ≤ i ∧ i < pos + len then (c.data f f.b).getLsbD (i - pos) else a.getLsbD i) ∧
    (f.isN = true → undefinedMod 9 5 7 g f)) ∧
  (∀ (g : Guard) (f : Fields), (f.isX = true ∨ f.isN = true → undefinedMod 13 1 7 g f) ∧
    (f.opt = true → undefinedMod 13 6 3 g f)) ∧
  ∀ (g : Guard) (f : Fields) (s : State) (c : Cx), Acts 0x02 13 g f s c →
    let src : Word := c.v f.b.toNat ++ c.v f.a.toNat
    let byte (j : Nat) : Byte :=
      let n := ((c.v f.c.toNat) >>> (4 * j)).toNat % 16
      let b : Byte := (src >>> (8 * (n % 8))).setWidth 8
      if n < 8 then b else if b.msb then 0xFF else 0
    exec (.prmt g f) s = c.completes (s.setV c.r f.d.toNat (byte 3 ++ byte 2 ++ byte 1 ++ byte 0))

/-- 04 R79-R81, R84: compares into a predicate, PCOMB's truth table, and the moves; a register moved to loses its
precision tag (07 R158). -/
def Obligations.CompareMoveResults : Prop :=
  ∀ (g : Guard) (f : Fields) (s : State) (c : Cx),
    let cond (code : Nat) (x y : Int) : Bool :=
      match code with
      | 0 => x == y
      | 1 => x != y
      | 2 => decide (x < y)
      | 3 => decide (x ≤ y)
      | 4 => decide (y < x)
      | _ => decide (y ≤ x)
    let combine (code : Nat) (p q : Bool) : Bool :=
      match code with
      | 0 => p && q
      | 1 => p || q
      | _ => xor p q
    let p (x : BitVec 10) (lo : Nat) : Bool := c.p (x.toNat / 2 ^ lo % 8)
    let bit (b : Bool) : Nat := if b then 1 else 0
    let moves (i : Instr) (w : W32) : Prop := ∃ tg : Tag, tg.pval = false ∧ tg.pcnt = 0 ∧ tg.sig = 0 ∧
      exec i s = c.completes (s.modThread c.r fun th => { th with
        v := th.v.set f.d.toNat w
        tags := th.tags.set f.d.toNat tg
        flaws := th.flaws.filter fun x => x.1 != f.d.toNat })
    (Acts 0x03 0 g f s c →
      exec (.icmp g f) s = c.completes (s.setP c.r f.d.toNat (combine (f.c.toNat / 64 % 4)
        (cond (f.c.toNat / 8 % 8) (c.num f f.isN f.a) (c.num f f.isN f.b)) (p f.c 0)))) ∧
    (Acts 0x03 1 g f s c →
      let src := if p f.c 0 then f.a.toNat else f.b.toNat
      (f.isX = true → exec (.sel g f) s = c.completes (s.setX c.r f.d.toNat (c.x src))) ∧
      (f.isX = false → moves (.sel g f) (c.v src))) ∧
    (Acts 0x03 2 g f s c →
      exec (.pcomb g f) s = c.completes (s.setP c.r f.d.toNat
        (f.b.getLsbD (4 * bit (p f.a 0) + 2 * bit (p f.a 3) + bit (p f.a 6))))) ∧
    (Acts 0x03 3 g f s c →
      (f.isX = true → exec (.mov g f) s = c.completes (s.setX c.r f.d.toNat (c.x f.a.toNat))) ∧
      (f.isX = false → moves (.mov g f) (c.v f.a.toNat))) ∧
    (Acts 0x03 4 g f s c →
      exec (.pget g f) s = c.completes (s.setV c.r f.d.toNat (0x80#32 ||| c.th.p.setWidth 32))) ∧
    (Acts 0x03 5 g f s c →
      exec (.pset g f) s = c.completes (s.modThread c.r fun th =>
        { th with p := (th.p &&& ~~~(f.b.setWidth 7)) ||| ((c.v f.a.toNat).setWidth 7 &&& f.b.setWidth 7) })) ∧
    (Acts 0x03 6 g f s c →
      exec (.x2v g f) s = c.completes (s.setV c.r f.d.toNat
        ((if f.opt then c.x f.a.toNat >>> 32 else c.x f.a.toNat).setWidth 32))) ∧
    (Acts 0x03 7 g f s c →
      exec (.v2x g f) s = c.completes (s.setX c.r f.d.toNat
        (if f.opt then c.pair f.a.toNat else (c.v f.a.toNat).setWidth 64))) ∧
    (Acts 0x04 9 g f s c →
      exec (.icmpi g f) s = c.completes (s.setP c.r (f.d.toNat % 8) (cond (f.d.toNat / 8 % 8) (c.num f f.isN f.a)
        (if f.isX then sv f.isN (f.imm.signExtend 64) else sv f.isN (f.imm.signExtend 32)))))

/-! ### Floating point and conversions (04) -/

/-- 04 R85-R87: the operations on the type MOD names, half by half on a packed one, rounded to nearest-even; FCMP's
conditions on F32, with NV for a signalling NaN, and for any NaN in LT, LE, GT and GE. 03 R59: the choice of a NaN among
operands, and the invalid operations; and the results that an infinite operand gives. What the exact results are and how
they round, and what FMIN and FMAX choose: FloatArithmetic. -/
def Obligations.FloatResults : Prop :=
  (∀ (g : Guard) (f : Fields) (s : State) (c : Cx),
    let t := typeFmt f.mod
    let z (w : W32) : W32 := flushSrc t c.ftz w
    let va := c.v f.a.toNat
    let vb := c.v f.b.toNat
    let put (x : W32 × FpFlags) : Out State := c.completes ((s.setV c.r f.d.toNat x.1).raise c.r x.2)
    let two (op : W32 → W32 → W32 × FpFlags) : Out State :=
      if f.mod = 0 then put (op (z va) (z vb))
      else
        let l := op (z (loHalf va)) (z (loHalf vb))
        let h := op (z (hiHalf va)) (z (hiHalf vb))
        put (h.1.setWidth 16 ++ l.1.setWidth 16, l.2 ||| h.2)
    (Acts 0x10 0 g f s c → exec (.fadd g f) s = two (fpAdd t .rn c.ftz)) ∧
    (Acts 0x10 1 g f s c → exec (.fsub g f) s = two (fpSub t .rn c.ftz)) ∧
    (Acts 0x10 2 g f s c → exec (.fmul g f) s = two (fpMul t .rn c.ftz)) ∧
    (Acts 0x10 3 g f s c →
      exec (.ffma g f) s =
        let vc := c.v f.c.toNat
        if f.mod = 0 then put (fpFma t .rn c.ftz (z va) (z vb) (z vc))
        else
          let l := fpFma t .rn c.ftz (z (loHalf va)) (z (loHalf vb)) (z (loHalf vc))
          let h := fpFma t .rn c.ftz (z (hiHalf va)) (z (hiHalf vb)) (z (hiHalf vc))
          put (h.1.setWidth 16 ++ l.1.setWidth 16, l.2 ||| h.2)) ∧
    (Acts 0x10 4 g f s c → exec (.fmin g f) s = two (fpMinMax t false)) ∧
    (Acts 0x10 5 g f s c → exec (.fmax g f) s = two (fpMinMax t true)) ∧
    (Acts 0x10 6 g f s c →
      let a := flushSrc .f32 c.ftz va
      let b := flushSrc .f32 c.ftz vb
      let un := isNan .f32 a || isNan .f32 b
      let code := f.c.toNat / 8 % 8
      let cond : Bool :=
        match code with
        | 0 => !un && fpKey .f32 a == fpKey .f32 b
        | 1 => un || fpKey .f32 a != fpKey .f32 b
        | 2 => !un && decide (fpKey .f32 a < fpKey .f32 b)
        | 3 => !un && decide (fpKey .f32 a ≤ fpKey .f32 b)
        | 4 => !un && decide (fpKey .f32 b < fpKey .f32 a)
        | 5 => !un && decide (fpKey .f32 b ≤ fpKey .f32 a)
        | 6 => !un
        | _ => un
      let q := c.p (f.c.toNat % 8)
      let nv := if 2 ≤ code ∧ code ≤ 5 then un else isSnan .f32 a || isSnan .f32 b
      exec (.fcmp g f) s = c.completes ((s.setP c.r f.d.toNat
        (match f.c.toNat / 64 % 4 with
          | 0 => cond && q
          | 1 => cond || q
          | _ => xor cond q)).raise c.r (if nv then flagNV else 0))) ∧
    (Acts 0x10 7 g f s c → exec (.fdiv g f) s = two (fpDiv t .rn c.ftz)) ∧
    (Acts 0x10 8 g f s c →
      exec (.fsqrt g f) s =
        if f.mod = 0 then put (fpSqrt t .rn c.ftz (z va))
        else
          let l := fpSqrt t .rn c.ftz (z (loHalf va))
          let h := fpSqrt t .rn c.ftz (z (hiHalf va))
          put (h.1.setWidth 16 ++ l.1.setWidth 16, l.2 ||| h.2))) ∧
  ∀ (t : Fmt) (m : RMode) (ftz : Bool) (a b c : W32),
    let chosen := if isNan t a then quiet t a else quiet t b
    let nv : FpFlags := if isSnan t a || isSnan t b then flagNV else 0
    let inf (w : W32) : Bool := isInf t w
    let zero (w : W32) : Bool := fpMag t w == 0
    let mixed := (inf a && zero b) || (zero a && inf b)
    let sab := fpSign t a != fpSign t b
    let infinity (s : Bool) : W32 × FpFlags := (fpPattern t s t.infBits, 0)
    let number (w : W32) : Bool := !isNan t w
    (∀ op ∈ [fpAdd, fpSub, fpMul, fpDiv], isNan t a ∨ isNan t b → op t m ftz a b = (chosen, nv)) ∧
    (isNan t a → fpSqrt t m ftz a = (quiet t a, if isSnan t a then flagNV else 0)) ∧
    (inf a → inf b → fpSign t a ≠ fpSign t b → fpAdd t m ftz a b = (t.qnan, flagNV)) ∧
    (inf a → inf b → fpSign t a = fpSign t b → fpSub t m ftz a b = (t.qnan, flagNV)) ∧
    (inf a ∧ zero b ∨ zero a ∧ inf b → fpMul t m ftz a b = (t.qnan, flagNV)) ∧
    (inf a ∧ inf b ∨ zero a ∧ zero b → fpDiv t m ftz a b = (t.qnan, flagNV)) ∧
    (¬ isNan t a → ¬ zero a → fpSign t a → fpSqrt t m ftz a = (t.qnan, flagNV)) ∧
    (isNan t a ∨ isNan t b ∨ isNan t c → fpFma t m ftz a b c =
      (if isNan t a then quiet t a else if isNan t b then quiet t b else quiet t c,
        if isSnan t a || isSnan t b || isSnan t c || mixed then flagNV else 0)) ∧
    (number a → number b → number c → mixed → fpFma t m ftz a b c = (t.qnan, flagNV)) ∧
    (number a → number b → inf a ∨ inf b → ¬ mixed → inf c → sab ≠ fpSign t c → fpFma t m ftz a b c = (t.qnan, flagNV)) ∧
    (number a → number b → number c → inf a ∨ inf b → ¬ mixed → (inf c → sab = fpSign t c) →
      fpFma t m ftz a b c = infinity sab) ∧
    (isFinite t a → isFinite t b → inf c → fpFma t m ftz a b c = infinity (fpSign t c)) ∧
    (inf a → number b → (inf b → fpSign t a = fpSign t b) →
      fpAdd t m ftz a b = infinity (fpSign t a) ∧ fpAdd t m ftz b a = infinity (fpSign t a)) ∧
    (inf a → number b → (inf b → fpSign t a ≠ fpSign t b) →
      fpSub t m ftz a b = infinity (fpSign t a) ∧ fpSub t m ftz b a = infinity (!fpSign t a)) ∧
    (inf a → number b → ¬ zero b → fpMul t m ftz a b = infinity sab ∧ fpMul t m ftz b a = infinity sab) ∧
    (inf a → isFinite t b → fpDiv t m ftz a b = infinity sab ∧ fpDiv t m ftz b a = (fpPattern t sab 0, 0)) ∧
    (zero a → fpSqrt t m ftz a = (fpPattern t (fpSign t a) 0, 0)) ∧
    (inf a → ¬ fpSign t a → fpSqrt t m ftz a = infinity false)

/-- 04 R88: the special functions complete with the value and flags of their type, half by half on a packed one; the
table of special operands: zeros, infinities, the operands below -0 of FRSQ and FLG2, FLG2 of 1, and NaNs; and the rounded
results that are rational or square roots: FRCP and FRSQ of every other operand, FEX2 of an integer and beyond 2048, FLG2
of a power of two, FTANH from 16 and FERF from 4 on. Model's choices: log 4. -/
def Obligations.SpecialResults : Prop :=
  (∀ (g : Guard) (f : Fields) (s : State) (c : Cx),
    let t := typeFmt f.mod
    let va := c.v f.a.toNat
    let put (x : W32 × FpFlags) : Out State := c.completes ((s.setV c.r f.d.toNat x.1).raise c.r x.2)
    let z (w : W32) : W32 := flushSrc t c.ftz w
    let one (k : SpFun) : Out State :=
      if f.mod = 0 then put (specialFn k t c.ftz (z va))
      else
        let l := specialFn k t c.ftz (z (loHalf va))
        let h := specialFn k t c.ftz (z (hiHalf va))
        put (h.1.setWidth 16 ++ l.1.setWidth 16, l.2 ||| h.2)
    (Acts 0x11 0 g f s c → exec (.frcp g f) s = one .rcp) ∧
    (Acts 0x11 1 g f s c → exec (.frsq g f) s = one .rsq) ∧
    (Acts 0x11 2 g f s c → exec (.fex2 g f) s = one .ex2) ∧
    (Acts 0x11 3 g f s c → exec (.flg2 g f) s = one .lg2) ∧
    (Acts 0x11 4 g f s c → exec (.fsin g f) s = one .sin) ∧
    (Acts 0x11 5 g f s c → exec (.fcos g f) s = one .cos) ∧
    (Acts 0x11 6 g f s c → exec (.ftanh g f) s = one .tanh) ∧
    (Acts 0x11 7 g f s c → exec (.ferf g f) s = one .erf)) ∧
  ∀ (t : Fmt) (ftz n : Bool),
    let zero := fpPattern t n 0
    let inf := fpPattern t n t.infBits
    let one (n : Bool) : W32 := fpPattern t n (t.bias * 2 ^ t.fbits)
    let bad : W32 × FpFlags := (t.qnan, flagNV)
    specialFn .rcp t ftz zero = (inf, flagDZ) ∧ specialFn .rcp t ftz inf = (zero, 0) ∧
    specialFn .rsq t ftz zero = (inf, flagDZ) ∧
    specialFn .rsq t ftz inf = (if n then bad else (fpPattern t false 0, 0)) ∧
    specialFn .ex2 t ftz inf = (if n then fpPattern t false 0 else inf, 0) ∧
    specialFn .lg2 t ftz zero = (fpPattern t true t.infBits, flagDZ) ∧
    specialFn .lg2 t ftz inf = (if n then bad else (inf, 0)) ∧
    specialFn .sin t ftz zero = (zero, 0) ∧ specialFn .sin t ftz inf = bad ∧
    specialFn .cos t ftz zero = (one false, 0) ∧ specialFn .cos t ftz inf = bad ∧
    specialFn .tanh t ftz zero = (zero, 0) ∧ specialFn .tanh t ftz inf = (one n, 0) ∧
    specialFn .erf t ftz zero = (zero, 0) ∧ specialFn .erf t ftz inf = (one n, 0) ∧
    specialFn .lg2 t ftz (one false) = (fpPattern t false 0, 0) ∧
    (∀ a : W32, isFinite t a → fpMag t a ≠ 0 → fpSign t a →
      specialFn .rsq t ftz a = bad ∧ specialFn .lg2 t ftz a = bad) ∧
    (∀ (k : SpFun) (a : W32), isNan t a → specialFn k t ftz a = (quiet t a, if isSnan t a then flagNV else 0)) ∧
    ∀ a : W32, isFinite t a → fpMag t a ≠ 0 →
      let v := patValue t a
      let s := fpSign t a
      SpecialRounded t ftz s (1 / ratAbs v) (specialFn .rcp t ftz a) ∧
      (¬ s → ∃ k, 0 < k ∧ k < t.infBits ∧ specialFn .rsq t ftz a = (fpPattern t false k, 0) ∧
        (t.step (k - 1) + t.step k) ^ 2 * v ≤ 4 ∧ 4 ≤ (t.step k + t.step (k + 1)) ^ 2 * v) ∧
      (∀ i : Int, v = i → SpecialRounded t ftz false (2 ^ i) (specialFn .ex2 t ftz a)) ∧
      (2048 ≤ v → specialFn .ex2 t ftz a = (fpPattern t false t.infBits, flagOF)) ∧
      (v ≤ -2048 → specialFn .ex2 t ftz a = (fpPattern t false 0, flagUF)) ∧
      (∀ i : Int, v = 2 ^ i → i ≠ 0 →
        SpecialRounded t ftz (decide (i < 0)) (ratAbs i) (specialFn .lg2 t ftz a)) ∧
      (16 ≤ ratAbs v → specialFn .tanh t ftz a = (one s, 0)) ∧ (4 ≤ ratAbs v → specialFn .erf t ftz a = (one s, 0))

/-- 03 R57, R58: the finite results of FADD, FSUB, FMUL, FFMA, FDIV and FSQRT are the exact values rounded once, and exact
zeros have their sign; in the directed modes a result overflows only where the rounded value exceeds the largest finite
one, which is the model's reading (log 26). 04 R92: FRND gives the integral value that its mode picks. 03 R61: the
conversions between formats, to and from integers. 04 R86: FMIN and FMAX choose one of their operands. 04 R95: the class
of a pattern. -/
def Obligations.FloatArithmetic : Prop :=
  ∀ (t : Fmt) (mode : RMode) (ftz : Bool),
    let v (w : W32) : Rat := patValue t w
    let exact (x : Rat) (r : W32 × FpFlags) : Prop := RoundedTo t mode ftz (decide (x < 0)) (ratAbs x) r
    let zero (s : Bool) : W32 := fpPattern t s 0
    let inf (s : Bool) : W32 := fpPattern t s t.infBits
    let signalling (a : W32) : FpFlags := if isSnan t a then flagNV else 0
    (∀ a b : W32, isFinite t a → isFinite t b →
      let s := fpSign t a != fpSign t b
      (v a + v b ≠ 0 → exact (v a + v b) (fpAdd t mode ftz a b)) ∧
      (v a + v b = 0 →
        fpAdd t mode ftz a b = (zero (if fpSign t a = fpSign t b then fpSign t a else mode == .rd), 0)) ∧
      (v a - v b ≠ 0 → exact (v a - v b) (fpSub t mode ftz a b)) ∧
      (v a - v b = 0 →
        fpSub t mode ftz a b = (zero (if fpSign t a = fpSign t b then mode == .rd else fpSign t a), 0)) ∧
      (v a * v b ≠ 0 → exact (v a * v b) (fpMul t mode ftz a b)) ∧
      (v a * v b = 0 → fpMul t mode ftz a b = (zero s, 0)) ∧
      (∀ c, isFinite t c → v a * v b + v c ≠ 0 → exact (v a * v b + v c) (fpFma t mode ftz a b c)) ∧
      (∀ c, isFinite t c → v a * v b + v c = 0 →
        fpFma t mode ftz a b c = (zero (if s = fpSign t c then s else mode == .rd), 0)) ∧
      (v a ≠ 0 → v b ≠ 0 → exact (v a / v b) (fpDiv t mode ftz a b)) ∧
      (v a ≠ 0 → v b = 0 → fpDiv t mode ftz a b = (inf s, flagDZ)) ∧
      (v a = 0 → v b ≠ 0 → fpDiv t mode ftz a b = (zero s, 0)) ∧
      (0 < v a → ∃ k, k < t.infBits ∧
        fpSqrt t mode ftz a = (fpPattern t false k, if t.step k ^ 2 = v a then 0 else flagNX) ∧
        match mode with
        | .rn => (t.step (k - 1) + t.step k) ^ 2 ≤ 4 * v a ∧ 4 * v a ≤ (t.step k + t.step (k + 1)) ^ 2
        | .ru => v a ≤ t.step k ^ 2 ∧ t.step (k - 1) ^ 2 < v a
        | _ => t.step k ^ 2 ≤ v a ∧ v a < t.step (k + 1) ^ 2)) ∧
    (∀ (src : Fmt) (w : W32),
      let res := convertFp src t mode ftz w
      let fr := w.toNat % 2 ^ src.fbits * 2 ^ (23 - src.fbits) / 2 ^ (23 - t.fbits)
      (isFinite src w → patValue src w ≠ 0 → exact (patValue src w) res) ∧
      (isFinite src w → patValue src w = 0 → res = (zero (fpSign src w), 0)) ∧
      (isInf src w → res = (inf (fpSign src w), 0)) ∧
      (isNan src w → fpSign t res.1 = fpSign src w ∧ fpMag t res.1 = t.infBits + (fr ||| 2 ^ (t.fbits - 1)) ∧
        res.2 = if isSnan src w then flagNV else 0)) ∧
    (∀ (n : Nat) (nat : Bool) (w : W32), 0 < n →
      let lo : Int := if nat then 0 else -2 ^ (n - 1)
      let hi : Int := if nat then 2 ^ n - 1 else 2 ^ (n - 1) - 1
      let res := fpToInt t mode n nat w
      (isNan t w → res = (0, flagNV)) ∧ (isInf t w → res = (if fpSign t w then lo else hi, flagNV)) ∧
      (isFinite t w → ∃ k : Nat, Picks mode (fpSign t w) (fun j => (j : Rat)) (ratAbs (v w)) k ∧
        let i : Int := if fpSign t w then -(k : Int) else k
        res = if i < lo then (lo, flagNV) else if hi < i then (hi, flagNV) else (i, if (i : Rat) = v w then 0 else flagNX))) ∧
    (∀ w : W32,
      let res := fpRound t mode w
      (isNan t w → res = (quiet t w, signalling w)) ∧ (isInf t w ∨ (isFinite t w ∧ v w = 0) → res = (w, 0)) ∧
      (isFinite t w → v w ≠ 0 → ∃ k : Nat, Picks mode (fpSign t w) (fun j => (j : Rat)) (ratAbs (v w)) k ∧
        isFinite t res.1 ∧ fpSign t res.1 = fpSign t w ∧ ratAbs (v res.1) = k ∧ res.2 = 0)) ∧
    (∀ i : Int, (i = 0 → intToFp t mode ftz i = (zero false, 0)) ∧ (i ≠ 0 → exact (i : Rat) (intToFp t mode ftz i))) ∧
    (∀ a b : W32,
      let place (w : W32) : Rat := if isInf t w then (if fpSign t w then -2 ^ 200 else 2 ^ 200) else v w
      let less (x y : W32) : Bool :=
        decide (place x < place y) || (place x == place y && fpSign t x && !fpSign t y)
      let nv := signalling a ||| signalling b
      (isNan t a → isNan t b → fpMinMax t false a b = (quiet t a, nv) ∧ fpMinMax t true a b = (quiet t a, nv)) ∧
      (isNan t a → ¬ isNan t b → fpMinMax t false a b = (b, nv) ∧ fpMinMax t true a b = (b, nv)) ∧
      (¬ isNan t a → isNan t b → fpMinMax t false a b = (a, nv) ∧ fpMinMax t true a b = (a, nv)) ∧
      (¬ isNan t a → ¬ isNan t b →
        fpMinMax t false a b = (if less b a then b else a, 0) ∧ fpMinMax t true a b = (if less a b then b else a, 0))) ∧
    ∀ w : W32,
      let by_sign (n p : Nat) : Nat := 2 ^ if fpSign t w then n else p
      fpClass t w =
        if isNan t w then (if isSnan t w then 2 ^ 8 else 2 ^ 9)
        else if isInf t w then by_sign 0 7
        else if v w = 0 then by_sign 3 4
        else if ratAbs (v w) < 2 ^ t.emin then by_sign 2 5
        else by_sign 1 6

/-- 03 R64, R65: what an element of a block reads as. 03 R66: the planes that 16 values encode to, with the flags. 03 R69:
one block of `mxe_dot`: its products are summed exactly, rounded once, and the sum is added unless it is zero; the
accumulator after no block is the one that it begins with. That an accumulator to which nothing is added comes back as it
stands, a NaN's payload included, is the model's choice (log 93). -/
def Obligations.BlockArithmetic : Prop :=
  (∀ (b : Block) (i n : Nat) (mid : Bool), i < 16 → n ≤ 16 →
    let e := b.e.toNat % 256
    let s := b.s.getLsbD i
    let bit (k : Nat) : Bool := (b.m.getD (k - 1) 0).getLsbD i
    let mu : Int := if b.e.getLsbD (8 + i / 2) then 1 else 0
    let fraction : Rat := ((List.range n).map fun k => if bit (k + 1) then (2 : Rat) ^ (-((k : Int) + 1)) else 0).sum
    let read : Rat := if fraction ≠ 0 ∧ mid ∧ n < 16 then fraction + 2 ^ (-((n : Int) + 1)) else fraction
    let w := pb16Read b i n mid
    (e = 255 → w = (if s then 0x80000000#32 else 0) |||
      (if n < 2 ∨ bit 1 then 0x7FC00000#32 else if bit 2 then 0x7F800000#32 else 0)) ∧
    (e ≠ 255 → isFinite .f32 w ∧ fpSign .f32 w = s ∧ ratAbs (patValue .f32 w) = read * 2 ^ ((e : Int) - 126 - mu))) ∧
  (∀ xs : List W32, xs.length = 16 →
    let x (i : Nat) : W32 := xs.getD i 0
    let b := (pb16Encode xs).1
    let flags := (pb16Encode xs).2
    let e := b.e.toNat % 256
    let mu (j : Nat) : Bool := b.e.getLsbD (8 + j)
    let bit (k i : Nat) : Bool := (b.m.getD (k - 1) 0).getLsbD i
    let special := ∃ i, i < 16 ∧ isFinite .f32 (x i) = false
    let a (i : Nat) : Rat := ratAbs (patValue .f32 (x i))
    b.m.length = 16 ∧ (∀ i, i < 16 → b.s.getLsbD i = (x i).getLsbD 31) ∧
    (special → e = 255 ∧ flags = 0 ∧ (∀ j, j < 8 → mu j = false) ∧ ∀ k i, 1 ≤ k → k ≤ 16 → i < 16 →
      bit k i = (if k = 1 then isNan .f32 (x i) else if k = 2 then isInf .f32 (x i) else false)) ∧
    ∀ round : Int → Nat → Nat, ¬ special →
      (∀ sc i, i < 16 → Picks .rn false (fun n => (n : Rat) / 65536) (a i / 2 ^ sc) (round sc i)) →
      let scale (i : Nat) : Int := (e : Int) - 126 - if mu (i / 2) then 1 else 0
      let f (i : Nat) : Nat := round (scale i) i
      let kept (i : Nat) : Nat := min (f i) 65535
      (∃ e0 : Nat, ((∀ i, i < 16 → a i = 0) → e0 = 0) ∧
        (∀ p : Int, (∃ i, i < 16 ∧ 2 ^ p ≤ a i) → (∀ i, i < 16 → a i < 2 ^ (p + 1)) → (e0 : Int) = max (p + 127) 0) ∧
        (e0 < 254 → (∃ i, i < 16 ∧ round ((e0 : Int) - 126) i = 65536) → e = e0 + 1) ∧
        (254 ≤ e0 ∨ (∀ i, i < 16 → round ((e0 : Int) - 126) i ≠ 65536) → e = e0)) ∧
      (∀ j, j < 8 → (mu j = true ↔ round ((e : Int) - 127) (2 * j) < 65536 ∧ round ((e : Int) - 127) (2 * j + 1) < 65536)) ∧
      (∀ k i, 1 ≤ k → k ≤ 16 → i < 16 → bit k i = (kept i).testBit (16 - k)) ∧
      (flags.getLsbD 2 = true ↔ ∃ i, i < 16 ∧ f i = 65536) ∧
      (flags.getLsbD 4 = true ↔ ∃ i, i < 16 ∧ (kept i : Rat) * 2 ^ (scale i - 16) ≠ a i) ∧
      flags &&& 0b01011 = 0) ∧
  ∀ (acc : W32) (a b : Nat → Elem),
    mxeDot acc a b 0 = acc ∧
    ∀ n : Nat,
      let before := mxeDot acc a b n
      let after := mxeDot acc a b (n + 1)
      let block (k : Nat) : Prop := 16 * n ≤ k ∧ k < 16 * n + 16
      let none (k : Nat) : Prop := (a k).isZero ∨ (b k).isZero
      let nan (k : Nat) : Prop := ¬ none k ∧ (a k = .nan ∨ b k = .nan)
      let infinite (s : Bool) (k : Nat) : Prop := ¬ none k ∧ ¬ nan k ∧ ((∃ u, a k = .inf u) ∨ ∃ u, b k = .inf u) ∧
        ((a k).isNeg != (b k).isNeg) = s
      let sum : Rat := ((List.range 16).map fun j => (a (16 * n + j)).value * (b (16 * n + j)).value).sum
      let added (w : W32) : W32 :=
        let r := (fpAdd .f32 .rn false before w).1
        if isNan .f32 r then 0x7FC00000#32 else r
      let finite := ∀ k, block k → ¬ nan k ∧ ∀ s, ¬ infinite s k
      ((∃ k, block k ∧ nan k) ∨ ((∃ k, block k ∧ infinite true k) ∧ ∃ k, block k ∧ infinite false k) →
        after = 0x7FC00000#32) ∧
      (∀ s, (∀ k, block k → ¬ nan k ∧ ¬ infinite (!s) k) → (∃ k, block k ∧ infinite s k) →
        after = added (fpPattern .f32 s (255 * 2 ^ 23))) ∧
      (finite → sum = 0 → after = before) ∧
      (finite → sum ≠ 0 → ∃ w, RoundedTo .f32 .rn false (decide (sum < 0)) (ratAbs sum) w ∧ after = added w.1)

/-- 04 R90-R95: the conversions, by what their control field names: the type codes of CVT and I2I, the format of FRND,
PACK and UNPACK, and FCLASS by MOD. A result of an integer type of 64 bits goes to a pair. -/
def Obligations.ConvertResults : Prop :=
  ∀ (g : Guard) (f : Fields) (s : State) (c : Cx),
    let dst := f.c.toNat % 16
    let src := f.c.toNat / 16 % 16
    let fmt (code : Nat) : Fmt := if code = 8 then .f32 else if code = 9 then .f16 else .bf16
    let width (code : Nat) : Nat := 8 * 2 ^ (code % 4)
    let nat (code : Nat) : Bool := decide (4 ≤ code)
    let bits (code : Nat) : W32 := if code = 8 then c.v f.a.toNat else c.v f.a.toNat &&& 0xFFFF#32
    let int (code : Nat) : Int :=
      let x := if code % 4 = 3 then c.pair f.a.toNat else (c.v f.a.toNat).setWidth 64
      sv (nat code) (if nat code then x &&& BitVec.ofNat 64 (2 ^ width code - 1)
        else (x.shiftLeft (64 - width code)).sshiftRight (64 - width code))
    let putInt (x : Int) : State :=
      if dst % 4 = 3 then s.setPair c.r f.d.toNat (BitVec.ofInt 64 x) else s.setV c.r f.d.toNat (BitVec.ofInt 32 x)
    let putFp (x : W32 × FpFlags) : Out State := c.completes ((s.setV c.r f.d.toNat x.1).raise c.r x.2)
    let mode : RMode := match f.mod.toNat with
      | 0 => RMode.ofBits ((c.th.fpmode >>> 1).setWidth 2)
      | 4 => .rn
      | 5 => .rz
      | 6 => .ru
      | _ => .rd
    (Acts 0x12 0 g f s c → 8 ≤ dst → 8 ≤ src →
      exec (.cvt g f) s = putFp (convertFp (fmt src) (fmt dst) mode c.ftz
        (if dst = 8 then flushSrc (fmt src) c.ftz (bits src) else bits src))) ∧
    (Acts 0x12 0 g f s c → 8 ≤ dst → src < 8 → exec (.cvt g f) s = putFp (intToFp (fmt dst) mode c.ftz (int src))) ∧
    (Acts 0x12 0 g f s c → dst < 8 → 8 ≤ src →
      let r := fpToInt (fmt src) mode (width dst) (nat dst) (bits src)
      exec (.cvt g f) s = c.completes ((putInt r.1).raise c.r r.2)) ∧
    (Acts 0x12 1 g f s c →
      exec (.frnd g f) s = putFp (fpRound (fmt dst) mode (flushSrc (fmt dst) c.ftz (bits dst)))) ∧
    (Acts 0x12 2 g f s c →
      let lo : Int := if nat dst then 0 else -2 ^ (width dst - 1)
      let x := int src
      exec (.i2i g f) s = c.completes (putInt
        (if f.mod = 1 then max lo (min x (lo + 2 ^ width dst - 1)) else lo + (x - lo) % 2 ^ width dst))) ∧
    (Acts 0x12 3 g f s c →
      let l := convertFp .f32 (fmt dst) mode c.ftz (c.v f.a.toNat)
      let h := convertFp .f32 (fmt dst) mode c.ftz (c.v f.b.toNat)
      exec (.pack g f) s = putFp (h.1.setWidth 16 ++ l.1.setWidth 16, l.2 ||| h.2)) ∧
    (Acts 0x12 4 g f s c →
      let l := convertFp (fmt dst) .f32 .rn c.ftz (c.v f.a.toNat &&& 0xFFFF#32)
      let h := convertFp (fmt dst) .f32 .rn c.ftz (c.v f.a.toNat >>> 16)
      exec (.unpack g f) s = c.completes
        ((((s.setV c.r f.d.toNat l.1).raise c.r l.2).setV c.r (f.d.toNat + 1) h.1).raise c.r h.2)) ∧
    (Acts 0x12 5 g f s c →
      exec (.fclass g f) s = c.completes (s.setV c.r f.d.toNat
        (if f.mod = 0 then BitVec.ofNat 32 (fpClass .f32 (c.v f.a.toNat))
        else BitVec.ofNat 16 (fpClass (typeFmt f.mod) (c.v f.a.toNat >>> 16)) ++
          BitVec.ofNat 16 (fpClass (typeFmt f.mod) (c.v f.a.toNat &&& 0xFFFF#32)))))

/-- 02 R35, 04 R101: both slots read first, then slot 0 writes, then slot 1; a slot with a false guard and a NOP slot do
nothing. A register written loses its precision tag (07 R158). -/
def Obligations.PairResults : Prop :=
  ∀ (s0 s1 : Slot) (s : State) (c : Cx), PairActs s0 s1 s c →
    let value (x : Slot) : W32 × FpFlags :=
      let d := c.v x.d.toNat
      let a := c.v x.a.toNat
      let z (w : W32) : W32 := flushSrc .f32 c.ftz w
      match x.sop.toNat with
      | 0x01 => (a, 0)
      | 0x02 => (d + a, 0)
      | 0x03 => (d - a, 0)
      | 0x04 => (d * a, 0)
      | 0x05 => (if d.slt a then d else a, 0)
      | 0x06 => (if d.slt a then a else d, 0)
      | 0x07 => (d &&& a, 0)
      | 0x08 => (d ||| a, 0)
      | 0x09 => (d ^^^ a, 0)
      | 0x0A => (if 32 ≤ a.toNat then 0 else d <<< a.toNat, 0)
      | 0x0B => (if 32 ≤ a.toNat then 0 else d >>> a.toNat, 0)
      | 0x0C => (d.sshiftRight (min a.toNat 31), 0)
      | 0x10 => fpAdd .f32 .rn c.ftz (z d) (z a)
      | 0x11 => fpSub .f32 .rn c.ftz (z d) (z a)
      | 0x12 => fpMul .f32 .rn c.ftz (z d) (z a)
      | 0x13 => fpMinMax .f32 false (z d) (z a)
      | _ => fpMinMax .f32 true (z d) (z a)
    let written (x : Slot) (tg : Tag) (th : Thread) : Thread := { th with
      v := th.v.set x.d.toNat (value x).1
      tags := th.tags.set x.d.toNat tg
      flaws := th.flaws.filter fun y => y.1 != x.d.toNat }
    let run (x : Slot) (tg : Tag) (t : State) : State :=
      if x.sop ≠ 0 ∧ c.p x.g.toNat then (t.modThread c.r (written x tg)).raise c.r (value x).2 else t
    let clear (tg : Tag) : Prop := tg.pval = false ∧ tg.pcnt = 0 ∧ tg.sig = 0
    ∃ t0 t1 : Tag, clear t0 ∧ clear t1 ∧ exec (.pairWord s0 s1) s = c.completes (run s1 t1 (run s0 t0 s))

/-! ### Control, registers and traps (04, 01, 15) -/

/-- 04 R96-R98, 01 R24, 02 R44: a transfer whose target passes its checks, NOP, YIELD, SLEEP and EXIT, the link being
that of the word after the call, and a sleep being until CYCLES has gone on by the immediate at least; and the checks
of a taken transfer's target, in their order, with its fetch fault. Model's choices: logs 35, 39. -/
def Obligations.ControlResults : Prop :=
  (∀ (g : Guard) (f : Fields) (s : State) (c : Cx),
    let near : Word := c.th.pc + (f.d ++ f.a ++ f.b ++ f.c).signExtend 64 * 8
    let far : Word := if f.isX then c.x f.a.toNat else c.pair f.a.toNat
    let ok (target : Word) (reg : Bool) : Prop := checkLanding s c target reg = .ok ()
    let link : Word := (nextWord c.th.pc false).getD 0
    (Acts 0x18 0 g f s c → ok near false → exec (.bra g f) s = .next (s.setPc c.r near)) ∧
    (Acts 0x18 1 g f s c → ok far true → exec (.brx g f) s = .next (s.setPc c.r far)) ∧
    (Acts 0x18 2 g f s c → ok near false →
      exec (.call g f) s = .next ((s.setPair c.r 0 link).setPc c.r near)) ∧
    (Acts 0x18 3 g f s c → ok far true →
      exec (.callx g f) s = .next ((s.setPair c.r f.d.toNat link).setPc c.r far)) ∧
    (Acts 0x18 4 g f s c → ok far true → exec (.ret g f) s = .next (s.setPc c.r far)) ∧
    (Acts 0x18 5 g f s c → ∃ t, exec (.exit g f) s = .next t ∧ t.mem = s.mem ∧ t.queue = s.queue ∧
      (t.thread c.r).map Thread.run = some .exited) ∧
    (Acts 0x18 6 g f s c →
      exec (.sleep g f) s = c.completes (s.modThread c.r fun th => 
        { th with wait := .asleep (coreCycles s c.t.core + f.imm.toNat) })) ∧
    (Acts 0x00 0 g f s c → exec (.nop g f) s = c.completes s) ∧
    (Acts 0x00 4 g f s c → exec (.yield g f) s = c.completes s)) ∧
  ∀ (s : State) (c : Cx) (target : Word) (reg : Bool),
    let high := 2 ^ 48 ≤ target.toNat
    (reg = true → target.toNat % 8 ≠ 0 ∨ high → checkLanding s c target reg = stopTrap cTarget 2) ∧
    (reg = false → high → checkLanding s c target reg = stopTrap cTarget 3) ∧
    (¬ high → (reg = true → target.toNat % 8 = 0) →
      (∀ e, fetchLine s c target = .error e → checkLanding s c target reg = .error e) ∧
      ∀ ws, fetchLine s c target = .ok ws →
        let i := target.toNat / 8 % 16
        checkLanding s c target reg =
          if i ≠ 0 ∧ (ws.getD 0 0).getLsbD (16 + i) then .ok () else stopTrap cTarget 1)

/-- 04 R99, R100, 01 R12-R17, 16 R340: what each control register and system value gives, and what a write of each
writable control register leaves; CYCLES has gone on by some number of cycles, and that is recorded. Model's choices:
logs 1, 5. -/
def Obligations.SystemRegisters : Prop :=
  ∀ (g : Guard) (f : Fields) (s : State) (c : Cx),
    let n := (f.b ++ f.c).toNat
    let core := c.t.core
    let put (t : State) (w : Word) : Out State :=
      c.completes (if f.isX then t.setX c.r f.d.toNat w
        else if f.opt then t.setV c.r f.d.toNat (w.setWidth 32)
        else t.setPair c.r f.d.toNat w)
    let value : Word :=
      match n with
      | 0 => (BitVec.ofBool c.th.priv).setWidth 64
      | 1 => c.th.fpmode.setWidth 64
      | 2 => c.t.fpst.setWidth 64
      | 4 => c.th.skew.setWidth 64
      | 5 => c.th.trapCause
      | 6 => c.th.trapPc
      | 7 => c.th.trapVa
      | 8 => c.th.saveBase
      | 9 => c.th.preempt
      | _ => c.t.tdesc.getD (n - 0x40) 0
    let w : Word := if f.isX then c.x f.a.toNat else if f.opt then (c.v f.a.toNat).setWidth 64 else c.pair f.a.toNat
    let onThread (k : Thread → Thread) : Out State := c.completes (s.modThread c.r k)
    let system : List Nat :=
      [c.r.tid, c.t.index, (declOf c.t.rdw).size, c.r.tid % 32, c.r.tid / 32, core, core % 384,
        384 * (core / 768) + core % 384, core / 384 % 2 + 1, core / 384, c.la.seq % 2 ^ 32, c.la.nteams]
    (Acts 0x00 5 g f s c → n ≠ 3 → exec (.movcr g f) s = put s value) ∧
    (Acts 0x00 5 g f s c → n = 3 →
      ∃ t k, exec (.movcr g f) s = put t (BitVec.ofNat 64 (coreCycles s core + k)) ∧
        coreCycles t core = coreCycles s core + k ∧ t.teams = s.teams) ∧
    (Acts 0x00 6 g f s c → n = 1 → exec (.movrc g f) s = onThread fun th => { th with fpmode := w.setWidth 3 }) ∧
    (Acts 0x00 6 g f s c → n = 2 →
      exec (.movrc g f) s = c.completes (s.modTeam c.r.team fun t => { t with fpst := t.fpst &&& ~~~(w.setWidth 5) })) ∧
    (Acts 0x00 6 g f s c → n = 4 →
      let sh := w.toNat % 16
      exec (.movrc g f) s =
        if sh = 0 ∨ (5 ≤ sh ∧ sh ≤ 10) then onThread fun th => { th with skew := w.setWidth 4 }
        else .next (s.trapIn s c { cause := cIllegal, sub := 0xF })) ∧
    (Acts 0x00 6 g f s c → n = 8 →
      exec (.movrc g f) s = onThread fun th => { th with saveBase := w &&& 0x000FFFFFFFFFF000#64 }) ∧
    (Acts 0x00 6 g f s c → n = 9 →
      exec (.movrc g f) s = onThread fun th => { th with preempt := w &&& 0x1FFFFFFFF#64 }) ∧
    (∀ t, Acts 0x00 6 g f s c → 0x40 ≤ n → setTile s c (n - 0x40) w = .ok t → exec (.movrc g f) s = c.completes t) ∧
    (Acts 0x00 7 g f s c →
      exec (.movsr g f) s = c.completes
        (if f.isX then s.setX c.r f.d.toNat (BitVec.ofNat 64 (system.getD n 0))
        else s.setV c.r f.d.toNat (BitVec.ofNat 32 (system.getD n 0))))

/-- 15 R318: BKPT and TRAP take the trap TRAP at their own word. 15 R323: ERET and ERET.next leave handler mode with
PRIV as the launch has it, at TRAPPC or after its word; outside handler mode they raise ILLEGAL 0x0F. -/
def Obligations.TrapAndReturnWords : Prop :=
  (∀ (g : Guard) (f : Fields) (s : State) (c : Cx),
    let code := (f.b ++ f.c).toNat
    (Acts 0x00 1 g f s c → exec (.bkpt g f) s = .next (s.trapIn s c { cause := 0x11, sub := 0x80 + code })) ∧
    (Acts 0x00 2 g f s c → exec (.trap g f) s = .next (s.trapIn s c { cause := 0x11, sub := code }))) ∧
  ∀ (g : Guard) (f : Fields) (s : State) (c : Cx), Acts 0x00 3 g f s c →
    let back (pc : Word) : Out State :=
      .next (s.modThread c.r fun th => { th with hnd := false, priv := c.la.priv, pc := pc, since := none })
    (c.th.hnd = true → exec (.eret g f) s = back c.th.trapPc) ∧
    (∀ pc, c.th.hnd = true → successorOf s c c.th.trapPc = .ok pc → exec (.eretNext g f) s = back pc) ∧
    (∀ tr, c.th.hnd = true → successorOf s c c.th.trapPc = .error (.trap tr) →
      exec (.eretNext g f) s = .next (s.trapIn s c tr)) ∧
    (c.th.hnd = false →
      exec (.eret g f) s = .next (s.trapIn s c { cause := 0x01, sub := 0x0F }) ∧
      exec (.eretNext g f) s = .next (s.trapIn s c { cause := 0x01, sub := 0x0F }))

/-- 01 R23, 15 R319-R321: a trap is taken when the results of the thread's earlier instructions have come, and until then
its word waits. Taking it: the thread stops under a FID with PC at its word, TRAPCAUSE, TRAPPC and TRAPVA
written, and everything else of it as before; memory and every other thread stand; and, but where an earlier record
waits for the same page, the fault unit deposits a record of eight fields under a new FID and takes the resume tuple that
names it. -/
def Obligations.TrapEntry : Prop :=
  (∀ (s u : State) (c : Cx) (tr : Trap),
    (c.th.pend = [] → c.th.herd = [] → s.trapIn u c tr = u.takeTrap c tr) ∧
    (c.th.pend ≠ [] ∨ c.th.herd ≠ [] → s.trapIn u c tr = s)) ∧
  ∀ (s : State) (c : Cx) (tr : Trap), s.viewOf c.r = some c →
    let t := s.takeTrap c tr
    let isPage := decide (tr.cause = 0x05 ∧ tr.sub = 1)
    let joined := s.fu.records.find? fun r =>
      isPage && r.page == some (tr.va.toNat / 4096) && r.ctx == c.la.ctx
    (∃ fid, t.thread c.r = some { c.th with
        trapCause := BitVec.ofNat 64 (tr.cause + 2 ^ 8 * tr.sub + 2 ^ 16 * tr.slot)
        trapPc := c.th.pc
        trapVa := tr.va
        run := .faulted fid
        wait := .none
        since := none } ∧
      fid = (joined.map FaultRec.fid).getD s.fu.next) ∧
    t.mem = s.mem ∧ t.queue = s.queue ∧ (∀ r, r ≠ c.r → t.thread r = s.thread r) ∧
    (joined.isSome → t.fu = s.fu ∧ t.herd = s.herd) ∧
    (joined = none → ∃ dep take, t.herd.flying = s.herd.flying ++ [dep, take] ∧
      t.fu.next = nextNumber s.fu.next ∧ t.fu.records = s.fu.records ++
        [⟨s.fu.next, c.la.ctx, if isPage then some (tr.va.toNat / 4096) else none⟩] ∧
      dep.op = .dep 0 false ∧ dep.region = 0xFFE ∧
      dep.fields = [BitVec.ofNat 64 (2 ^ 48 + c.la.ctx), BitVec.ofNat 64 s.fu.next,
        BitVec.ofNat 64 (tr.cause + 2 ^ 8 * tr.sub + 2 ^ 16 * tr.slot), c.th.pc, tr.va,
        BitVec.ofNat 64 (c.t.seq + (if c.th.hnd then 2 ^ 48 else 0) + if isPage then 2 ^ 50 else 0),
        BitVec.ofNat 64 (2 ^ 42 * c.t.core + 2 ^ 32 * c.r.tid + c.t.index), BitVec.ofNat 64 tr.ak] ∧
      take.op = .tak false ∧ take.region = 0xFFE ∧ take.src = .fu s.fu.next ∧
      take.fields.take 2 = [BitVec.ofNat 64 (2 * 2 ^ 48 + c.la.ctx), BitVec.ofNat 64 s.fu.next])

/-- 15 R338, R326: when SAVE may begin, the launch drains, or is forced at once where PREEMPT says so, into the area at
SAVEBASE, and the thread waits for the status; and the status of a SAVE that may not begin. 15 R337, R338: REST of a
saved launch whose area is good begins the restore, and the thread waits for the status; and the status of a REST that
may not begin, which has read the area as an acquire. Model's choices: log 73; log 19 for an area outside the installed
HBM. -/
def Obligations.SaveAndRestore : Prop :=
  (∀ (g : Guard) (f : Fields) (s : State) (c : Cx), Acts 0x00 10 g f s c →
    let seq := (c.x f.a.toNat).toNat
    let status (code : Nat) : Prop :=
      exec (.save g f) s = c.completes (s.setX c.r f.d.toNat (BitVec.ofNat 64 code))
    let force := c.th.preempt.getLsbD 32
    let limit := c.th.preempt.toNat % 2 ^ 32
    (s.launch? seq = none → status 1) ∧
    ∀ l, s.launch? seq = some l →
      let fits := launchSize l.decl (liveTeams s seq).length ≤ (c.x f.b.toNat).toNat
      (seq = c.la.seq → status 6) ∧
      (seq ≠ c.la.seq → l.ended = true → status 2) ∧
      (seq ≠ c.la.seq → l.ended = false → l.pre ≠ .running ∨ l.agent ≠ .none → status 4) ∧
      (seq ≠ c.la.seq → l.ended = false → l.pre = .running → l.agent = .none → ¬ fits → status 3) ∧
      (seq ≠ c.la.seq → l.ended = false → l.pre = .running → l.agent = .none → fits → l.cancelled = false →
        let begun : State := (s.modThread c.r fun th => { th with wait := .save seq f.d.toNat }).modLaunch seq fun l =>
          { l with
            pre := .draining
            agent := .thread c.r f.d.toNat
            onlyTeam := none
            limit := if limit = 0 then 2 ^ 20 else limit
            area := c.th.saveBase.toNat
            pool := none }
        (force = false → exec (.save g f) s = .next begun) ∧
        (force = true → exec (.save g f) s = .next (forceUnit begun seq)))) ∧
  ∀ (g : Guard) (f : Fields) (s : State) (c : Cx), Acts 0x00 11 g f s c →
    let area := c.th.saveBase.toNat
    let seq := memNat s.mem (area + 8) 8
    let status (code : Nat) : Prop :=
      exec (.rest g f) s = c.completes ((s.setX c.r f.d.toNat (BitVec.ofNat 64 code)).dropL1 c.t.core)
    (hbmSize < area + 0x1000 → status 5) ∧
    (area + 0x1000 ≤ hbmSize → sleeping s (restReads s area) = true → exec (.rest g f) s = .next s) ∧
    (area + 0x1000 ≤ hbmSize → sleeping s (restReads s area) = false →
      (memNat s.mem area 8 ≠ 1 → status 5) ∧
      (memNat s.mem area 8 = 1 → s.launch? seq = none → status 1) ∧
      ∀ l, memNat s.mem area 8 = 1 → s.launch? seq = some l →
        (l.pre = .running → status 1) ∧
        (l.pre ≠ .running → l.pre ≠ .saved → status 4) ∧
        (l.pre = .saved → imageGood s l area = false → status 5) ∧
        (l.pre = .saved → imageGood s l area = true → l.saved ≠ [] →
          exec (.rest g f) s = .next ((s.modThread c.r fun th => { th with wait := .rest seq f.d.toNat }).modLaunch seq
            fun l => { l with
              pre := .restoring
              agent := .thread c.r f.d.toNat
              area := area
              lbar := if l.decl.coop then readHwBar l.lbar (memNat s.mem (area + 0x58) 8) 32 else l.lbar })))

/-! ### Memory (08, 09) -/

/-- 09 R188-R193: LD and LDS that can read at once. The bytes go little-endian to one register, zero-extended, or to two
or four; the load is counted on LD, and an ordered load of cluster scope or wider drops the core's L1 lines. 18 R379: a
load from a remote device or the host that no store of the queue serves leaves as one Read. Model's choices: log 20. -/
def Obligations.LoadResults : Prop :=
  ∀ (g : Guard) (f : Fields) (s : State) (c : Cx) (bs : List Byte),
    let size := 2 ^ f.mod.toNat
    let base := c.base f.a + c.index f.b
    let result : Pending :=
      { uid := s.uid
        vregs := (List.range (max 1 (size / 4))).map fun j =>
          (f.d.toNat + j, BitVec.ofNat 32 (leNat ((bs.drop (4 * j)).take 4)), {})
        xregs := []
        ready := true
        counted := true }
    c.th.cntLd < 63 →
      (∀ x, Acts 0x20 0 g f s c →
        let ea := base + ((f.c.setWidth 6).signExtend 64) * BitVec.ofNat 64 size
        let wide := decide (2 ≤ f.c.toNat / 64 % 8)
        ea.toNat % size = 0 → translate s c .load ea f.am = .ok x →
        Reads s c wide ((List.range size).map (x.loc + ·)) bs →
        ∃ t, exec (.ld g f) s = .next t ∧ Issued s t c result ∧ t.queue = s.queue ∧
          (f.c.getLsbD 9 = true → wide = true → t.l1.all fun l => l.core != c.t.core) ∧
          ((∀ j < size, isOutside (x.loc + j) = true) → x.loc % size = 0 →
            unserved s c ((List.range size).map (x.loc + ·)) ≠ [] →
            t.outbound = s.outbound ++ [{ loc := x.loc, bytes := [], kind := .read size }])) ∧
      (∀ locs, Acts 0x20 2 g f s c →
        scratchLocs c (base + f.c.signExtend 64 * BitVec.ofNat 64 size) size f.am 0 = .ok locs →
        Reads s c false locs bs →
        ∃ t, exec (.lds g f) s = .next t ∧ Issued s t c result ∧ t.queue = s.queue)

/-- 09 R188-R194: ST and STS put their bytes at the end of the core's store queue and count on ST; memory itself
stands until the store is performed. A prefetch changes nothing but the core's L1 lines and the L2 lines, and a
missing page or permission ends it with no effect. 08 R168: after a store is issued its own thread reads the stored
bytes, and no other byte reads otherwise to any thread. -/
def Obligations.StoreResults : Prop :=
  (∀ (g : Guard) (f : Fields) (s : State) (c : Cx),
    let size := 2 ^ f.mod.toNat
    let base := c.base f.a + c.index f.b
    let byte (j : Nat) : Byte := (c.v (f.d.toNat + j / 4) >>> (8 * (j % 4))).setWidth 8
    let stored (va : Word) (bytes : List Host.Cell) (rel : Bool) : State :=
      let entry : QEntry := { uid := s.uid, core := c.t.core, who := c.r, va := va, what := .write bytes, rel := rel }
      let queued : State := { s with uid := s.uid + 1, queue := s.queue ++ [entry] }
      queued.modThread c.r fun th => { th with cntSt := th.cntSt + 1 }
    (∀ x, Acts 0x20 1 g f s c → c.th.cntSt < 63 →
      let ea := base + ((f.c.setWidth 6).signExtend 64) * BitVec.ofNat 64 size
      let release := f.c.getLsbD 9
      ea.toNat % size = 0 → translate s c .store ea f.am = .ok x → release = false ∨ c.th.linkFail = none →
      exec (.st g f) s = c.completes (stored ea ((List.range size).map fun j => (x.loc + j, byte j))
        (release && decide (2 ≤ f.c.toNat / 64 % 8)))) ∧
    (∀ locs, Acts 0x20 3 g f s c → c.th.cntSt < 63 →
      let o := base + f.c.signExtend 64 * BitVec.ofNat 64 size
      scratchLocs c o size f.am 1 = .ok locs →
      exec (.sts g f) s = c.completes (stored o ((indexed 0 locs).map fun l => (l.2, byte l.1)) false)) ∧
    (Acts 0x20 4 g f s c →
      let va := base + f.c.signExtend 64 * 128
      (∀ x, translate s c .prefetch va = .ok x → sleeping s [x.loc] = false →
        exec (.prf g f) s = c.completes
          (if f.mod = 0 then s.fillL1 c.t.core x.loc else { s with l2 := s.l2.touch 0 [x.loc] })) ∧
      (∀ tr, translate s c .prefetch va = .error (.trap tr) →
        (tr.cause = 0x05 ∧ tr.sub = 1) ∨ tr.cause = 0x06 → exec (.prf g f) s = c.completes s))) ∧
  ∀ (s : State) (c : Cx) (va : Word) (bytes : List Host.Cell) (rel wide : Bool) (n loc : Nat) (d : Cx),
    let t := s.issueStore c va bytes rel
    (loc ∉ bytes.map Prod.fst ∨ d.r ≠ c.r → readByte t d wide n loc = readByte s d wide n loc) ∧
    (d.r = c.r → d.t.core = c.t.core → (bytes.map Prod.fst).Nodup → ∀ b, (loc, b) ∈ bytes →
      readByte t d wide n loc = some b)

/-- 07 R149, R152, 09 R192: where a team-relative access lands: rows of the skewed view of its scratchpad, its column
extension, or nowhere. -/
def Obligations.ScratchPlaces : Prop :=
  ∀ (c : Cx) (o : Word) (size ak : Nat) (skewed : Bool), 0 < size →
    let d := declOf c.t.rdw
    let a := o.toNat
    let at_ (k : Nat) : Nat := scratchLoc c.t.core k
    (a % size ≠ 0 → scratchLocs c o size skewed ak = stopTrap 0x04 0 o ak) ∧
    (a % size = 0 → a + size ≤ d.scr →
      (skewed = false → scratchLocs c o size skewed ak = .ok ((List.range size).map fun j => at_ (c.t.scrBase + (a + j)))) ∧
      (skewed = true → ∃ locs, scratchLocs c o size skewed ak = .ok locs ∧ locs.length = size ∧
        ∀ j, j < size →
          let w := (a + j) / 4
          let len := 2 ^ c.th.skew.toNat
          let lane := if c.th.skew = 0 then w % 32 else (w % len + w / len) % 32
          locs[j]? = some (at_ (c.t.scrBase + (128 * (w / 32) + 4 * lane + (a + j) % 4))))) ∧
    (a % size = 0 → d.scr < a + size → 0x20000 ≤ a → a + size ≤ 0x20000 + d.ext →
      scratchLocs c o size skewed ak =
        if skewed then stopTrap 0x07 2 o ak else .ok ((List.range size).map fun j => at_ (c.t.extBase + a + j))) ∧
    (a % size = 0 → d.scr < a + size → a < 0x20000 ∨ 0x20000 + d.ext < a + size →
      scratchLocs c o size skewed ak = stopTrap 0x06 5 o ak)

/-- 01 R21, 09 R190-R193, R202, 15 R317, R319-R321: where the loads, the stores and the atomics trap, with which address
and access kind: an address that its size does not divide, the stop of its translation or of its scratchpad place, and
damaged bytes that it reads: a load those that the store queue does not serve, an atomic those of a granule that no waiting
store of its core writes whole. While 63 operations of its kind are counted, LD and ST wait (09 R204). -/
def Obligations.AccessTraps : Prop :=
  ∀ (g : Guard) (f : Fields) (s : State) (c : Cx),
    let size := 2 ^ f.mod.toNat
    let base := c.base f.a + c.index f.b
    let ea := base + ((f.c.setWidth 6).signExtend 64) * BitVec.ofNat 64 size
    let o := base + f.c.signExtend 64 * BitVec.ofNat 64 size
    let at_ := c.base f.a
    let wide := decide (2 ≤ f.c.toNat / 64 % 8)
    let granules := if f.mod = 1 then 8 else 4
    let stops (i : Instr) (tr : Trap) : Prop := exec i s = .next (s.trapIn s c tr)
    let atomics : List Instr := [.atom g f, .atomc g f, .red g f]
    let acts (i : Instr) : Prop :=
      (i = .atom g f → Acts 0x22 0 g f s c ∧ c.th.cntLd < 63) ∧ (i = .atomc g f → Acts 0x22 1 g f s c ∧ c.th.cntLd < 63) ∧
      (i = .red g f → Acts 0x22 2 g f s c ∧ c.th.cntSt < 63)
    (Acts 0x20 0 g f s c →
      (63 ≤ c.th.cntLd → exec (.ld g f) s = .next s) ∧
      (c.th.cntLd < 63 → ea.toNat % size ≠ 0 → stops (.ld g f) { cause := 0x04, sub := 0, va := ea, ak := 0 }) ∧
      (c.th.cntLd < 63 → ea.toNat % size = 0 → ∀ tr, translate s c .load ea f.am = .error (.trap tr) → stops (.ld g f) tr) ∧
      (c.th.cntLd < 63 → ea.toNat % size = 0 → ∀ x n, translate s c .load ea f.am = .ok x →
        let locs := unserved s c ((List.range size).map (x.loc + ·))
        sleeping s locs = false → linkReadFails s locs = false → readSub s c.t.core wide locs = some n →
        stops (.ld g f) { cause := 0x0E, sub := n, va := ea, ak := 0 })) ∧
    (Acts 0x20 1 g f s c →
      (63 ≤ c.th.cntSt → exec (.st g f) s = .next s) ∧
      (c.th.cntSt < 63 → ea.toNat % size ≠ 0 → stops (.st g f) { cause := 0x04, sub := 0, va := ea, ak := 1 }) ∧
      (c.th.cntSt < 63 → ea.toNat % size = 0 → ∀ tr, translate s c .store ea f.am = .error (.trap tr) →
        stops (.st g f) tr)) ∧
    (Acts 0x20 2 g f s c → c.th.cntLd < 63 → ∀ tr, scratchLocs c o size f.am 0 = .error (.trap tr) → stops (.lds g f) tr) ∧
    (Acts 0x20 3 g f s c → c.th.cntSt < 63 → ∀ tr, scratchLocs c o size f.am 1 = .error (.trap tr) → stops (.sts g f) tr) ∧
    ∀ i, i ∈ atomics → acts i →
      (at_.toNat % granules ≠ 0 → stops i { cause := 0x04, sub := 0, va := at_, ak := 3 }) ∧
      (at_.toNat % granules = 0 → ∀ tr, translate s c .atomic at_ = .error (.trap tr) → stops i tr) ∧
      (at_.toNat % granules = 0 → ∀ x n, translate s c .atomic at_ = .ok x →
        let locs := (List.range granules).map (x.loc + ·)
        sleeping s locs = false → linkReadFails s locs = false → eccSub s (notOverwritten s c.t.core locs) = some n →
        stops i { cause := 0x0E, sub := n, va := at_, ak := 3 })

/-- 07 R156-R158, 09 R195-R199: PLD reads planes E, S and M1 to Mp of its block, decodes its elements and tags them; PST
stores the encoded planes; PREF of registers that hold enough planes does nothing, and with too few reads the rest and
decodes them with those that the value was read from; PTAG reads and writes tags. 07 R157, 09 R195: the operands of PLD,
PREF and PST, and the checks of their descriptor, element and plane count, of PREF's tags, and of each plane's translation
and stride, in order. 07 R161: PLD reports the address of the plane that holds an error, of several the first. Model's
choices: logs 28, 36, 88, 129. -/
def Obligations.PlaneResults : Prop :=
  (∀ (g : Guard) (f : Fields) (s : State) (c : Cx) (o : PlaneOps) (locs : List Nat),
    let planes := List.range (o.planes + 2)
    let a := o.set.base + BitVec.ofNat 64 (2 * o.block)
    let pairs := locs.flatMap fun l => [l, l + 1]
    let address (j : Nat) : Word := a + BitVec.ofNat 64 (128 * o.set.stride * j)
    let block (ws : List (BitVec 16)) : Block := ⟨ws.getD 0 0, ws.getD 1 0, ws.drop 2⟩
    let stops (i : Instr) (tr : Trap) : Prop := exec i s = .next (s.trapIn s c tr)
    let tagged (k : Nat) : Prop :=
      (c.tag (f.d.toNat + k)).pval = true ∧ (c.tag (f.d.toNat + k)).sig = planeSig a (o.elem + k)
    (∀ bs, Acts 0x21 0 g f s c → c.th.cntLd < 63 → planeOps c f 0 = .ok o →
      planesAt s c .planeLoad o.set o.block planes = .ok locs → Reads s c true pairs bs →
      let ws := planeWords bs
      let reg (k : Nat) : Nat × W32 × Tag :=
        (f.d.toNat + k, pb16Read (block ws) (o.elem + k) o.planes o.mid,
          { pval := true, pcnt := BitVec.ofNat 5 o.planes, sig := planeSig a (o.elem + k)
            held := ws.zip (planes.map address) })
      ∃ t, exec (.pld g f) s = .next t ∧ t.queue = s.queue ∧
        Issued s t c ⟨s.uid, (List.range o.count).map reg, [], true, true⟩) ∧
    (Acts 0x21 1 g f s c → planeOps c f 0 = .ok o →
      (∀ k, k < o.count → tagged k ∧ o.planes ≤ (c.tag (f.d.toNat + k)).pcnt.toNat) →
      exec (.pref g f) s = c.completes s) ∧
    (∀ bs, Acts 0x21 1 g f s c → c.th.cntLd < 63 → planeOps c f 0 = .ok o → ∀ p,
      (∀ k, k < o.count → tagged k ∧ (c.tag (f.d.toNat + k)).pcnt.toNat = p) →
      p < o.planes → planesAt s c .planeLoad o.set o.block (planes.drop (p + 2)) = .ok locs →
      Reads s c true pairs bs →
      ∃ t vregs, exec (.pref g f) s = .next t ∧ t.queue = s.queue ∧ Issued s t c ⟨s.uid, vregs, [], true, true⟩ ∧
        vregs.map Prod.fst = (List.range o.count).map (f.d.toNat + ·) ∧
        ∀ x ∈ vregs, x.2.2.pval = true ∧ x.2.2.pcnt = BitVec.ofNat 5 o.planes ∧ x.2.2.sig = (c.tag x.1).sig ∧
          x.2.2.held.length = o.planes + 2 ∧
          x.2.2.held.drop (p + 2) = (planeWords bs).zip ((planes.drop (p + 2)).map address) ∧
          (∀ j w b, j < p + 2 → (c.tag x.1).held[j]? = some (w, b) → ∃ v, x.2.2.held[j]? = some (v, b) ∧
            (v = w ∨ b = address j ∧ quietPlane s c o.set j o.block = some v)) ∧
          x.2.1 = pb16Read (block (x.2.2.held.map Prod.fst)) (o.elem + (x.1 - f.d.toNat)) o.planes o.mid) ∧
    (Acts 0x21 1 g f s c → planeOps c f 0 = .ok o → ∀ k, k < o.count → (∀ j, j < k → tagged j) →
      ((c.tag (f.d.toNat + k)).pval = false → stops (.pref g f) { cause := 0x08, sub := 4 }) ∧
      ((c.tag (f.d.toNat + k)).pval = true → ¬ tagged k → stops (.pref g f) { cause := 0x08, sub := 5 })) ∧
    (∀ tr, Acts 0x21 0 g f s c → c.th.cntLd < 63 → planeOps c f 0 = .ok o →
      planesAt s c .planeLoad o.set o.block planes = .error (.trap tr) → stops (.pld g f) tr) ∧
    (∀ tr, Acts 0x21 2 g f s c → c.th.cntSt < 63 → planeOps c f 1 = .ok o →
      planesAt s c .planeStore o.set o.block planes = .error (.trap tr) → stops (.pst g f) tr) ∧
    (∀ acc j, planesAt s c acc o.set o.block [j] =
      match translate s c acc (address j) with
      | .error e => .error e
      | .ok x => if x.tq = o.set.stride then .ok [x.loc] else stopTrap 0x08 2 (address j) acc.ak) ∧
    (Acts 0x21 2 g f s c → c.th.cntSt < 63 → planeOps c f 1 = .ok o →
      planesAt s c .planeStore o.set o.block planes = .ok locs →
      let enc := pb16Encode ((List.range 16).map fun k => c.v (f.d.toNat + k))
      let ws := (enc.1.e :: enc.1.s :: enc.1.m).take (o.planes + 2)
      let bytes := pairs.zip (ws.flatMap fun (w : BitVec 16) => [w.setWidth 8, (w >>> 8).setWidth 8])
      let entry : QEntry := { uid := s.uid, core := c.t.core, who := c.r, va := a, what := .write bytes, planes := planes.map address }
      let queued : State := { s with uid := s.uid + 1, queue := s.queue ++ [entry] }
      exec (.pst g f) s = c.completes ((queued.modThread c.r fun th => { th with cntSt := th.cntSt + 1 }).raise c.r enc.2)) ∧
    (∀ k l n, Acts 0x21 0 g f s c → c.th.cntLd < 63 → planeOps c f 0 = .ok o →
      planesAt s c .planeLoad o.set o.block planes = .ok locs → locs[k]? = some l →
      sleeping s (unserved s c pairs) = false → linkReadFails s (unserved s c pairs) = false →
      (∀ m ∈ locs.take k, readSub s c.t.core true (unserved s c [m, m + 1]) = none) →
      readSub s c.t.core true (unserved s c [l, l + 1]) = some n →
      stops (.pld g f) { cause := 0x0E, sub := n, va := address k, ak := 0 }) ∧
    (Acts 0x21 3 g f s c →
      let w := c.v f.a.toNat
      let tg := c.tag f.a.toNat
      exec (.ptagGet g f) s = c.completes
        (s.setV c.r f.d.toNat (tg.sig ++ (0 : BitVec 10) ++ BitVec.ofBool tg.pval ++ tg.pcnt)) ∧
      exec (.ptagSet g f) s =
        if 16 < w.toNat % 32 ∨ w.toNat / 64 % 1024 ≠ 0 then .next (s.trapIn s c { cause := 0x08, sub := 7 })
        else
          let new : Tag := { c.tag f.d.toNat with pval := w.getLsbD 5, pcnt := w.setWidth 5, sig := (w >>> 16).setWidth 16 }
          c.completes (s.modThread c.r fun th => { th with tags := th.tags.set f.d.toNat new }))) ∧
  ∀ (c : Cx) (f : Fields) (ak : Nat),
    let n := f.a.toNat % 64
    let base := c.x n
    let desc := (c.x (n + 1)).toNat
    let stride := desc % 4096
    let npl := desc / 2 ^ 12 % 32
    let e : Nat := if f.b = 0x3FF then 0 else if f.b.getLsbD 9 then (c.x (f.b.toNat % 64)).toNat else (c.v f.b.toNat).toNat
    let count := 2 ^ f.mod.toNat
    let planes := f.c.toNat % 32
    planeOps c f ak =
      if base.toNat % 128 ≠ 0 ∨ stride = 0 ∨ 16 < npl ∨ desc / 2 ^ 17 ≠ 0 then stopTrap 0x08 1
      else if e % count ≠ 0 then stopTrap 0x04 0 (base + BitVec.ofNat 64 (2 * (e / 16))) ak
      else if npl < planes then stopTrap 0x08 3
      else if 64 * stride ≤ e / 16 then stopTrap 0x08 6
      else .ok { set := ⟨base, npl, stride⟩, block := e / 16, elem := e % 16, planes := planes,
                 mid := f.c.getLsbD 5, count := count }

/-- 09 R200-R203: ATOM, ATOMC and RED that pass their checks enter the store queue with their operation, type and
operands; a returning one awaits its result, not yet ready. 09 R201: the new value of each operation on the integer types,
on F32, and half by half on the packed ones. -/
def Obligations.Atomics : Prop :=
  (∀ (g : Guard) (f : Fields) (s : State) (c : Cx) (x : Xl),
    let ea := c.base f.a
    let locs := (List.range (if f.mod = 1 then 8 else 4)).map (x.loc + ·)
    let release := f.c.getLsbD 5
    let acquire := f.c.getLsbD 4
    let wide := decide (2 ≤ f.c.toNat / 64 % 8)
    let data (n : BitVec 10) : Word :=
      if f.am then c.x n.toNat else if f.mod = 1 then c.pair n.toNat else (c.v n.toNat).setWidth 64
    let entry (v cmp : Word) (cas ret : Bool) : QEntry :=
      { uid := s.uid, core := c.t.core, who := c.r, va := ea,
        what := .rmw (f.c.toNat % 16) f.mod.toNat x.loc v cmp cas ret, rel := release && wide, acq := ret && acquire,
        wide := ret && acquire && wide }
    let pending : Pending :=
      { uid := s.uid
        vregs := if f.am then [] else if f.mod = 1 then [(f.d.toNat, 0, {}), (f.d.toNat + 1, 0, {})] else [(f.d.toNat, 0, {})]
        xregs := if f.am then [(f.d.toNat, 0)] else []
        ready := false
        counted := true }
    ea.toNat % (if f.mod = 1 then 8 else 4) = 0 → translate s c .atomic ea = .ok x → sleeping s locs = false →
    eccSub s (notOverwritten s c.t.core locs) = none → release = false ∨ c.th.linkFail = none →
      (Acts 0x22 0 g f s c → c.th.cntLd < 63 → linkReadFails s locs = false →
        ∃ t, exec (.atom g f) s = .next t ∧ Issued s t c pending ∧ t.queue = s.queue ++ [entry (data f.b) 0 false true]) ∧
      (Acts 0x22 1 g f s c → c.th.cntLd < 63 → linkReadFails s locs = false →
        ∃ t, exec (.atomc g f) s = .next t ∧ Issued s t c pending ∧
          t.queue = s.queue ++ [entry (data f.d) (data f.b) true true]) ∧
      (Acts 0x22 2 g f s c → c.th.cntSt < 63 →
        exec (.red g f) s = c.completes ({ s with
          uid := s.uid + 1
          queue := s.queue ++ [entry (data f.d) 0 false false] }.modThread c.r fun th => { th with cntSt := th.cntSt + 1 }))) ∧
  (∀ old v : Word,
    newValue 0 1 old v = old + v ∧ newValue 1 1 old v = (if old.sle v then old else v) ∧
    newValue 2 1 old v = (if old.sle v then v else old) ∧ newValue 3 1 old v = (if old.ule v then old else v) ∧
    newValue 4 1 old v = (if old.ule v then v else old) ∧ newValue 5 1 old v = old &&& v ∧
    newValue 6 1 old v = old ||| v ∧ newValue 7 1 old v = old ^^^ v ∧ newValue 8 1 old v = v ∧ newValue 12 1 old v = old) ∧
  ∀ old v : W32,
    let new (op ty : Nat) : W32 := (newValue op ty (old.setWidth 64) (v.setWidth 64)).setWidth 32
    new 0 0 = old + v ∧ new 1 0 = (if old.sle v then old else v) ∧ new 2 0 = (if old.sle v then v else old) ∧
    new 3 0 = (if old.ule v then old else v) ∧ new 4 0 = (if old.ule v then v else old) ∧ new 5 0 = old &&& v ∧
    new 6 0 = old ||| v ∧ new 7 0 = old ^^^ v ∧ new 8 0 = v ∧ new 12 0 = old ∧
    new 9 2 = (fpAdd .f32 .rn false old v).1 ∧ new 10 2 = (fpMinMax .f32 false old v).1 ∧
    new 11 2 = (fpMinMax .f32 true old v).1 ∧
    ∀ (ty : Nat) (t : Fmt), (ty = 3 ∧ t = .bf16) ∨ (ty = 4 ∧ t = .f16) →
      let halves (op : W32 → W32 → W32 × FpFlags) : W32 :=
        (op (hiHalf old) (hiHalf v)).1.setWidth 16 ++ (op (loHalf old) (loHalf v)).1.setWidth 16
      new 8 ty = v ∧ new 12 ty = old ∧ new 9 ty = halves (fpAdd t .rn false) ∧ new 10 ty = halves (fpMinMax t false) ∧
      new 11 ty = halves (fpMinMax t true)

/-- 08 R176, R177, 09 R203, R204: FENCE and WAIT complete when what they await is over: an sc fence of cluster scope or
wider awaits what its core had queued when it began to wait, and until then notes that place. A release side of cluster
scope or wider marks the core's queue, unless it is empty; an acquire side of cluster scope or wider, and a WAIT for engine
operations, drop the core's L1 lines. 09 R205, R207: which cached copies each
maintenance instruction drops, and that it drops nothing else. Model's choices: logs 18, 25, 95, 105. -/
def Obligations.OrderingWords : Prop :=
  (∀ (g : Guard) (f : Fields) (s : State) (c : Cx),
    let imm := (f.b ++ f.c).toNat
    let ord := imm % 4
    let wide := 2 ≤ imm / 4 % 8
    let empty := s.queue.all fun e => e.core != c.t.core
    let place := c.th.since.getD s.uid
    let older := s.queue.any fun e => e.core == c.t.core && decide (e.uid < place)
    let dropped (t : State) : State := { t with l1 := t.l1.filter fun l => l.core != c.t.core }
    c.th.linkFail = none →
      (Acts 0x22 3 g f s c → (ord ≠ 1 → atomicsOut s c.r = false) → (ord = 3 → wide → older = false) →
        exec (.fence g f) s = c.completes
          (let marked : State :=
            if ord ≠ 0 ∧ wide ∧ ¬ empty then { s with
              uid := s.uid + 1
              queue := s.queue ++ [{ uid := s.uid, core := c.t.core, who := c.r, va := 0, what := .fence }] }
            else s
          let left : State := if ord = 3 then marked.leaveQueue c.t.core else marked
          if ord ≠ 1 ∧ wide then dropped left else left)) ∧
      (Acts 0x22 3 g f s c → ord = 3 → wide → atomicsOut s c.r = false → older = true →
        exec (.fence g f) s = .next (s.modThread c.r fun th => { th with since := some place })) ∧
      (Acts 0x22 4 g f s c → c.th.cntLd ≤ f.d.toNat → c.th.cntSt ≤ f.a.toNat → c.th.cntAs ≤ f.b.toNat →
        c.th.cntMx ≤ f.c.toNat →
        exec (.wait g f) s = c.completes (if f.b = 0 ∨ f.c = 0 then dropped s else s))) ∧
  ∀ (g : Guard) (f : Fields) (s : State) (c : Cx),
    let at_ (size : Nat) : Word := c.base f.a + c.index f.b + BitVec.ofInt 64 (f.c.toInt * size)
    (Acts 0x00 8 g f s c →
      exec (.cctlDinv g f) s = c.completes { s with l1 := s.l1.filter fun l => l.core != c.t.core } ∧
      exec (.cctlIall g f) s = c.completes { s with icache := s.icache.filter fun l => l.core != c.t.core } ∧
      ∀ x, translate s c .iinv (at_ 128) = .ok x →
        exec (.cctlIinv g f) s = c.completes { s with icache := s.icache.filter fun l => l.pa != x.loc / 128 * 128 }) ∧
    (Acts 0x00 9 g f s c →
      exec (.tlbiAll g f) s = c.completes { s with tlb := [] } ∧
      exec (.tlbiCtx g f) s = c.completes { s with tlb := s.tlb.filter fun e => e.troot != c.la.troot } ∧
      exec (.tlbiVa g f) s =
        let va := at_ 4096
        if va.toNat < 2 ^ 48 then
          c.completes { s with tlb := s.tlb.filter fun e => e.path != va.toNat / 2 ^ (39 - 9 * e.lvl) }
        else .next (s.trapIn s c { cause := 0x05, sub := 3, va := va }))

/-! ### The herd (10) -/

/-- 10 R212: what one operation of a pattern compares, that a tuple matches where every field does, field 0 by equality,
and the patterns that are malformed. 10 R215: a copy or take of a
region other than the free pages selects a visible tuple that it accepts; in an ordered region none accepted is of a
higher class, and of those of its class, in a plain region of all, none is older; and it selects nothing only where it
accepts nothing visible. 10 R216: a take ages each other visible tuple that it accepts of a lower class, by the rule for
AGE and ECLS. -/
def Obligations.MatchRules : Prop :=
  ((∀ t v m : Word,
    fieldMatches 0 t v m = true ∧ fieldMatches 1 t v m = (t == v) ∧ fieldMatches 2 t v m = (t != v) ∧
    fieldMatches 3 t v m = t.ult v ∧ fieldMatches 4 t v m = t.ule v ∧ fieldMatches 5 t v m = v.ult t ∧
    fieldMatches 6 t v m = v.ule t ∧ fieldMatches 7 t v m = ((t ^^^ v) &&& m == 0)) ∧
  (∀ (pat : W32) (template fields : List Word),
    let field (l : List Word) (i : Nat) : Word := l.getD i 0
    let op (i : Nat) : Nat := pat.toNat / 2 ^ (3 * i - 3) % 8
    tupleMatches pat template fields = true ↔ field fields 0 = field template 0 ∧ ∀ i, 1 ≤ i → i ≤ 7 →
      fieldMatches (op i) (field fields i) (field template i) (field template (pat.toNat / 2 ^ 21 % 8)) = true) ∧
  ∀ x : Word,
    let op (i : Nat) : Nat := (x.toNat / 2 ^ (3 * i - 3)) % 8
    let mf := x.toNat / 2 ^ 21 % 8
    let nf := x.toNat / 2 ^ 24 % 16
    patternBad x = true ↔ 2 ^ 28 ≤ x.toNat ∨ nf = 0 ∨ 8 < nf ∨ (mf = 0 ∧ ∃ i, 1 ≤ i ∧ i ≤ 7 ∧ op i = 7) ∨
      (mf ≠ 0 ∧ op mf ≠ 0)) ∧
  (∀ (h : Herd) (ordered : Bool) (q : HReq), q.region ≠ pageRegion →
    let visible (t : HTuple) : Prop := t ∈ h.tuples ∧ t.pending = 0 ∧ q.accepts t.region t.fields = true
    let cls (t : HTuple) : Nat := (t.fields.getD 7 0).toNat / 16 % 8
    (h.select ordered q = none ↔ ∀ t, ¬ visible t) ∧
    ∀ w, h.select ordered q = some w → visible w ∧
      ∀ t, visible t → (ordered = true → cls t ≤ cls w) ∧ (ordered = false ∨ cls t = cls w → w.arr ≤ t.arr)) ∧
  ∀ (h : Herd) (q : HReq) (w x : HTuple), x ∈ h.tuples → x.fields.length = 8 →
    let field7 (t : HTuple) : Word := t.fields.getD 7 0
    let ecls (t : HTuple) : Nat := (field7 t).toNat / 16 % 8
    let age (t : HTuple) : Nat := (field7 t).toNat / 256 % 32
    ∃ y ∈ (h.age q w).tuples, y.dep = x.dep ∧ y.arr = x.arr ∧ y.pending = x.pending ∧ y.fields.take 7 = x.fields.take 7 ∧
      if x.pending = 0 ∧ x.dep ≠ w.dep ∧ q.accepts x.region x.fields ∧ ecls x < ecls w then
        (field7 y).toNat % 16 = (field7 x).toNat % 8 ∧ (field7 y).toNat / 65536 = (field7 x).toNat / 65536 ∧
        (age x < 15 → ecls y = ecls x ∧ age y = age x + 1) ∧
        (age x = 15 → ecls y = ecls x + 1 ∧ age y = 0)
      else y = x

/-- 10 R208, R209, R220-R224: the herd instructions that pass their checks send their request, with the fields that vD
to vD+15 hold, the pattern and the region of the handle. 10 R225, R226: HCAN sends a withdrawal of the thread's copy or
take with its D, or answers NOREQ; HCRE creates a region; HDEL of a region waits for the homes. 10 R212, R217, R220,
R226: where they raise HERD, and a copy or take that waits for a parking entry of its team. Model's choices: log 34. -/
def Obligations.HerdRequests : Prop :=
  (∀ (g : Guard) (f : Fields) (s : State) (c : Cx) (r : Region),
    let handle := c.x f.a.toNat
    let pat := c.x f.b.toNat
    let low : W32 := pat.setWidth 32
    let request (op : HOp) (p : W32) (mark : Nat) : HReq :=
      { uid := s.uid, src := .thread c.r, op := op, region := r.num,
        fields := (List.range 8).map fun i => c.pair (f.d.toNat + 2 * i), pat := p, handle := handle, core := c.t.core,
        mark := mark }
    let awaited (fn nregs : Nat) : HPend :=
      { uid := s.uid, fn := fn, d := f.d.toNat, nregs := nregs, ps := f.c.toNat % 8,
        xs := if f.c.getLsbD 3 then some (f.c.toNat / 16) else none, region := r.num, kind := c.pair f.d.toNat,
        pc := c.th.pc }
    let sends (i : Instr) (op : HOp) (p : W32) (mark fn nregs : Nat) : Prop :=
      ∃ t, exec i s = .next t ∧ Requested s t c (request op p mark) (awaited fn nregs)
    let nf := 2 * (pat.toNat / 2 ^ 24 % 16)
    let park := (declOf c.t.rdw).park
    let entry := parkedHeld c.t < park
    (herdRegion s c .herdW handle = .ok r → c.th.cntSt < 63 → depositsOut s c.t.core < 64 → c.th.linkFail = none →
      (Acts 0x28 0 g f s c → sends (.hdep g f) (.dep 0 f.opt) 0 s.uid 0 0) ∧
      (Acts 0x28 1 g f s c → pat.toNat < 65536 → sends (.hdepc g f) (.dep pat.toNat f.opt) 0 s.uid 1 0)) ∧
    (c.th.cntLd < 63 → patternBad pat = false →
      (herdRegion s c .herdRW handle = .ok r →
        (Acts 0x28 2 g f s c → c.th.linkFail = none → sends (.hdec g f) .dec low s.uid 2 0) ∧
        (Acts 0x28 4 g f s c → entry → sends (.htak g f) (.tak false) low 0 4 nf) ∧
        (Acts 0x28 6 g f s c → sends (.htakt g f) (.tak true) low 0 6 nf)) ∧
      (herdRegion s c .herdR handle = .ok r →
        (Acts 0x28 3 g f s c → entry → sends (.hcpy g f) (.cpy false) low 0 3 nf) ∧
        (Acts 0x28 5 g f s c → sends (.hcpyt g f) (.cpy true) low 0 5 nf)))) ∧
  (∀ (g : Guard) (f : Fields) (s : State) (c : Cx),
    let named := c.th.herd.find? fun p => (p.fn == 3 || p.fn == 4) && p.d == f.d.toNat
    let backing := (c.x f.a.toNat).toNat
    let desc := (c.x f.b.toNat).toNat
    (AtEffect 0x28 7 0 false true g f s c →
      (named = none → exec (.hcan g f) s = c.completes
        (let t := s.setP c.r (f.c.toNat % 8) false
        if f.c.getLsbD 3 then t.setX c.r (f.c.toNat / 16) 6 else t)) ∧
      ∀ p, named = some p → c.th.cntLd < 63 → ∃ t q w, exec (.hcan g f) s = .next t ∧ Requested s t c q w ∧
        q.op = .can p.uid ∧ q.uid = s.uid ∧ w.uid = s.uid ∧ w.fn = 7 ∧ w.nregs = 0 ∧ w.ps = f.c.toNat % 8) ∧
    (Acts 0x28 8 g f s c → regionBad s backing desc = false →
      exec (.hcre g f) s = c.completes { s with herd := { s.herd with regions := s.herd.regions ++
        [{ num := desc % 4096, ordered := desc.testBit 15, scope := desc / 2 ^ 12 % 8, size := desc / 2 ^ 24 % 65536,
           backing := backing, cdie := desc / 2 ^ 18 % 4 }] } }) ∧
    (Acts 0x28 8 g f s c → regionBad s backing desc = true →
      exec (.hcre g f) s = .next (s.trapIn s c { cause := 0x0B, sub := 4 })) ∧
    (Acts 0x28 9 g f s c → backing < 4096 → (s.herd.region? backing).isSome →
      exec (.hdel g f) s = .next (s.modThread c.r fun th => { th with wait := .hdel backing })) ∧
    (Acts 0x28 9 g f s c → 4096 ≤ backing ∨ s.herd.region? backing = none →
      exec (.hdel g f) s = .next (s.trapIn s c { cause := 0x0B, sub := 4 }))) ∧
  (∀ (s : State) (c : Cx) (acc : Acc) (va : Word),
    (∀ e, translate s c acc va = .error e → herdRegion s c acc va = .error e) ∧
    ∀ x, translate s c acc va = .ok x →
      (s.herd.region? x.tq = none → herdRegion s c acc va = stopTrap 0x0B 1 va acc.ak) ∧
      ∀ r, s.herd.region? x.tq = some r → herdRegion s c acc va =
        if r.scope = 3 ∧ r.cdie ≠ c.t.core / 384 then stopTrap 0x0B 3 va acc.ak else .ok r) ∧
  ∀ (g : Guard) (f : Fields) (s : State) (c : Cx),
    let handle := c.x f.a.toNat
    let pat := c.x f.b.toNat
    let traps (i : Instr) (tr : Trap) : Prop := exec i s = .next (s.trapIn s c tr)
    let herd (i : Instr) (acc : Acc) (sub : Nat) : Prop := traps i { cause := 0x0B, sub := sub, va := handle, ak := acc.ak }
    let refused (i : Instr) (acc : Acc) : Prop := ∀ tr, herdRegion s c acc handle = .error (.trap tr) → traps i tr
    let found (acc : Acc) : Prop := ∃ r, herdRegion s c acc handle = .ok r
    (∀ (w : Nat × Instr), w ∈ [(0, Instr.hdep g f), (1, .hdepc g f)] → Acts 0x28 w.1 g f s c → c.th.cntSt < 63 →
      depositsOut s c.t.core < 64 → refused w.2 .herdW) ∧
    (Acts 0x28 1 g f s c → c.th.cntSt < 63 → depositsOut s c.t.core < 64 → found .herdW → 65536 ≤ pat.toNat →
      herd (.hdepc g f) .herdW 7) ∧
    (∀ (w : Nat × Instr × Acc), w ∈ [(2, Instr.hdec g f, Acc.herdRW), (3, .hcpy g f, .herdR), (4, .htak g f, .herdRW),
        (5, .hcpyt g f, .herdR), (6, .htakt g f, .herdRW)] → Acts 0x28 w.1 g f s c → c.th.cntLd < 63 →
      refused w.2.1 w.2.2 ∧ (found w.2.2 → patternBad pat = true → herd w.2.1 w.2.2 2) ∧
      (found w.2.2 → patternBad pat = false → w.1 = 3 ∨ w.1 = 4 →
        ((declOf c.t.rdw).park = 0 → herd w.2.1 w.2.2 6) ∧
        (0 < (declOf c.t.rdw).park → (declOf c.t.rdw).park ≤ parkedHeld c.t → exec w.2.1 s = .next s)))

/-- 10 R213, R218, R219, R225: a request that arrives is performed whole, at the next place of the arrival order. A
tuple made visible is offered to the parked requests in their order: each copy that accepts it completes with it, and
so does the first such take, which ends the offer and the tuple. 07 R161, 01 R23: a copy or take whose tuple holds an
uncorrectable error raises ECC at its word, and so does a request that a restore has sent anew; a tuple that an HDEC
makes visible to a parked request that accepts it, with an error in it, is discarded with a record of KIND 3 (log 87).
10 R218, R226: the oldest waiting deposit of a home is admitted into free room as a new arrival, its tuple stored and
offered; HDEL is performed once what its thread sent before has arrived and no admission is due: the region is gone
with its tuples, its parked and waiting requests are done with DELETED, and the waiting threads go on. 10 R221, R223,
15 R321, R322: what a completion gives the thread that made the request, and the fault unit. Model's choices: logs 46,
80, 87, 90. -/
def Obligations.HerdArrivals : Prop :=
  (∀ (s : State) (q : HReq) (r : Region), Awake s →
    let h : Herd := { s.herd with
      flying := s.herd.flying.filter fun p => p.uid != q.uid
      arrivals := s.herd.arrivals + 1 }
    let done (g : Herd) (x : HReq) (code : Nat) (fields : List Word) : Herd :=
      { g with done := g.done ++ [⟨x.uid, x.src, x.op, x.region, code, fields⟩] }
    let gives (i : Instr) (g : Herd) : Prop := exec i s = .next { s with herd := g }
    let full := r.size * 512 ≤ s.herd.count r.num
    (arrival s q.uid = some q → s.herd.region? q.region = some r → r.num = q.region →
      (∀ n once, q.op = .dep n once →
        let stored := if r.ordered then q.fields.set 7 (storedClass (q.fields.getD 7 0)) else q.fields
        let tuple : HTuple := ⟨r.num, stored, n, h.arrivals, h.arrivals⟩
        let held := done { h with tuples := h.tuples ++ [tuple] } q 0 []
        (full → once = true → gives (.herdDepositArrival q.uid) (done h q 2 [])) ∧
        (full → once = false → gives (.herdDepositArrival q.uid) { h with waiting := h.waiting ++ [q] }) ∧
        (¬ full → gives (.herdDepositArrival q.uid) (if n = 0 then held.offer tuple else held))) ∧
      (∀ once, q.op = .cpy once ∨ q.op = .tak once → s.herd.flawMet q = none →
        (h.select r.ordered q = none → gives (.herdMatchArrival q.uid)
          (if once then done h q 1 [] else { h with parked := h.parked ++ [q] })) ∧
        ∀ w, h.select r.ordered q = some w →
          (q.op = .cpy once → gives (.herdMatchArrival q.uid) (done h q 0 w.fields)) ∧
          (q.op = .tak once → gives (.herdMatchArrival q.uid)
            (done ((if r.ordered then h.age q w else h).without w) q 0 w.fields))) ∧
      (q.op = .dec →
        (h.oldestPending q = none → gives (.herdHdecArrival q.uid) (done h q 5 [])) ∧
        ∀ p, h.oldestPending q = some p →
          let new : HTuple := { p with pending := p.pending - 1, arr := h.arrivals }
          let g := done { h with tuples := h.tuples.map fun t => if t.dep = p.dep then new else t } q 0 []
          let spoilt := p.pending = 1 ∧ (∃ x ∈ h.parked, x.accepts p.region p.fields = true) ∧ ∃ x ∈ h.flaws, x.1 = p.dep
          (¬ spoilt → gives (.herdHdecArrival q.uid) (if p.pending = 1 then g.offer new else g)) ∧
          (spoilt → p ∈ h.tuples → (∀ x ∈ h.tuples, x.dep = p.dep → x = p) → exec (.herdHdecArrival q.uid) s = .next
            ({ s with herd := { done h q 0 [] with tuples := h.tuples.filter fun x => x.dep != p.dep } }.postRecord 0 3 0
              (BitVec.ofNat 64 p.region) 0)))) ∧
    (∀ target, arrival s q.uid = some q → q.op = .can target →
      (∀ p ∈ s.herd.flying, p.uid ≠ target) →
      (h.parked.find? (fun p => p.uid == target) = none → gives (.herdHcanArrival q.uid) (done h q 6 [])) ∧
      ∀ p, h.parked.find? (fun p => p.uid == target) = some p → gives (.herdHcanArrival q.uid)
        (done (done { h with parked := h.parked.filter fun x => x.uid != target } p 3 []) q 0 []))) ∧
  (∀ (h : Herd) (t : HTuple),
    let accepts (q : HReq) : Bool := q.accepts t.region t.fields
    let copies (q : HReq) : Prop := ∃ once, q.op = .cpy once
    let finished (q : HReq) : HDone := ⟨q.uid, q.src, q.op, q.region, 0, t.fields⟩
    ((∀ q ∈ h.parked, accepts q → copies q) → h.offer t = { h with
      parked := h.parked.filter fun q => !accepts q
      done := h.done ++ (h.parked.filter accepts).map finished }) ∧
    ∀ before q after, h.parked = before ++ q :: after → (∀ p ∈ before, accepts p → copies p) → accepts q → ¬ copies q →
      t.dep ≠ 0 → h.offer t = { h with
        parked := before.filter (fun p => !accepts p) ++ after
        done := h.done ++ ((before.filter accepts).map finished ++ [finished q])
        tuples := h.tuples.filter fun x => x.dep != t.dep }) ∧
  (∀ (s : State) (q : HReq) (w : HTuple) (r : Region) (found once : Bool) (n : TRef) (c : Cx) (p : HPend), Awake s →
    arrival s q.uid = some q → q.op = .cpy once ∨ q.op = .tak once → s.herd.region? q.region = some r →
    s.herd.select r.ordered q = some w → s.herd.flaws.find? (fun x => x.1 == w.dep) = some (w.dep, found) → w.dep ≠ 0 →
    q.src = .thread n → s.viewOf n = some c → c.th.run = .running → c.th.herd = [p] → p.uid = q.uid → p.pc ≠ 0 →
    c.th.pend = [] →
    ∃ t th fid, exec (.herdMatchArrival q.uid) s = .next t ∧ t.thread n = some th ∧ th.run = .faulted fid ∧
      th.pc = p.pc ∧ th.herd = [] ∧ th.trapCause = BitVec.ofNat 64 (0x0E + 2 ^ 8 * if found then 5 else 3) ∧
      th.trapPc = p.pc ∧ th.trapVa = q.handle ∧ (2 ≤ p.fn → th.cntLd = c.th.cntLd - 1) ∧ t.mem = s.mem ∧
      t.herd.tuples = s.herd.tuples) ∧
  (∀ (s : State) (q : HReq) (w : HTuple) (r : Region) (found once : Bool) (n : TRef) (c : Cx) (p : HPend), Awake s →
    arrival s q.uid = some q → q.op = .cpy once ∨ q.op = .tak once → s.herd.region? q.region = some r →
    s.herd.select r.ordered q = some w → s.herd.flaws.find? (fun x => x.1 == w.dep) = some (w.dep, found) → w.dep ≠ 0 →
    q.src = .thread n → s.viewOf n = some c → c.th.run = .running → c.th.herd = [p] → p.uid = q.uid → p.pc = 0 →
    ∃ t th fid x, exec (.herdMatchArrival q.uid) s = .next t ∧ t.thread n = some th ∧ th.run = .faulted fid ∧
      th.pc = c.th.pc ∧ th.wait = c.th.wait ∧ th.herd = [] ∧ th.cntLd = c.th.cntLd ∧ th.trapPc = c.th.pc ∧
      th.trapVa = q.handle ∧ th.trapCause = BitVec.ofNat 64 (0x0E + 2 ^ 8 * if found then 5 else 3) ∧
      x ∈ th.reissue ∧ x.failed = true ∧ x.kind = 6 ∧ x.words.drop 1 = q.handle :: q.pat.setWidth 64 :: q.fields ∧
      t.mem = s.mem ∧ t.herd.tuples = s.herd.tuples) ∧
  (∀ (s : State), Awake s →
    (∀ (q : HReq) (r : Region) (n : Nat) (once : Bool), s.herd.region? q.region = some r →
      s.herd.waiting.find? (fun p => p.region == q.region && p.fields.getD 0 0 == q.fields.getD 0 0) = some q →
      q.op = .dep n once → s.herd.count q.region < r.size * 512 → r.num = q.region →
      let stored := if r.ordered then q.fields.set 7 (storedClass (q.fields.getD 7 0)) else q.fields
      let tuple : HTuple := ⟨q.region, stored, n, s.herd.arrivals + 1, s.herd.arrivals + 1⟩
      let held : Herd := { s.herd with
        arrivals := s.herd.arrivals + 1
        waiting := s.herd.waiting.filter fun p => p.uid != q.uid
        tuples := s.herd.tuples ++ [tuple]
        done := s.herd.done ++ [⟨q.uid, q.src, q.op, q.region, 0, []⟩] }
      exec (.depositAdmit q.region (q.fields.getD 0 0)) s =
        .next { s with herd := if n = 0 then held.offer tuple else held }) ∧
    ∀ (region : Nat) (r : TRef) (c : Cx), s.viewOf r = some c → c.th.wait = .hdel region →
      (∀ q ∈ s.herd.flying, q.region ≠ region) → s.herd.admissionDue region = false →
      ∃ t, exec (.herdHdelPerform region) s = .next t ∧ t.mem = s.mem ∧
        t.herd.region? region = none ∧ (∀ x ∈ t.herd.tuples, x.region ≠ region) ∧
        (∀ x ∈ s.herd.tuples, x.region ≠ region → x ∈ t.herd.tuples) ∧
        (∀ q ∈ s.herd.parked ++ s.herd.waiting, q.region = region → q ∉ t.herd.parked ++ t.herd.waiting ∧
          (⟨q.uid, q.src, q.op, q.region, 4, []⟩ : HDone) ∈ t.herd.done) ∧
        (t.thread r).map Thread.wait = some .none ∧
        (t.thread r).map Thread.pc = some ((nextWord c.th.pc false).getD 0)) ∧
  ∀ (s : State) (d : HDone), Awake s → s.herd.done.find? (fun x => x.uid == d.uid) = some d →
    let rest := s.herd.done.filter fun x => x.uid != d.uid
    (∀ (r : TRef) (c : Cx) (p : HPend), d.src = .thread r → s.viewOf r = some c →
      c.th.herd.find? (fun p => p.uid == d.uid) = some p → (∀ q slot v, c.th.wait ≠ .qpop q slot v) →
      ∃ t th, exec (.herdRequestComplete d.uid) s = .next t ∧ t.herd = { s.herd with done := rest } ∧ t.mem = s.mem ∧
        t.thread r = some th ∧ th.herd = c.th.herd.filter (fun q => q.uid != d.uid) ∧ th.pc = c.th.pc ∧
        (p.ps < 7 → th.pred p.ps = decide (d.code = 0)) ∧
        (d.code ≠ 0 → th.v = c.th.v) ∧
        (d.code = 0 → ∀ i, i < p.nregs → p.d + i < c.th.v.length → th.v.getD (p.d + i) 0 =
          (if i % 2 = 0 then d.fields.getD (i / 2) 0 else d.fields.getD (i / 2) 0 >>> 32).setWidth 32) ∧
        (p.fn ≤ 1 → th.cntSt = c.th.cntSt - 1 ∧ th.cntLd = c.th.cntLd) ∧
        (2 ≤ p.fn → th.cntLd = c.th.cntLd - 1 ∧ th.cntSt = c.th.cntSt) ∧
        ∃ tm, t.teams[r.team]? = some tm ∧ tm.x = c.t.x ∧ tm.xpend = c.t.xpend.map fun (y : XWrite) =>
          if y.of = some d.uid then { y with val := BitVec.ofNat 64 d.code, of := none } else y) ∧
    (∀ fid, d.src = .fu fid → d.code = 0 → exec (.herdRequestComplete d.uid) s = .next { s with
      herd := { s.herd with done := rest }
      fu := { s.fu with
        resumes := s.fu.resumes ++ [⟨fid, d.fields.getD 2 0, d.fields.getD 3 0⟩]
        records := s.fu.records.map fun x => if x.fid = fid then { x with page := none } else x } })

/-! ### Across threads (06) -/

/-- 06 R122-R125: an arrival at a cross-thread instance, of a guard true or false, where no other instance of the team
is settled. A member waits while another is missing; the last one completes the instance; a key that differs fails it,
and each member raises COLLECTIVE, one that awaits results of earlier instructions (01 R23) when it comes to its word
again; a member that comes to a failed instance raises it too. COLLECTIVE stands before an error of the registers that
the word reads (15 R317). -/
def Obligations.CrossArrival : Prop :=
  ∀ (g : Guard) (f : Fields) (s : State) (c : Cx) (w : Nat × Instr),
    w ∈ [(0, Instr.shfl g f), (1, .vote g f), (2, .gred g f), (3, .gscan g f), (4, .elect g f)] →
    AtGuard 0x30 w.1 0 false false g f s c →
    let group := c.r.tid / 32
    let here (j : Instance) : Bool := j.group == group && j.count == c.th.xseq
    let inst : Instance := (c.t.instances.find? here).getD { group := group, count := c.th.xseq }
    let mine : Arrival := { tid := c.r.tid, active := c.guard g, op := 0x30, fn := w.1, fields := f, val := c.v f.a.toNat,
                            lane := c.v f.b.toNat, bit := xor (c.p (f.a.toNat % 8)) (f.a.getLsbD 3),
                            tag := c.tag f.a.toNat }
    let arrived := insertArrival mine inst.arrivals
    let tids := arrived.map Arrival.tid
    let control (x : Fields) : List (BitVec 10) := if w.1 = 1 then [x.a, x.c] else if w.1 = 4 then [x.d] else [x.c]
    let agrees (a : Arrival) : Prop :=
      a.op = 0x30 ∧ a.fn = w.1 ∧ a.fields.mod = f.mod ∧ control a.fields = control f
    let member (n : Nat) : TRef := ⟨c.r.team, n⟩
    let missing := ∃ n ∈ c.t.groupAlive group, n ∉ tids
    let act := arrived.filter Arrival.active
    let sound := c.guard g = true → c.flawTrap (sourceVecs 0x30 w.1 f) (sourceXs 0x30 w.1 f) 0 = none
    let raises (th : Thread) (sub fid : Nat) : Thread :=
      { th with trapCause := BitVec.ofNat 64 (9 + 256 * sub), trapPc := th.pc, trapVa := 0, run := .faulted fid,
                wait := .none, since := none }
    let unsettled (j : Instance) : Prop :=
      ∃ n ∈ c.t.groupAlive j.group, n ∉ (if j.failed.isSome then j.raised else j.arrivals.map Arrival.tid)
    (∀ j ∈ c.t.instances, here j = false → unsettled j) →
    (∀ sub, inst.failed = some sub → c.th.quiet = true →
      ∃ t fid, exec w.2 s = .next t ∧ t.mem = s.mem ∧ t.thread c.r = some (raises c.th sub fid) ∧
        ∀ r, r ≠ c.r → t.thread r = s.thread r) ∧
    (inst.failed = none → tids.Nodup →
      (sound → (∀ a ∈ inst.arrivals, agrees a) → missing →
        ∃ t u, exec w.2 s = .next t ∧ Became s t c.r { c.th with wait := .cross } ∧ t.teams[c.r.team]? = some u ∧
          { inst with arrivals := arrived } ∈ u.instances) ∧
      (sound → (∀ a ∈ inst.arrivals, agrees a) → ¬ missing →
        ∃ t u, exec w.2 s = .next t ∧ t.mem = s.mem ∧ t.teams[c.r.team]? = some u ∧
          u.fpst = c.t.fpst ||| crossFlags act ∧ u.x = c.t.x ∧ u.xpend = c.t.xpend ∧
          (∀ a ∈ arrived, ∀ th, s.thread (member a.tid) = some th → t.thread (member a.tid) = some
            { (if a.active then crossWrite act a th else th) with
              pc := (nextWord th.pc false).getD 0
              wait := .none
              since := none
              xseq := th.xseq + 1 }) ∧
          ∀ r, (∀ n ∈ tids, r ≠ member n) → t.thread r = s.thread r) ∧
      ((∃ a ∈ inst.arrivals, ¬ agrees a) →
        let sub := if ∃ a ∈ inst.arrivals, ¬ (a.op = 0x30 ∧ a.fn = w.1) then 1 else 2
        ∃ t, exec w.2 s = .next t ∧ t.mem = s.mem ∧
          (∀ n ∈ tids, ∀ th, s.thread (member n) = some th →
            (th.quiet = true → ∃ fid, t.thread (member n) = some (raises th sub fid)) ∧
            (th.quiet = false → t.thread (member n) = some { th with wait := .none })) ∧
          ∀ r, (∀ n ∈ tids, r ≠ member n) → t.thread r = s.thread r))

/-- 06 R128-R131: what the active member `a` of a complete instance with the active members `act` writes, and the flags
the instance raises. -/
def Obligations.CrossValues : Prop :=
  ∀ (act : List Arrival) (a : Arrival) (th : Thread), a ∈ act → (act.map Arrival.tid).Pairwise (· < ·) →
    (∀ b ∈ act, b.tid / 32 = a.tid / 32 ∧ b.fn = a.fn ∧ b.fields.c = a.fields.c ∧ b.fields.mod = a.fields.mod) →
    let d := a.fields.d.toNat
    let cc := a.fields.c.toNat
    let writes (w : W32) : Prop := ∃ tg : Tag, tg.pval = false ∧ tg.pcnt = 0 ∧ tg.sig = 0 ∧
      crossWrite act a th = { th with
        v := th.v.set d w
        tags := th.tags.set d tg
        flaws := th.flaws.filter fun x => x.1 != d }
    let answers (p : Prop) : Prop := ∃ b : Bool, crossWrite act a th = th.setP d b ∧ (b = true ↔ p)
    let nat := a.fields.isN
    let none (w : W32) : W32 × FpFlags := (w, 0)
    let step (acc x : W32) : W32 × FpFlags :=
      match cc % 16 with
      | 0 => none (acc + x)
      | 1 => none (if (if nat then acc.ule x else acc.sle x) then acc else x)
      | 2 => none (if (if nat then acc.ule x else acc.sle x) then x else acc)
      | 3 => none (acc &&& x)
      | 4 => none (acc ||| x)
      | 5 => none (acc ^^^ x)
      | 6 => fpAdd .f32 .rn false acc x
      | 7 => fpMinMax .f32 false acc x
      | _ => fpMinMax .f32 true acc x
    let identity : W32 :=
      match cc % 16 with
      | 1 => if nat then 0xFFFFFFFF else 0x7FFFFFFF
      | 2 => if nat then 0 else 0x80000000
      | 3 => 0xFFFFFFFF
      | 6 => 0x80000000
      | 7 => 0x7F800000
      | 8 => 0xFF800000
      | _ => 0
    let fold (l : List Arrival) : W32 × FpFlags :=
      l.foldl (fun (x : W32 × FpFlags) (b : Arrival) => ((step x.1 b.val).1, x.2 ||| (step x.1 b.val).2)) (identity, 0)
    (a.fn = 0 →
      let lane := a.tid % 32
      let size := 2 ^ (cc / 4 % 8)
      let base := lane - lane % size
      let n := a.lane.toNat
      let src := if cc % 4 = 0 then base + n else if cc % 4 = 1 then lane - n else if cc % 4 = 2 then lane + n else lane ^^^ n
      let valid := if cc % 4 = 1 then n ≤ lane - base else if cc % 4 = 2 then lane + n < base + size else n < size
      (∀ b ∈ act, valid → b.tid % 32 = src → writes b.val) ∧ ((∀ b ∈ act, valid → b.tid % 32 ≠ src) → writes a.val)) ∧
    (a.fn = 1 →
      (cc % 4 = 0 → answers (∀ b ∈ act, b.bit = true)) ∧ (cc % 4 = 1 → answers (∃ b ∈ act, b.bit = true)) ∧
      (cc % 4 = 2 → answers (∀ b ∈ act, b.bit = a.bit)) ∧
      (cc % 4 = 3 → ∃ w : W32, writes w ∧
        ∀ l, l < 32 → (w.getLsbD l = true ↔ ∃ b ∈ act, b.tid % 32 = l ∧ b.bit = true))) ∧
    (a.fn = 2 → writes (fold act).1) ∧
    (a.fn = 3 → ∀ before after, act = before ++ a :: after →
      writes (if cc / 16 % 2 = 1 then (fold before).1 else (fold (before ++ [a])).1)) ∧
    (a.fn = 4 → answers (∀ b ∈ act, a.tid ≤ b.tid)) ∧
    (a.fn = 2 ∨ a.fn = 3 → crossFlags act = (fold act).2)

/-- 06 R132-R135: BAR and BARA that arrive, with the completion of the phase by the last member and what becomes of
the waiters, a second arrival of a thread in one phase, which waits for its end, and BARW that returns or waits. An
arrival of cluster or launch scope follows the entries of its core's queue that precede its word (log 105). 06 R134: a
barrier of a scope that the launch has not: COLLECTIVE 0x03 and 0x04. -/
def Obligations.HardwareBarriers : Prop :=
  (∀ (g : Guard) (f : Fields) (s : State) (c : Cx),
    let imm := (f.b ++ f.c).toNat
    let scope := imm % 4
    let num := imm / 4 % 4
    let team := c.r.team
    let b := s.hwBar team scope num
    let teams := s.barTeams team scope
    let last := teams.length = s.barExpected team scope ∧ ∀ m ∈ s.barAlive teams, m ∈ b.arrived ++ [c.r]
    let bar (t : State) : HwBar := t.hwBar team scope num
    let enters := c.r ∉ b.arrived ∧ (∀ w ∈ c.t.xpend, w.tid = c.r.tid → w.of = none) ∧ 
      (scope ≠ 0 → ∀ e ∈ s.queue, e.core = c.t.core → c.th.since.getD s.uid ≤ e.uid) ∧ c.th.linkFail = none
    let arrives (i : Instr) (after waiting : Thread) : Prop :=
      (¬ last → ∃ t, exec i s = .next t ∧ Became s t c.r waiting ∧ bar t = { b with arrived := b.arrived ++ [c.r] }) ∧
      (last → ∃ t, exec i s = .next t ∧ t.mem = s.mem ∧ bar t = { arrived := [], phase := !b.phase } ∧
        t.thread c.r = some after ∧
        ∀ r th, r ≠ c.r → s.thread r = some th → t.thread r = some
          (if r.team ∈ teams ∧ th.wait = .bar scope num b.phase then
            { th with pc := (nextWord th.pc false).getD 0, wait := .none, since := none } else th))
    let noted : Thread := c.gone.setP f.d.toNat b.phase
    c.t.hbars.length = 4 → (s.launch? c.t.seq).isSome → (scope = 1 → c.t.rdw.getLsbD 61) →
    (scope = 2 → c.t.rdw.getLsbD 62) →
      (Acts 0x30 5 g f s c → enters → arrives (.bar g f) c.gone { c.th with wait := .bar scope num b.phase }) ∧
      (Acts 0x30 6 g f s c → enters → arrives (.bara g f) noted noted) ∧
      (c.r ∈ b.arrived → (Acts 0x30 5 g f s c → exec (.bar g f) s = .next s) ∧
        (Acts 0x30 6 g f s c → exec (.bara g f) s = .next s)) ∧
      (Acts 0x30 7 g f s c →
        (b.phase ≠ c.p f.d.toNat → exec (.barw g f) s = c.completes (if scope = 0 then s else s.dropL1 c.t.core)) ∧
        (b.phase = c.p f.d.toNat →
          exec (.barw g f) s = .next (s.modThread c.r fun th => { th with wait := .bar scope num b.phase })))) ∧
  ∀ (g : Guard) (f : Fields) (s : State) (c : Cx) (w : Nat × Instr),
    w ∈ [(5, Instr.bar g f), (6, .bara g f), (7, .barw g f)] → Acts 0x30 w.1 g f s c →
    let scope := (f.b ++ f.c).toNat % 4
    (scope = 1 → c.t.rdw.getLsbD 61 = false → exec w.2 s = .next (s.trapIn s c { cause := 9, sub := 3 })) ∧
    (scope = 2 → c.t.rdw.getLsbD 62 = false → exec w.2 s = .next (s.trapIn s c { cause := 9, sub := 4 }))

/-! ### Barrier registers, copies and streams (11) -/

/-- 11 R238, R242, R243, R248: what an event on a barrier register leaves in it, and what becomes of a running thread
that waits there. Model's choice: log 112 (the descriptor that a waiting QPOP uses). -/
def Obligations.BarrierEvents : Prop :=
  ∀ (s : State) (team b : Nat) (tm : Team) (e : BarReg → BarReg), s.teams[team]? = some tm → b < tm.bars.length →
    let k := e (tm.bar b)
    let new : BarReg :=
      if k.valid = true ∧ k.ra = 0 ∧ k.rb = 0 then { k with phase := !k.phase, ra := k.ea, rb := k.eb } else k
    let t := s.barEvent team b e
    t.mem = s.mem ∧ (∃ u, t.teams[team]? = some u ∧ u.bars = tm.bars.set b new) ∧
    (∀ r, r.team ≠ team → t.thread r = s.thread r) ∧
    ∀ tid th, s.thread ⟨team, tid⟩ = some th →
      let now (x : Thread) : Prop := t.thread ⟨team, tid⟩ = some x
      let on (x : Thread) : Thread := { x with pc := (nextWord th.pc false).getD 0, wait := .none, since := none }
      (th.run ≠ .running ∨ (∀ n pr ph, th.wait ≠ .brwait n pr ph) ∧ (∀ q slot d, th.wait ≠ .qpop q slot d) → now th) ∧
      (th.run = .running → ∀ n pr ph, th.wait = .brwait n pr ph →
        now (if n ≠ b then th
          else if new.valid = false then on (th.setP pr false)
          else if new.phase ≠ ph then on (th.setP pr true)
          else th)) ∧
      (th.run = .running → ∀ q slot d, th.wait = .qpop q slot d →
        let st := tm.strm q
        let off := BitVec.ofNat 64 (st.offset slot)
        (st.barOf slot ≠ b ∨ new.valid = true ∧ new.phase = false → now th) ∧
        (st.barOf slot = b → new.valid = true → new.phase = true →
          now (on ((th.setV d (off.setWidth 32)).setV (d + 1) ((off >>> 32).setWidth 32)))) ∧
        (st.barOf slot = b → new.valid = false →
          (th.quiet = true → ∃ fid, now
            { th with trapCause := 0x060A, trapPc := th.pc, trapVa := 0, run := .faulted fid, wait := .none,
                      since := none }) ∧
          (th.quiet = false → now th)))

/-- 11 R239-R244: the instructions on barrier registers, with the sub-causes of BARBUSY. Model's choices: log 45. -/
def Obligations.BarrierRegisterWords : Prop :=
  ∀ (g : Guard) (f : Fields) (s : State) (c : Cx),
    let b := f.d.toNat
    let k := c.t.bar b
    let w := (c.x f.a.toNat).toNat
    let ea : Nat := w % 2048
    let eb : Nat := w / 2 ^ 32
    let on (t : State) (e : BarReg → BarReg) : Out State := c.completes (t.barEvent c.r.team b e)
    let busy (sub : Nat) : Out State := .next (s.trapIn s c { cause := 0x0A, sub := sub })
    let phase := c.p (f.a.toNat % 8)
    let pr := f.a.toNat / 8 % 8
    (Acts 0x31 0 g f s c → exec (.brinit g f) s =
      if w / 2048 % 2 ^ 21 ≠ 0 ∨ 1024 < ea ∨ ea = 0 ∧ eb = 0 then busy 2
      else if barBusy s c.r.team b then busy 1
      else on s fun _ => { valid := true, phase := false, ea := ea, ra := ea, rb := eb, eb := eb }) ∧
    (Acts 0x31 1 g f s c → exec (.brdue g f) s =
      if 2 ^ 32 ≤ w then busy 2
      else if k.valid = false ∨ w = 0 then c.completes s
      else if 2 ^ 39 - 1 < k.rb + w then busy 3
      else on s fun k => { k with rb := k.rb + w }) ∧
    (Acts 0x31 2 g f s c → c.th.linkFail = none → exec (.brarv g f) s =
      if k.valid = true ∧ k.ra = 0 then busy 4
      else on ((s.releaseTeam c).setP c.r (f.a.toNat % 8) k.phase) fun k => if k.valid then { k with ra := k.ra - 1 } else k) ∧
    (Acts 0x31 3 g f s c → exec (.brwait g f) s =
      if k.valid = false then c.completes (s.setP c.r pr false)
      else if k.phase ≠ phase then c.completes ((s.setP c.r pr true).dropL1 c.t.core)
      else .next (s.modThread c.r fun th => { th with wait := .brwait b pr phase })) ∧
    (Acts 0x31 4 g f s c → exec (.brtry g f) s =
      if k.valid = true ∧ k.phase ≠ phase then c.completes ((s.setP c.r pr true).dropL1 c.t.core)
      else c.completes (s.setP c.r pr false)) ∧
    (Acts 0x31 5 g f s c → c.th.linkFail = none → exec (.brinv g f) s =
      if k.valid = false then c.completes s else on (s.releaseTeam c) fun k => { k with valid := false })

/-- 11 R232, R235, R236: CPY and CPYP that pass their checks queue one command, with a plane for each barrier register;
where they trap: CPY's alignment, its team-relative ranges, then the translation of its ranges; CPYP's checks in their
order, then its ranges. 07 R149: a team-relative range lies within one partition. -/
def Obligations.CopyWords : Prop :=
  (∀ (g : Guard) (f : Fields) (s : State) (c : Cx),
    let b := f.d.toNat
    let queues (i : Instr) (planes : List CopyPlane) : Prop :=
      ∃ t x, exec i s = .next t ∧ Became s t c.r c.issuedAs ∧ t.copies = s.copies ++ [x] ∧ x.uid = s.uid ∧
        x.who = c.r ∧ x.started = false ∧ x.planes = planes
    let traps (i : Instr) (tr : Trap) : Prop := exec i s = .next (s.trapIn s c tr)
    c.th.cntAs < 63 →
      (Acts 0x38 0 g f s c →
        let dst := c.x f.a.toNat
        let src := c.x f.b.toNat
        let n := (c.x f.c.toNat).toNat
        let bad := n = 0 ∨ 65536 < n ∨ n % 16 ≠ 0
        let range (acc : Acc) (rel : Bool) (a : Word) : Chk (List Extent) :=
          if rel then partitionRun c a n else translateRange s c acc a n
        (bad → traps (.cpy g f) { cause := 4, sub := 0, va := 0, ak := 4 }) ∧
        (¬ bad → dst.toNat % 16 ≠ 0 → traps (.cpy g f) { cause := 4, sub := 0, va := dst, ak := 4 }) ∧
        (¬ bad → dst.toNat % 16 = 0 → src.toNat % 16 ≠ 0 →
          traps (.cpy g f) { cause := 4, sub := 0, va := src, ak := 4 }) ∧
        (¬ bad → dst.toNat % 16 = 0 → src.toNat % 16 = 0 →
          (∀ tr, f.isX = true → partitionRun c dst n = .error (.trap tr) → traps (.cpy g f) tr) ∧
          (∀ tr e, (f.isX = true → partitionRun c dst n = .ok e) → f.isN = true →
            partitionRun c src n = .error (.trap tr) → traps (.cpy g f) tr) ∧
          (∀ tr e, f.isX = false → (f.isN = true → partitionRun c src n = .ok e) →
            translateRange s c .cpyDst dst n = .error (.trap tr) → traps (.cpy g f) tr) ∧
          (∀ tr ds, range .cpyDst f.isX dst = .ok ds → f.isN = false →
            translateRange s c .cpySrc src n = .error (.trap tr) → traps (.cpy g f) tr)) ∧
        ∀ ds ss, ¬ bad → dst.toNat % 16 = 0 → src.toNat % 16 = 0 → range .cpyDst f.isX dst = .ok ds →
          range .cpySrc f.isN src = .ok ss →
          queues (.cpy g f) [{ bar := if f.opt then none else some b, src := ss, dst := ds, len := n }]) ∧
      (Acts 0x38 1 g f s c →
        let w := (c.x f.c.toNat).toNat
        let b0 := w % 2 ^ 16
        let nb := w / 2 ^ 16 % 2 ^ 13
        let j0 := w / 2 ^ 29 % 32
        let npm := w / 2 ^ 34 % 8
        let dstr := w / 2 ^ 52
        let dst := c.x f.b.toNat
        let len := nb * 2
        let base := c.x f.a.toNat
        let desc := (c.x (f.a.toNat + 1)).toNat
        let stride := desc % 4096
        let npl := desc / 2 ^ 12 % 32
        let broken := base.toNat % 128 ≠ 0 ∨ stride = 0 ∨ 16 < npl ∨ desc / 2 ^ 17 ≠ 0
        let odd := w / 2 ^ 37 % 2 ^ 15 ≠ 0 ∨ nb < 8 ∨ 4096 < nb ∨ nb % 8 ≠ 0 ∨ b0 % 8 ≠ 0 ∨ dstr * 16 < len
        let target (k : Nat) := copyRange s c .cpypDst f.isX (dst + BitVec.ofNat 64 (k * dstr * 16)) len
        let source (k : Nat) := planePieces s c stride (pagePieces (len / 4096 + 2)
          (base + BitVec.ofNat 64 ((j0 + k) * stride * 128 + 2 * b0)).toNat len)
        (broken → traps (.cpyp g f) { cause := 8, sub := 1 }) ∧
        (¬ broken → npl + 1 < j0 + npm → traps (.cpyp g f) { cause := 8, sub := 3 }) ∧
        (¬ broken → j0 + npm ≤ npl + 1 → stride * 64 < b0 + nb → traps (.cpyp g f) { cause := 8, sub := 6 }) ∧
        (¬ broken → j0 + npm ≤ npl + 1 → b0 + nb ≤ stride * 64 → odd → traps (.cpyp g f) { cause := 8, sub := 8 }) ∧
        (¬ broken → j0 + npm ≤ npl + 1 → b0 + nb ≤ stride * 64 → ¬ odd →
          ((declOf c.t.rdw).bars ≤ b + npm → traps (.cpyp g f) { cause := 3, sub := 0 }) ∧
          (b + npm < (declOf c.t.rdw).bars → dst.toNat % 16 ≠ 0 →
            traps (.cpyp g f) { cause := 4, sub := 0, va := dst, ak := 4 }) ∧
          (b + npm < (declOf c.t.rdw).bars → dst.toNat % 16 = 0 →
            (∀ n tr, n ≤ npm → (∀ k, k < n → ∃ e, target k = .ok e) → target n = .error (.trap tr) →
              traps (.cpyp g f) tr) ∧
            ∀ ds : Nat → List Extent, (∀ k ≤ npm, target k = .ok (ds k)) →
              (∀ n tr, n ≤ npm → (∀ k, k < n → ∃ e, source k = .ok e) → source n = .error (.trap tr) →
                traps (.cpyp g f) tr) ∧
              ∀ ss : Nat → List Extent, (∀ k ≤ npm, source k = .ok (ss k)) →
                queues (.cpyp g f) ((List.range (npm + 1)).map fun k =>
                  { bar := some (b + k), src := ss k, dst := ds k, len := len }))))) ∧
  (∀ (c : Cx) (o : Word) (len : Nat),
    let d := declOf c.t.rdw
    let a := o.toNat
    (partitionRun c o len = .error (.trap { cause := 6, sub := 5, va := o, ak := 4 }) ↔
      ¬ (a + len ≤ d.scr ∨ 0x20000 ≤ a ∧ a + len ≤ 0x20000 + d.ext)) ∧
    (a + len ≤ d.scr → partitionRun c o len = .ok [⟨scratchLoc c.t.core (c.t.scrBase + a), len⟩]) ∧
    (d.scr < a + len → 0x20000 ≤ a → a + len ≤ 0x20000 + d.ext →
      partitionRun c o len = .ok [⟨scratchLoc c.t.core (c.t.extBase + a), len⟩])) ∧
  ∀ (s : State) (c : Cx) (stride a n : Nat) (ps : List (Nat × Nat)) x, translate s c .cpypSrc (BitVec.ofNat 64 a) = .ok x →
    (x.tq ≠ stride → planePieces s c stride ((a, n) :: ps) =
      .error (.trap { cause := 8, sub := 2, va := BitVec.ofNat 64 a, ak := 4 })) ∧
    ∀ l, x.tq = stride → planePieces s c stride ps = .ok l → planePieces s c stride ((a, n) :: ps) = .ok (⟨x.loc, n⟩ :: l)

/-- 11 R246-R249: the stream instructions: a stream configured and ended, a slot filled, claimed and released. Model's
choices: logs 40, 41, 92, 110. -/
def Obligations.StreamWords : Prop :=
  ∀ (g : Guard) (f : Fields) (s : State) (c : Cx),
    let q := f.d.toNat
    let k := c.t.strm q
    let team := c.r.team
    let traps (i : Instr) (tr : Trap) : Prop := exec i s = .next (s.trapIn s c tr)
    let busy (i : Instr) (sub : Nat) : Prop := traps i { cause := 0x0A, sub := sub }
    let holds (t : State) (new : StreamReg) : Prop := ∃ u, t.teams[team]? = some u ∧ u.strm q = new
    let d := k.desc.toNat
    let slots := d / 2 ^ 48 % 8 + 1
    let size := d / 2 ^ 32 % 2 ^ 16 * 16
    let offset (slot : Nat) : Word := BitVec.ofNat 64 (d % 2 ^ 32 + slot * size)
    let barrier (slot : Nat) : Nat := d / 2 ^ 52 % 16 + slot
    q < c.t.strms.length →
      (Acts 0x38 2 g f s c →
        let w := c.x f.a.toNat
        let n := w.toNat
        let bytes := (n / 2 ^ 48 % 8 + 1) * (n / 2 ^ 32 % 2 ^ 16 * 16)
        let bad := 2 ^ 56 ≤ n ∨ n / 2 ^ 51 % 2 = 1 ∨ n / 2 ^ 32 % 2 ^ 16 = 0 ∨ 4096 < n / 2 ^ 32 % 2 ^ 16
        (w = 0 → exec (.qcfg g f) s = c.completes (s.setStrm team q { k with valid := false })) ∧
        (w ≠ 0 → bad → busy (.qcfg g f) 8) ∧
        let last := n / 2 ^ 52 % 16 + n / 2 ^ 48 % 8
        let base := BitVec.ofNat 64 (n % 2 ^ 32)
        (w ≠ 0 → ¬ bad → (declOf c.t.rdw).bars ≤ last → traps (.qcfg g f) { cause := 3, sub := 0 }) ∧
        (w ≠ 0 → ¬ bad → last < (declOf c.t.rdw).bars → n % 16 ≠ 0 → traps (.qcfg g f) { cause := 4, sub := 0, va := base }) ∧
        (∀ tr, w ≠ 0 → ¬ bad → last < (declOf c.t.rdw).bars → n % 16 = 0 → partitionRun c base bytes = .error tr →
          traps (.qcfg g f) { cause := 6, sub := 5, va := base }) ∧
        ∀ e, w ≠ 0 → ¬ bad → last < (declOf c.t.rdw).bars → n % 16 = 0 →
          partitionRun c base bytes = .ok e →
          (k.valid = true ∧ k.f ≠ k.r → busy (.qcfg g f) 5) ∧
          ((k.valid = true → k.f = k.r) →
            exec (.qcfg g f) s = c.completes (s.setStrm team q { valid := true, desc := w }))) ∧
      (Acts 0x38 3 g f s c → c.th.cntAs < 63 →
        let src := c.x f.a.toNat
        let n := (c.x f.b.toNat).toNat
        let slot := k.f % slots
        let bar := barrier slot
        (∀ e, k.valid = false → 16 ≤ n → n % 16 = 0 → src.toNat % 16 = 0 →
          translateRange s c .cpySrc src (min n 65536) = .ok e → busy (.qfill g f) 6) ∧
        (n < 16 ∨ n % 16 ≠ 0 ∨ k.valid = true ∧ size < n → traps (.qfill g f) { cause := 4, sub := 0, ak := 4 }) ∧
        (16 ≤ n → n % 16 = 0 → (k.valid = true → n ≤ size) → src.toNat % 16 ≠ 0 →
          traps (.qfill g f) { cause := 4, sub := 0, va := src, ak := 4 }) ∧
        (16 ≤ n → n % 16 = 0 → src.toNat % 16 = 0 → k.valid = true → n ≤ size → slots ≤ (k.f + 16 - k.r) % 16 →
          exec (.qfill g f) s = .next s) ∧
        ∀ ds ss, k.valid = true → 16 ≤ n → n ≤ size → n % 16 = 0 → src.toNat % 16 = 0 → (k.f + 16 - k.r) % 16 < slots →
          (offset slot).toNat % 16 = 0 → partitionRun c (offset slot) n = .ok ds →
          translateRange s c .cpySrc src n = .ok ss → bar < c.t.bars.length →
          (barBusy s team bar = true → busy (.qfill g f) 1) ∧
          (barBusy s team bar = false → ∃ t x u, exec (.qfill g f) s = .next t ∧ Became s t c.r c.issuedAs ∧
            t.copies = s.copies ++ [x] ∧ x.who = c.r ∧ x.started = false ∧
            x.planes = [{ bar := some bar, src := ss, dst := ds, len := n }] ∧ t.teams[team]? = some u ∧
            u.bar bar = { valid := true, phase := false, ea := 0, ra := 0, rb := n, eb := n } ∧
            u.strm q = { k with f := (k.f + 1) % 16 })) ∧
      (Acts 0x38 4 g f s c →
        let slot := k.p % slots
        let b := c.t.bar (barrier slot)
        let a := f.a.toNat
        let off := offset slot
        let claimed : StreamReg := { k with p := (k.p + 1) % 16, claims := k.claims ++ [(slot, c.r.tid)] }
        (k.valid = false → busy (.qpop g f) 6) ∧
        (k.valid = true → k.p ≠ k.f → b.valid = false →
          exec (.qpop g f) s = .next (s.trapIn (s.setStrm team q claimed) c { cause := 0x0A, sub := 6 })) ∧
        (k.valid = true → k.p = k.f → exec (.qpop g f) s = .next s) ∧
        (k.valid = true → k.p ≠ k.f → b.valid = true →
          (b.phase = true → ∃ t, exec (.qpop g f) s = .next t ∧
            Became s t c.r ((c.gone.setV a (off.setWidth 32)).setV (a + 1) ((off >>> 32).setWidth 32)) ∧
            holds t { k with p := (k.p + 1) % 16, claims := k.claims.filter fun x => x != (slot, c.r.tid) }) ∧
          (b.phase = false → ∃ t, exec (.qpop g f) s = .next t ∧
            Became s t c.r { c.th with wait := .qpop q slot a } ∧
            holds t claimed))) ∧
      (Acts 0x38 5 g f s c →
        (k.valid = false → busy (.qrel g f) 6) ∧
        (k.valid = true → k.r = k.p → busy (.qrel g f) 7) ∧
        (k.valid = true → k.r ≠ k.p → (∀ x ∈ k.claims, x.1 ≠ k.r % slots) → c.th.linkFail = none →
          exec (.qrel g f) s = c.completes ((s.releaseTeam c).setStrm team q { k with r := (k.r + 1) % 16 })))

/-- 11 R230, R233, R234, R238: the copy engine starts a command once the stores before it are performed, lands 16 to 128
bytes of sound data at a time, and completes a command whose bytes have all landed. Model's choices: logs 42, 43. -/
def Obligations.CopyEvents : Prop :=
  ∀ (s : State) (x : CopyCmd), Awake s → s.copy? x.uid = some x →
    let team := x.who.team
    (x.started = false → (∀ e ∈ s.queue, e.core = s.coreOf team → x.mark ≤ e.uid) →
      exec (.copyStart x.uid) s = .next (s.modCopy x.uid fun y => { y with started := true })) ∧
    (∀ plane p off len, x.started = true → x.planes[plane]? = some p → 16 ≤ len → len ≤ 128 → len % 16 = 0 →
      off % 16 = 0 → off + len ≤ p.len → (∀ i, off / 16 ≤ i → i < (off + len) / 16 → p.landed.testBit i = false) →
      let src := ((extentLocs p.src).drop off).take len
      let dst := ((extentLocs p.dst).drop off).take len
      sleeping s (src ++ dst) = false → dst.any isOutside = false → src.any isOutside = false → damaged s src = false →
      ∃ u y, exec (.granuleLanding x.uid plane off len) s =
          .next (match p.bar with
            | none => u
            | some b => u.land team b len) ∧
        u.mem = memSetAll s.mem (dst.zip (src.map fun l => if isTelemetry l then
          telemetryByte s x.priv (l - 2 ^ 63) else memGet s.mem l)) ∧
        u.teams = s.teams ∧ y ∈ u.copies ∧ y.uid = x.uid ∧
        y.planes = x.planes.set plane { p with landed := p.landed ||| (2 ^ (len / 16) - 1) * 2 ^ (off / 16) }) ∧
    ((∀ p ∈ x.planes, p.landed = 2 ^ (p.len / 16) - 1) → ∀ th, s.thread x.who = some th →
      ∃ t, exec (.copyComplete x.uid) s = .next t ∧ t.copies = s.copies.filter (fun y => y.uid != x.uid) ∧
        Became s t x.who { th with cntAs := th.cntAs - 1 })

/-! ### Tiles (12) -/

/-- 12 R251, R256, R258-R261: TSET with its faults in their order, TGET, and the loads, stores and zeroing of tiles,
which enter the tile order with the descriptor and the extents that they captured. -/
def Obligations.TileWords : Prop :=
  ∀ (g : Guard) (f : Fields) (s : State) (c : Cx),
    let n := f.d.toNat
    let desc (m : Nat) : Word := c.t.tdesc.getD m 0
    let rows (v : Word) : Nat := 16 * (v.toNat / 2 ^ 19 % 8 + 1)
    let cols (v : Word) : Nat := 16 * (v.toNat / 2 ^ 16 % 8 + 1)
    let bits (v : Word) : Nat := 4 * 2 ^ (v.toNat / 2 ^ 22 % 4)
    let pcap (v : Word) : Nat := v.toNat / 2 ^ 25 % 32
    let plane (v : Word) : Bool := v.getLsbD 24
    let start (v : Word) : Nat := v.toNat % 4096 * 128
    let bytes (v : Word) : Nat :=
      if plane v then rows v * (cols v / 16) * (pcap v + 2) * 2 else rows v * cols v * bits v / 8
    let tile (sub : Nat) : Out State := .next (s.trapIn s c { cause := 0x0C, sub := sub })
    let room := (s.tiles.filter fun x => x.cluster == coreCluster c.t.core).length < 64
    let enters (i : Instr) (th : Thread) (fn : Nat) (extents : List (List Extent)) (tag : Option Tag) : Prop :=
      ∃ t x u, exec i s = .next t ∧ Became s t c.r th ∧ t.tiles = s.tiles ++ [x] ∧ x.fn = fn ∧ x.d = n ∧
        x.descs = [desc n] ∧ x.extents = extents ∧ x.team = c.r.team ∧ x.tid = c.r.tid ∧
        x.cluster = coreCluster c.t.core ∧ x.passes = 0 ∧ x.done = false ∧ t.teams[c.r.team]? = some u ∧
        u.tdesc = c.t.tdesc ∧ u.ttag = (match tag with
          | none => c.t.ttag
          | some tg => c.t.ttag.set n tg)
    (Acts 0x40 0 g f s c →
      let v := c.x f.a.toNat
      let put : Out State := c.completes (s.modTeam c.r.team fun t =>
        { t with tdesc := t.tdesc.set n v, ttag := t.ttag.set n {} })
      let bad := v.getLsbD 63 = false ∨ v.toNat / 2 ^ 30 % 2 ^ 33 ≠ 0 ∨ v.toNat / 2 ^ 12 % 16 ≠ 0 ∨
        (plane v = true ∧ bits v ≠ 16) ∨ (plane v = false ∧ pcap v ≠ 0) ∨ 16 < pcap v ∨
        c.t.rdw.toNat / 2 ^ 46 % 128 * 8192 < start v + bytes v
      let overlaps := ∃ m, m < 64 ∧ m ≠ n ∧ (desc m).getLsbD 63 = true ∧ start (desc m) < start v + bytes v ∧
        start v < start (desc m) + bytes (desc m)
      (c.t.pendingTile n = true → exec (.tset g f) s = tile 4) ∧
      (c.t.pendingTile n = false → v = 0 → exec (.tset g f) s = put) ∧
      (c.t.pendingTile n = false → v ≠ 0 → bad → exec (.tset g f) s = tile 2) ∧
      (c.t.pendingTile n = false → v ≠ 0 → ¬ bad → overlaps → exec (.tset g f) s = tile 3) ∧
      (c.t.pendingTile n = false → v ≠ 0 → ¬ bad → ¬ overlaps → exec (.tset g f) s = put)) ∧
    (let absent := (desc n).getLsbD 63 = false
      let row (acc : Acc) (r : Nat) : Chk (List Extent) :=
        let rb := cols (desc n) * bits (desc n) / 8
        if f.isX then partitionRun c (c.x f.a.toNat + BitVec.ofNat 64 r * c.x f.b.toNat) rb
        else translateRange s c acc (c.x f.a.toNat + BitVec.ofNat 64 r * c.x f.b.toNat) rb
      let kind (pt : Bool) : List (Prop × Trap) :=
        [(absent, { cause := 0x0C, sub := 1 }), (plane (desc n) ≠ pt, { cause := 0x0C, sub := 5 })]
      let align (m : Nat) : Prop × Trap := ((c.x m).toNat % 8 ≠ 0, { cause := 4, sub := 0, va := c.x m, ak := 4 })
      let traps (i : Instr) (l : List (Prop × Trap)) : Prop := ∀ tr, FirstFault l tr → exec i s = .next (s.trapIn s c tr)
      let element (i : Instr) (m row col : Nat) : Prop :=
        let v := desc m
        traps i [(v.getLsbD 63 = false, { cause := 0x0C, sub := 1 }), (plane v = true, { cause := 0x0C, sub := 5 }),
          (rows v ≤ row ∨ cols v ≤ col, { cause := 0x0C, sub := 9 })]
      (Acts 0x40 2 g f s c → room → c.th.cntAs < 63 → traps (.tld g f) (kind false ++ [align f.a.toNat, align f.b.toNat]) ∧
        ∀ tr, (∀ q ∈ kind false ++ [align f.a.toNat, align f.b.toNat], ¬ q.1) → FirstStop (rows (desc n)) (row .tileLoad) tr →
          exec (.tld g f) s = .next (s.trapIn s c tr)) ∧
      (Acts 0x40 5 g f s c → room → c.th.cntAs < 63 →
        let checks := kind false ++ [align f.a.toNat, align f.b.toNat,
          ((c.x f.b.toNat).toNat < cols (desc n) * bits (desc n) / 8, { cause := 0x0C, sub := 7 })]
        traps (.tst g f) checks ∧
        ∀ tr, (∀ q ∈ checks, ¬ q.1) → FirstStop (rows (desc n)) (row .tileStore) tr →
          exec (.tst g f) s = .next (s.trapIn s c tr)) ∧
      (Acts 0x40 6 g f s c → room → c.th.cntMx < 63 → traps (.tzero g f) (kind false)) ∧
      (Acts 0x40 7 g f s c → element (.trdv g f) f.a.toNat (c.v f.b.toNat).toNat (c.v f.c.toNat).toNat) ∧
      (Acts 0x40 8 g f s c → element (.twrv g f) n (c.v f.b.toNat).toNat (c.v f.c.toNat).toNat) ∧
      (room → c.th.cntAs < 63 →
        let base := c.x f.a.toNat
        let set := (c.x (f.a.toNat + 1)).toNat
        let stride := set % 4096
        let npl := set / 2 ^ 12 % 32
        let xb := (c.x f.b.toNat).toNat
        let xc := (c.x f.c.toNat).toNat
        let np := xc % 32
        let block (r kb : Nat) : Nat := xb + r * (xc / 256) + kb
        let tg := c.t.ttag.getD n {}
        let checks : List (Prop × Trap) := (c.t.pendingTile n = true, { cause := 0x0C, sub := 4 }) :: kind true ++
          [(2 ^ 24 ≤ xb ∨ 2 ^ 32 ≤ xc ∨ xc / 32 % 8 ≠ 0, { cause := 0x0C, sub := 7 }),
            (base.toNat % 128 ≠ 0 ∨ stride = 0 ∨ 16 < npl ∨ set / 2 ^ 17 ≠ 0, { cause := 8, sub := 1 }),
            (npl < np, { cause := 8, sub := 3 }), (pcap (desc n) < np, { cause := 0x0C, sub := 8 }),
            (∃ r kb, r < rows (desc n) ∧ kb < cols (desc n) / 16 ∧ stride * 64 ≤ block r kb, { cause := 8, sub := 6 })]
        (Acts 0x40 3 g f s c → traps (.tldp g f) checks) ∧
        (Acts 0x40 4 g f s c → traps (.tref g f) (checks ++ [(tg.pval = false, { cause := 8, sub := 4 }),
          (tg.sig ≠ planeSig (base + BitVec.ofNat 64 (2 * xb)) 0, { cause := 8, sub := 5 })])))) ∧
    (Acts 0x40 1 g f s c →
      let tg := c.t.ttag.getD n {}
      exec (.tget g f) s = c.completes (s.setX c.r f.a.toNat
        (if f.opt then BitVec.ofNat 64 (tg.sig.toNat * 65536 + (if tg.pval then 32 else 0) + tg.pcnt.toNat) else desc n))) ∧
    ((desc n).getLsbD 63 = true → plane (desc n) = false → room →
      let rb := cols (desc n) * bits (desc n) / 8
      let xa := c.x f.a.toNat
      let xb := c.x f.b.toNat
      let row (acc : Acc) (r : Nat) : Chk (List Extent) :=
        if f.isX then partitionRun c (xa + BitVec.ofNat 64 r * xb) rb
        else translateRange s c acc (xa + BitVec.ofNat 64 r * xb) rb
      (∀ runs : Nat → List Extent, xa.toNat % 8 = 0 → xb.toNat % 8 = 0 → c.th.cntAs < 63 →
        (Acts 0x40 2 g f s c → (∀ r < rows (desc n), row .tileLoad r = .ok (runs r)) →
          enters (.tld g f) c.issuedAs 2 ((List.range (rows (desc n))).map runs) none) ∧
        (Acts 0x40 5 g f s c → rb ≤ xb.toNat → (∀ r < rows (desc n), row .tileStore r = .ok (runs r)) →
          enters (.tst g f) c.issuedAs 5 ((List.range (rows (desc n))).map runs) none)) ∧
      (Acts 0x40 6 g f s c → c.th.cntMx < 63 →
        enters (.tzero g f) { c.gone with cntMx := c.th.cntMx + 1 } 6 [] none)) ∧
    ∀ (p : PlaneSet) (loc : Nat → Nat → Nat), (desc n).getLsbD 63 = true → plane (desc n) = true →
      c.t.pendingTile n = false → room → c.th.cntAs < 63 → planeSet (c.x f.a.toNat) (c.x (f.a.toNat + 1)) = .ok p →
      let xb := (c.x f.b.toNat).toNat
      let xc := (c.x f.c.toNat).toNat
      let np := xc % 32
      let blocks : List Nat := (List.range (rows (desc n))).flatMap fun r =>
        (List.range (cols (desc n) / 16)).map fun kb => xb + r * (xc / 256) + kb
      let sig := planeSig (p.address 0 xb) 0
      let tg := c.t.ttag.getD n {}
      let planes (first : Nat) : List Nat := (List.range (np + 2)).filter fun j => first ≤ j
      let extents (first : Nat) : List (List Extent) := (planes first).flatMap fun j =>
        blocks.map fun k => [⟨loc j k, 2⟩]
      let found (first : Nat) : Prop := ∀ j ∈ planes first, ∀ k ∈ blocks, planeAt s c .planeTile p j k = .ok (loc j k)
      xb < 2 ^ 24 → xc < 2 ^ 32 → xc / 32 % 8 = 0 → np ≤ 16 → np ≤ p.npl → np ≤ pcap (desc n) →
      (∀ k ∈ blocks, k < p.stride * 64) →
        (Acts 0x40 3 g f s c → found 0 →
          enters (.tldp g f) c.issuedAs 3 (extents 0) (some { pval := true, pcnt := BitVec.ofNat 5 np, sig := sig })) ∧
        (Acts 0x40 4 g f s c → tg.pval = true → tg.sig = sig →
          (np ≤ tg.pcnt.toNat → exec (.tref g f) s = c.completes s) ∧
          (tg.pcnt.toNat < np → found (tg.pcnt.toNat + 2) →
            enters (.tref g f) c.issuedAs 4 (extents (tg.pcnt.toNat + 2))
              (some { pval := true, pcnt := BitVec.ofNat 5 np, sig := sig })))

/-- 12 R252, R262: TRDV awaits the element's bits, zero-extended; TWRV writes the element's bits and no other. 12
R273, R275, 17 R357: a TEPI that passes its checks enters the tile order; one of the KV-append mode waits for the
Eland die's answer. The mode is that of xB, whatever mnemonic names the word; where the mode takes the pair xA:xA+1,
xA+1 awaits no result and holds no error (01 R22). The checks of a TEPI outside the mode come in the order of 15 R317,
log 48; in the mode ALIGN, then those of its tile and control. 12 R274, R275: what a TEPI writes: the activation of
each element of the accumulator, and its BF16, PB16 and G8 forms, where nothing is poisoned or uncorrectable. Model's
choices: logs 30, 48. -/
def Obligations.TileElementsAndEpilogues : Prop :=
  (∀ (g : Guard) (f : Fields) (s : State) (c : Cx) (n : Nat),
    let v := c.t.tdesc.getD n 0
    let rows := 16 * (v.toNat / 2 ^ 19 % 8 + 1)
    let cols := 16 * (v.toNat / 2 ^ 16 % 8 + 1)
    let width := 4 * 2 ^ (v.toNat / 2 ^ 22 % 4)
    let row := (c.v f.b.toNat).toNat
    let col := (c.v f.c.toNat).toNat
    let first := (row * cols + col) * width
    let byte (i : Nat) : Nat := tileAt c.t (v.toNat % 4096 * 128 + (first + i) / 8)
    let bit (m : List Host.Cell) (i : Nat) : Bool := (memGet m (byte i)).getLsbD ((first + i) % 8)
    let quiet := s.tiles.all fun x => !x.touches c.r.team [tileGeo v]
    v.getLsbD 63 = true → v.getLsbD 24 = false → row < rows → col < cols → quiet →
    (s.tiles.filter fun x => x.cluster == coreCluster c.t.core).length < 64 →
    (∀ i < width, sleeping s [byte i] = false ∧ eccSub s [byte i] = none) → c.t.core < 1536 →
    c.t.tileBase + v.toNat % 4096 * 128 + rows * cols * width / 8 ≤ 2 ^ 19 →
      (Acts 0x40 7 g f s c → n = f.a.toNat →
        ∃ (t : State) (w : W32), exec (.trdv g f) s = .next t ∧
          Issued s t c { uid := s.uid, vregs := [(f.d.toNat, w, {})], xregs := [], ready := true, counted := false } ∧
          ∀ i, w.getLsbD i = (decide (i < width) && bit s.mem i)) ∧
      (Acts 0x40 8 g f s c → n = f.d.toNat → Memory.wf s.mem →
        ∃ t : State, exec (.twrv g f) s = .next t ∧ t.thread c.r = some c.gone ∧
          (∀ r, r ≠ c.r → t.thread r = s.thread r) ∧
          (∀ i < width, bit t.mem i = (c.v f.a.toNat).getLsbD i) ∧
          ∀ a j, (∀ i < width, byte i ≠ a ∨ (first + i) % 8 ≠ j) →
            (memGet t.mem a).getLsbD j = (memGet s.mem a).getLsbD j)) ∧
  (∀ (s : State) (tm : Team) (x : TileCmd), x.fn = 12 → Memory.wf s.mem → s.poison = [] → s.tilePoison = [] → s.errors = [] →
    let geo := tileGeo (x.descs.headD 0)
    let outer := x.extents.flatMap extentLocs
    let xb := (x.words.getD 2 0).toNat
    let alpha : W32 := (x.words.getD 3 0).setWidth 32
    let mul (a b : W32) : W32 := (fpMul .f32 .rn false a b).1
    let add (a b : W32) : W32 := (fpAdd .f32 .rn false a b).1
    let fn (k : SpFun) (a : W32) : W32 := (specialFn k .f32 false a).1
    let active (x : W32) : W32 :=
      match xb % 16 with
      | 0 => x
      | 1 => if isNan .f32 x then 0x7FC00000 else (fpMinMax .f32 true x 0).1
      | 2 => mul (mul x 0x3F000000) (add (fn .erf (mul x 0x3F3504F3)) 0x3F800000)
      | 3 => mul x (fn .rcp (add (fn .ex2 (mul x 0xBFB8AA3B)) 0x3F800000))
      | _ => fn .tanh x
    let y (m n : Nat) : W32 :=
      let a := active (mul (BitVec.ofNat 32 (tileElem s tm geo m n)) alpha)
      if isNan .f32 a then 0x7FC00000 else a
    let written (i : Nat) : Nat := (memGet (runTile s tm x).mem (outer.getD i 0)).toNat
    let half (i : Nat) : Nat := written i + 256 * written (i + 1)
    let size := if xb / 256 % 4 = 0 then 2 * geo.cols
      else if xb / 256 % 4 = 1 then geo.cols / 16 * (xb / 2 ^ 22 % 32 + 2) * 2
      else geo.cols + 4 * (geo.cols / (32 * 2 ^ (xb / 2 ^ 18 % 4)))
    outer.length = geo.rows * size → outer.Nodup → (∀ a ∈ outer, isOutside a = false ∧ isTelemetry a = false) →
      (∀ a, a ∉ outer → memGet (runTile s tm x).mem a = memGet s.mem a) ∧
      ∀ m, m < geo.rows →
        (xb / 256 % 4 = 0 → ∀ n, n < geo.cols → half (m * size + 2 * n) =
          (convertFp .f32 .bf16 (RMode.ofBits (BitVec.ofNat 2 (xb / 2 ^ 20 % 4))) false (y m n)).1.toNat % 2 ^ 16) ∧
        (xb / 256 % 4 = 1 → xb / 2 ^ 22 % 32 ≤ 16 → ∀ j k, j < geo.cols / 16 → k < xb / 2 ^ 22 % 32 + 2 →
          let enc := (pb16Encode ((List.range 16).map fun i => y m (16 * j + i))).1
          half (m * size + 2 * (j * (xb / 2 ^ 22 % 32 + 2) + k)) = ((enc.e :: enc.s :: enc.m).getD k 0).toNat) ∧
        (xb / 256 % 4 = 2 → ∀ i k, let len := 32 * 2 ^ (xb / 2 ^ 18 % 4)
          let codes := quantise ((List.range len).map fun e => y m (len * i + e))
          geo.cols % len = 0 → i < geo.cols / len → k < len →
            written (m * size + len * i + k) = codes.1.getD k 0 % 256 ∧
            half (m * size + geo.cols + 4 * i) + 65536 * half (m * size + geo.cols + 4 * i + 2) = codes.2 % 2 ^ 32)) ∧
  (∀ (ys : List W32) (lo hi : Rat),
    let clamp (n : Int) : Int := if n < 0 then 0 else if 255 < n then 255 else n
    let special (y : W32) : Prop := isNan .f32 y = true ∨ isInf .f32 y = true
    ((∃ y ∈ ys, special y) → quantise ys = (ys.map fun _ => 255, 0x7E00)) ∧
    ((∀ y ∈ ys, ¬ special y ∧ lo ≤ patValue .f32 y ∧ patValue .f32 y ≤ hi) → lo ≤ 0 → 0 ≤ hi →
      (lo = 0 ∨ ∃ y ∈ ys, lo = patValue .f32 y) → (hi = 0 ∨ ∃ y ∈ ys, hi = patValue .f32 y) →
      (lo = hi → quantise ys = (ys.map fun _ => 0, 0x3C00)) ∧
      (lo < hi → ∃ (r : W32 × FpFlags) (sc : W32) (z zp : Int),
        RoundedTo .f16 .rn false false ((hi - lo) / 255) r ∧
        sc = (if isInf .f16 r.1 then 0x7BFF else if fpMag .f16 r.1 = 0 then 1 else r.1) ∧
        IsNearest (-lo / patValue .f16 sc) z ∧ zp = clamp z ∧ (quantise ys).2 = sc.toNat + 65536 * zp.toNat ∧
        (quantise ys).1.length = ys.length ∧ ∀ i, i < ys.length → ∃ q : Int,
          IsNearest (patValue .f32 (ys.getD i 0) / patValue .f16 sc) q ∧
          (quantise ys).1.getD i 0 = (clamp (q + zp)).toNat))) ∧
  (∀ (g : Guard) (f : Fields) (s : State) (c : Cx) (i : Instr), i ∈ [Instr.tepi g f, .tepiKv g f] →
    Acts 0x40 12 g f s c → c.th.cntAs < 63 →
    (s.tiles.filter fun x => x.cluster == coreCluster c.t.core).length < 64 →
    let n := f.d.toNat
    let desc := c.t.tdesc.getD n 0
    let xb := c.x f.b.toNat
    let pair := xb.getLsbD 15 = true ∨ xb.toNat / 256 % 4 = 1
    let even := f.a.toNat % 2 = 0
    let second := f.a.toNat + 1
    let words (two : Bool) := [c.x f.a.toNat, if two then c.x second else 0, xb, c.x f.c.toNat]
    let ready := c.hazard [] [second] [] = false ∧ c.flawTrap [] [second] 0 = none
    let geo := tileGeo desc
    let b := xb.toNat
    let control := b / 2 ^ 27 % 2 ^ 13 ≠ 0 ∨ b / 2 ^ 16 % 4 ≠ 0 ∨ b / 2 ^ 10 % 32 ≠ 0 ∨ b / 16 % 16 ≠ 0 ∨ 4 < b % 16 ∨
      b / 256 % 4 = 3
    let sub := if geo.valid = false then 1 else if geo.pt = true ∨ geo.ew ≠ 32 then 5 else if control then 7 else 0
    (pair → ¬ even → exec i s = .next (s.trapIn s c { cause := 1, sub := 8 })) ∧
    (∀ runs two, xb.getLsbD 15 = false → (two = true ↔ pair) → (pair → even ∧ ready) →
      tepiChecks s c (tileGeo desc) (words two) = .ok runs →
      ∃ t x, exec i s = .next t ∧ Became s t c.r c.issuedAs ∧ t.tiles = s.tiles ++ [x] ∧ x.fn = 12 ∧ x.d = n ∧
        x.words = words two ∧ x.descs = [desc] ∧ x.extents = runs ∧ x.kv = none) ∧
    (xb.getLsbD 15 = true → even → ready → ((c.x f.a.toNat).getLsbD 32 = true → (c.x second).toNat % 8 = 0) →
      sub = 0 →
      ∃ t x, exec i s = .next t ∧ Became s t c.r { c.th with wait := .append } ∧ t.appends = s.appends ++ [x] ∧
        x.words = words true ∧ x.descs = [desc] ∧ x.team = c.r.team ∧ x.tid = c.r.tid) ∧
    (xb.getLsbD 15 = true → even → ready →
      let turned := (c.x f.a.toNat).getLsbD 32 = true ∧ (c.x second).toNat % 8 ≠ 0
      (turned → exec i s = .next (s.trapIn s c { cause := 4, sub := 0, va := c.x second, ak := 4 })) ∧
      (¬ turned → sub ≠ 0 → exec i s = .next (s.trapIn s c { cause := 0x0C, sub := sub })))) ∧
  ∀ (s : State) (c : Cx) (geo : TileGeo) (words : List Word),
    let xa := words.getD 0 0
    let desc := (words.getD 1 0).toNat
    let xb := (words.getD 2 0).toNat
    let step := words.getD 3 0 >>> 32
    let outf := xb / 256 % 4
    let gsz := xb / 2 ^ 18 % 4
    let npw := xb / 2 ^ 22 % 32
    let group := 32 * 2 ^ gsz
    let row := if outf = 0 then 2 * geo.cols else geo.cols + 4 * (geo.cols / group)
    let flat := outf = 0 ∨ outf = 2
    let control := xb / 2 ^ 27 % 2 ^ 13 ≠ 0 ∨ xb / 2 ^ 16 % 4 ≠ 0 ∨ xb / 2 ^ 10 % 32 ≠ 0 ∨ xb / 16 % 16 ≠ 0 ∨ 4 < xb % 16 ∨
      outf = 3 ∨ (outf ≠ 1 ∧ (xb / 2 ^ 40 ≠ 0 ∨ npw ≠ 0)) ∨ (outf ≠ 0 ∧ xb / 2 ^ 20 % 4 ≠ 0) ∨ (outf ≠ 2 ∧ gsz ≠ 0) ∨ gsz = 3
    let answer := tepiChecks s c geo words
    let tiles (runs : List (List Extent)) : Prop := answer =
      if geo.valid = false then stopTrap 0x0C 1
      else if geo.pt = true ∨ geo.ew ≠ 32 then stopTrap 0x0C 5
      else if control then stopTrap 0x0C 7
      else if outf = 2 ∧ geo.cols % group ≠ 0 then stopTrap 0x0C 6
      else if flat ∧ step.toNat < row then stopTrap 0x0C 7
      else .ok runs
    xb.testBit 15 = false →
      (flat → xa.toNat % 16 ≠ 0 → answer = stopTrap 4 0 xa 4) ∧
      (flat → xa.toNat % 16 = 0 → step.toNat % 16 ≠ 0 → answer = stopTrap 4 0 step 4) ∧
      ((flat → xa.toNat % 16 = 0 ∧ step.toNat % 16 = 0) → outf ≠ 1 →
        let nowhere := geo.valid = false ∨ outf = 3 ∨ (outf = 2 ∧ gsz = 3)
        let at_ (m : Nat) : Chk (List Extent) := translateRange s c .tileStore (xa + BitVec.ofNat 64 m * step) row
        (nowhere → tiles []) ∧
        (¬ nowhere → (∀ runs : List (List Extent), runs.length = geo.rows →
            (∀ m x, runs[m]? = some x → at_ m = .ok x) → tiles runs) ∧
          ∀ m e, m < geo.rows → (∀ i, i < m → ∃ x, at_ i = .ok x) → at_ m = .error e → answer = .error e)) ∧
      (outf = 1 →
        let stride := desc % 4096
        let npl := desc / 2 ^ 12 % 32
        let malformed := xa.toNat % 128 ≠ 0 ∨ stride = 0 ∨ 16 < npl ∨ desc / 2 ^ 17 ≠ 0
        let block (m j : Nat) : Nat := xb / 2 ^ 40 + m * step.toNat + j
        let beyond := ∃ m j, m < geo.rows ∧ j < geo.cols / 16 ∧ stride * 64 ≤ block m j
        let planes : List (Nat × Nat) := (List.range geo.rows).flatMap fun m => (List.range (geo.cols / 16)).flatMap fun j =>
          (List.range (npw + 2)).map fun k => (block m j, k)
        let at_ (x : Nat × Nat) : Chk (List Nat) := planesAt s c .planeOut ⟨xa, npl, stride⟩ x.1 [x.2]
        (malformed → answer = stopTrap 8 1) ∧
        (¬ malformed → npl < npw → answer = stopTrap 8 3) ∧
        (¬ malformed → npw ≤ npl → geo.valid = false → tiles []) ∧
        (¬ malformed → npw ≤ npl → geo.valid = true →
          (beyond → answer = stopTrap 8 6) ∧
          (¬ beyond → (∀ ls : List Nat, ls.length = planes.length →
              (∀ (i : Nat) x l, planes[i]? = some x → ls[i]? = some l → at_ x = .ok [l]) →
              ∃ runs, runs.flatten = ls.map (fun l => (⟨l, 2⟩ : Extent)) ∧ tiles runs) ∧
            ∀ (i : Nat) x e, planes[i]? = some x → (∀ (j : Nat) y, j < i → planes[j]? = some y → ∃ l, at_ y = .ok l) → at_ x = .error e →
              answer = .error e)))

/-- 06 R137, R138, 12 R263-R266: KINIT; a signer's refusals, with each operand check of R266 in its order, and that no bitmap tile is short; a signature
that is recorded, and the one that issues the operation of its phase; scale records in memory are loads, which wait as
loads do (10 R227). Model's choices: log 84 (a malformed KINIT with a signature pending reports 0x23). -/
def Obligations.SigningWords : Prop :=
  ∀ (g : Guard) (f : Fields) (s : State) (c : Cx),
    let n := f.d.toNat
    let k := c.t.convs.getD n {}
    let tid := c.r.tid
    let team := c.r.team
    let tile (sub : Nat) : Out State := .next (s.trapIn s c { cause := 0x0C, sub := sub })
    n < c.t.convs.length →
      (Acts 0x40 9 g f s c →
        let w := (c.x f.a.toNat).toNat
        let first := w % 1024
        let count := w / 1024 % 2048
        let bad := 2 ^ 21 ≤ w ∨ count = 0 ∨ (declOf c.t.rdw).size < first + count
        (bad → exec (.kinit g f) s = tile 0x23) ∧
        (¬ bad → k.signed ≠ [] → exec (.kinit g f) s = tile 0x22) ∧
        (¬ bad → k.signed = [] → ∃ t u, exec (.kinit g f) s = .next t ∧ Became s t c.r c.gone ∧
          t.teams[team]? = some u ∧ (u.convs.getD n {}).valid = true ∧ (u.convs.getD n {}).first = first ∧
          (u.convs.getD n {}).count = count ∧ (u.convs.getD n {}).phase = k.phase ∧ (u.convs.getD n {}).signed = [] ∧
          ∀ m, m ≠ n → u.convs[m]? = c.t.convs[m]?)) ∧
      ∀ (w : Nat × Instr), w ∈ [(10, Instr.mma g f), (11, .mmas g f)] → Acts 0x40 w.1 g f s c → c.th.cntMx < 63 →
        let r : ConvRec := { mmas := w.1 == 11, a := c.x f.a.toNat, b := c.x f.b.toNat, c := c.x f.c.toNat }
        let member := k.first ≤ tid ∧ tid < k.first + k.count
        let last := ∀ m ∈ c.t.alive, k.first ≤ m → m < k.first + k.count → m = tid ∨ m ∈ k.signed
        let set := r.a.toNat
        let no (i : Nat) : Nat := set / 64 ^ i % 64
        let geo (i : Nat) : TileGeo := tileGeo (c.t.tdesc.getD (no i) 0)
        let a := r.b.toNat % 2 ^ 32
        let b := r.b.toNat / 2 ^ 32
        let enc (x : Nat) : Nat := x % 16
        let npl (x : Nat) : Nat := x / 2 ^ 4 % 32
        let lay (x : Nat) : Nat := x / 2 ^ 10 % 4
        let scs (x : Nat) : Nat := x / 2 ^ 12 % 4
        let grp (x : Nat) : Nat := 32 * 2 ^ (x / 2 ^ 14 % 4)
        let badSpec (x : Nat) : Prop := 2 ^ 17 ≤ x ∨ 4 < enc x ∨ lay x = 3 ∨ scs x = 3 ∨ x / 2 ^ 14 % 4 = 3 ∨
          (enc x < 3 ∧ x / 2 ^ 12 ≠ 0) ∨ (enc x ≠ 2 ∧ x / 2 ^ 4 % 64 ≠ 0) ∨ 16 < npl x ∨ (lay x ≠ 0 ∧ 2 ≤ enc x)
        let lines (x i : Nat) : Nat := if lay x = 1 then (geo i).cols else (geo i).rows
        let deep (x i : Nat) : Nat := if lay x = 1 then (geo i).rows else (geo i).cols
        let kind (x i : Nat) : Prop := (geo i).pt = decide (enc x = 2) ∧
          (enc x ≠ 2 → (geo i).ew = if enc x = 3 then 4 else if enc x = 4 then 8 else 16)
        let scaled (x i j : Nat) : Prop := scs x = 1 → (geo j).pt = false ∧ (geo j).ew = 32 ∧ lines x i ≤ (geo j).rows ∧
          deep x i / grp x ≤ (geo j).cols
        let parts (x i : Nat) : Prop := 3 ≤ enc x → deep x i % grp x = 0
        let loaded (x i : Nat) : Prop := enc x = 2 →
          (c.t.ttag.getD (no i) {}).pval = true ∧ npl x ≤ (c.t.ttag.getD (no i) {}).pcnt.toNat
        let memory := scs a = 2 ∨ scs b = 2
        let bits (g : TileGeo) : Nat :=
          if g.pt then g.rows * (g.cols / 16) * (g.pcap + 2) * 16 else g.rows * g.cols * g.ew / 8 * 8
        let used (i : Nat) : Prop := i < 3 ∨ (i = 3 ∧ scs a = 1) ∨ (i = 4 ∧ scs b = 1) ∨ (i = 5 ∧ r.mmas = true)
        let formed := set < 2 ^ 37 ∧ (∀ i, i < 6 → ¬ used i → no i = 0) ∧ ¬ badSpec a ∧ ¬ badSpec b ∧
          ¬ (scs a = 2 ∧ scs b = 2) ∧ (¬ memory → r.c = 0)
        let valid := ∀ i, i < 6 → used i → (geo i).valid = true
        let kinds := (geo 0).pt = false ∧ (geo 0).ew = 32 ∧ kind a 1 ∧ kind b 2 ∧ scaled a 1 3 ∧ scaled b 2 4
        let shaped := lines a 1 = (geo 0).rows ∧ lines b 2 = (geo 0).cols ∧ deep a 1 = deep b 2 ∧ parts a 1 ∧ parts b 2
        let tagged := loaded a 1 ∧ loaded b 2
        let mapped := r.mmas = true → deep a 1 / 8 * ((geo 0).cols / 8) ≤ bits (geo 5)
        let aligned := memory → r.c.toNat % 4 = 0
        let records (x i : Nat) : Nat := lines x i * (deep x i / grp x) * 4
        let size := if scs a = 2 then records a 1 else if scs b = 2 then records b 2 else 0
        let signs := k.valid = true ∧ member ∧ tid ∉ k.signed ∧ ∀ r', k.opRec = some r' → r' = r
        let sound := formed ∧ valid ∧ kinds ∧ shaped ∧ tagged ∧ aligned
        let counted : Thread := { c.gone with cntMx := c.th.cntMx + 1 }
        let holds (t : State) (new : ConvReg) : Prop := ∃ u, t.teams[team]? = some u ∧ u.convs = c.t.convs.set n new
        (k.valid = false → exec w.2 s = tile 0x24) ∧
        (k.valid = true → ¬ member → exec w.2 s = tile 0x20) ∧
        (k.valid = true → member → tid ∈ k.signed → exec w.2 s = .next s) ∧
        (k.valid = true → member → tid ∉ k.signed → (∃ r', k.opRec = some r' ∧ r' ≠ r) → exec w.2 s = tile 0x21) ∧
        (signs → (¬ formed → exec w.2 s = tile 7) ∧ (formed → ¬ valid → exec w.2 s = tile 1) ∧
          (formed → valid → ¬ kinds → exec w.2 s = tile 5) ∧
          (formed → valid → kinds → ¬ shaped → exec w.2 s = tile 6) ∧
          (formed → valid → kinds → shaped → ¬ tagged → exec w.2 s = tile 8) ∧
          mapped ∧ (formed → valid → kinds → shaped → tagged → ¬ aligned →
            exec w.2 s = .next (s.trapIn s c { cause := 4, sub := 0, va := r.c, ak := 4 })) ∧
          ∀ e, sound → size ≠ 0 → c.held = false → awaitsAcquire s c = false →
            translateRange s c .scaleLoad r.c size = .error (.trap e) → exec w.2 s = .next (s.trapIn s c e)) ∧
        (∀ runs, signs → sound →
          (size = 0 ∨ (c.held = false ∧ awaitsAcquire s c = false)) →
          (if size = 0 then .ok [] else translateRange s c .scaleLoad r.c size) = .ok runs →
          (¬ last → ∃ t, exec w.2 s = .next t ∧ Became s t c.r counted ∧ t.tiles = s.tiles ∧
            holds t { k with signed := k.signed ++ [tid], opRec := some r, scale := runs, priv := c.th.priv }) ∧
          (last → (s.tiles.filter fun x => x.cluster == coreCluster c.t.core).length < 64 →
            ∃ t x, exec w.2 s = .next t ∧ Became s t c.r counted ∧ t.tiles = s.tiles ++ [x] ∧ x.fn = w.1 ∧
              x.words = [r.a, r.b, r.c] ∧ x.signers = k.signed ++ [tid] ∧ x.extents = [runs] ∧ x.passes = 0 ∧
              holds t { k with phase := !k.phase, signed := [], opRec := none, scale := [], priv := false }))

/-- 12 R271, R272, R267: a pass granted by the arbiter's rule, to the oldest of several equal ones, the last of a
command making its effect; a migration, which changes only the engine; and a completion, which frees the entry and
drops the counts. -/
def Obligations.TileEvents : Prop :=
  ∀ (s : State) (x : TileCmd), Awake s → x ∈ s.tiles → (s.tiles.map TileCmd.uid).Nodup →
    let cls (y : TileCmd) : Nat := (s.launch (((s.teams[y.team]?).map Team.seq).getD 0)).cls
    let geo := tileGeo (x.descs.headD 0)
    let passes := if x.fn ∈ [6, 10, 11, 12] then (geo.rows / 16) * (geo.cols / 16) else geo.rows
    (∀ cluster, let ready := s.tiles.filter fun y => y.engine == cluster && tileReady s y
      let granted : State := { s with tiles := s.tiles.map fun (y : TileCmd) =>
        if y.uid = x.uid then { y with passes := y.passes + 1, skipped := 0 }
        else if y.engine = cluster ∧ tileReady s y then { y with skipped := y.skipped + 1 }
        else y }
      (ready = [] → exec (.mxePassGrant cluster) s = .next s) ∧ (ready ≠ [] → ∃ y ∈ ready, arbiterPick s ready = some y) ∧
      (arbiterPick s ready = some x →
        x ∈ ready ∧ (16 ≤ x.skipped ∨ ∀ y ∈ ready, y.skipped < 16 ∧ cls y ≤ cls x) ∧
        (s.tiles.Pairwise (fun a b => a.uid < b.uid) → ∀ y ∈ ready,
          (if 16 ≤ x.skipped then 16 ≤ y.skipped else cls y = cls x) → x.uid ≤ y.uid) ∧
        (x.passes + 1 < passes → exec (.mxePassGrant cluster) s = .next granted) ∧
        ∀ tm, s.teams[x.team]? = some tm → passes ≤ x.passes + 1 →
          exec (.mxePassGrant cluster) s = .next ((runTile granted tm x).modTile x.uid fun y => { y with done := true }))) ∧
    (∀ engine, let may := (x.fn = 10 ∨ x.fn = 11) ∧ tileReady s x = true ∧ x.passes = 0 ∧ 8 < x.skipped ∧
        x.migrated = none ∧ (engine = x.cluster + 1 ∨ engine + 1 = x.cluster) ∧ engine / 96 = x.cluster / 96 ∧
        ∀ y ∈ s.tiles, y.cluster ≠ engine ∧ y.engine ≠ engine
      (may → exec (.mxeMigration x.uid engine) s = .next (s.modTile x.uid fun y => { y with migrated := some engine })) ∧
      (¬ may → exec (.mxeMigration x.uid engine) s = .next s)) ∧
    (x.done = false → exec (.tileCommandComplete x.uid) s = .next s) ∧
    (x.done = true → (∀ tm ∈ s.teams, ∀ k ∈ tm.convs, k.signed = []) → x.signers.Nodup →
      ∃ t, exec (.tileCommandComplete x.uid) s = .next t ∧ t.tiles = s.tiles.filter (fun y => y.uid != x.uid) ∧
        t.mem = s.mem ∧ ∀ r th, s.thread r = some th →
          t.thread r = some
            (if r.team = x.team ∧ (if x.fn = 10 ∨ x.fn = 11 then r.tid ∈ x.signers else x.fn = 6 ∧ r.tid = x.tid) then
              { th with cntMx := th.cntMx - 1 }
            else if r.team = x.team ∧ r.tid = x.tid ∧ x.fn ≠ 6 ∧ x.fn ≠ 10 ∧ x.fn ≠ 11 then
              { th with cntAs := th.cntAs - 1 }
            else th))

/-- 12 R252, R259-R261, R267, R268: what TLD, TLDP, TREF, TST, TZERO, MMA and MMAS leave in memory and in the tile
file, where nothing is poisoned or uncorrectable or outside the device: each destination byte, and every other byte as
before. TLDP fills the slots of planes E, S and M1 to M(NP), TREF those of the planes that the tile lacks. An element
of C is `mxe_dot` (03 R69, BlockArithmetic) of the accumulator with the values of its two lines, a block of B that the
bitmap marks zero. 12 R264, R265: those values by encoding and layout, with the record of a group from a scale tile or
the words at xC. -/
def Obligations.TileEffects : Prop :=
  ∀ (s : State) (tm : Team) (x : TileCmd), Memory.wf s.mem → s.poison = [] → s.tilePoison = [] → s.errors = [] →
    let geo := tileGeo (x.descs.headD 0)
    let t := runTile s tm x
    let outer := x.extents.flatMap extentLocs
    let tile := tileLocs tm geo
    let moves (src dst : List Nat) : Prop :=
      (∀ i, i < dst.length → i < src.length → memGet t.mem (dst.getD i 0) = memGet s.mem (src.getD i 0)) ∧
      ∀ a, a ∉ dst → memGet t.mem a = memGet s.mem a
    let desc (i : Nat) : TileGeo := tileGeo (x.descs.getD i 0)
    let word (i : Nat) : Nat := (x.words.getD i 0).toNat
    let pa := specOf (word 1 % 2 ^ 32)
    let pb := specOf (word 1 / 2 ^ 32)
    let depth := if pa.lay = 1 then (desc 1).rows else (desc 1).cols
    let record (p : Spec) (scales : TileGeo) (i g : Nat) : Nat :=
      if p.scs = 1 then tileElem s tm scales i g
      else leNat (((extentLocs (x.extents.headD [])).drop (4 * (i * (depth / p.group) + g))).take 4 |>.map (memGet s.mem))
    let marked (n k : Nat) : Prop :=
      let bit := k / 8 * (geo.cols / 8) + n / 8
      x.fn = 11 ∧ (memGet s.mem (tileAt tm ((desc 5).off + bit / 8))).getLsbD (bit % 8) = true
    let valA (i k : Nat) : Elem := operandValue s tm pa (desc 1) (record pa (desc 3)) i k
    let valB (i k : Nat) : Elem := operandValue s tm pb (desc 2) (record pb (desc 4)) i k
    (∀ a ∈ tile ++ outer, isOutside a = false ∧ isTelemetry a = false) →
      (x.fn = 2 → tile.Nodup → moves outer tile) ∧
      (x.fn = 5 → outer.Nodup → moves tile outer) ∧
      (x.fn = 6 → ∀ a, memGet t.mem a = if a ∈ tile then 0 else memGet s.mem a) ∧
      (∀ held np, x.fn = 3 ∨ x.fn = 4 → x.arg = [held, np] →
        let first := if x.fn = 4 then held + 2 else 0
        let across := geo.cols / 16
        let place (p : Nat × Nat × Nat × Nat) : Prop :=
          first ≤ p.1 ∧ p.1 < np + 2 ∧ p.2.1 < geo.rows ∧ p.2.2.1 < across ∧ p.2.2.2 < 2
        let slot (p : Nat × Nat × Nat × Nat) : Nat :=
          tileAt tm (geo.off + ((p.1 * geo.rows + p.2.1) * across + p.2.2.1) * 2 + p.2.2.2)
        let source (p : Nat × Nat × Nat × Nat) : Nat :=
          outer.getD ((((p.1 - first) * geo.rows + p.2.1) * across + p.2.2.1) * 2 + p.2.2.2) 0
        outer.length = (np + 2 - first) * geo.rows * across * 2 → (∀ p, place p → slot p ∈ tile) →
        (∀ p, place p → memGet t.mem (slot p) = memGet s.mem (source p)) ∧
        ∀ a, (∀ p, place p → a ≠ slot p) → memGet t.mem a = memGet s.mem a) ∧
      (x.fn = 10 ∨ x.fn = 11 → geo.valid = true → geo.pt = false → geo.ew = 32 →
        (∀ m n, m < geo.rows → n < geo.cols → ∀ b : Nat → Elem, (∀ k, marked n k → b k = .zero) →
          (∀ k, ¬ marked n k → b k = valB n k) →
          tileElem t tm geo m n = (mxeDot (if (word 0).testBit 36 then BitVec.ofNat 32 (tileElem s tm geo m n) else 0)
            (valA m) b (depth / 16)).toNat) ∧
        ∀ a, a ∉ tile → memGet t.mem a = memGet s.mem a) ∧
      ∀ (p : Spec) (g : TileGeo) (scale : Nat → Nat → Nat) (i k : Nat),
        let val := operandValue s tm p g scale i k
        let zp : Nat := if p.zp ∧ p.scs ≠ 0 then scale i (k / p.group) / 2 ^ 16 % 256 else 0
        let sc : W32 := if p.scs = 0 then 0x3C00 else BitVec.ofNat 32 (scale i (k / p.group) % 65536)
        let q := tileElem s tm g i k
        let placed (row col : Nat) : Prop := ∀ fmt : Fmt, p.enc = 0 ∧ fmt = .bf16 ∨ p.enc = 1 ∧ fmt = .f16 →
          let w := BitVec.ofNat 32 (tileElem s tm g row col)
          (isFinite fmt w = true → val.value = patValue fmt w ∧ ∃ m e, val = .fin m e) ∧
          (isInf fmt w = true → val = .inf (fpSign fmt w)) ∧ (isNan fmt w = true → val = .nan)
        (p.lay = 0 → placed i k) ∧ (p.lay = 1 → placed k i) ∧
        (p.lay = 2 → placed i (2 * ((k / 2 + i) % (g.cols / 2)) + k % 2)) ∧
        (p.enc = 2 →
          let b : Block := ⟨tilePlane s tm g 0 i (k / 16), tilePlane s tm g 1 i (k / 16),
            (List.range p.npl).map fun j => tilePlane s tm g (j + 2) i (k / 16)⟩
          isFinite .f32 (pb16Read b (k % 16) p.npl p.mid) = true →
            val.value = patValue .f32 (pb16Read b (k % 16) p.npl p.mid) ∧ ∃ m e, val = .fin m e) ∧
        (p.enc = 3 ∨ p.enc = 4 → isFinite .f16 sc = true →
          val.value = ((q : Rat) - zp) * patValue .f16 sc ∧ ∃ m e, val = .fin m e)

/-! ### The sampler and the Eland die (13, 17) -/

/-- 13 R282, R283, 17 R360: SMPL, ATTN and ATTNT that pass their checks queue a command, counted on AS; the alignment
checks, the stops of translation, the sub-causes of SAMPLE and those of KV for a query. -/
def Obligations.EngineWords : Prop :=
  ∀ (g : Guard) (f : Fields) (s : State) (c : Cx),
    let xa := c.x f.a.toNat
    let xb := c.x f.b.toNat
    let xc := c.x f.c.toNat
    let bar : Option Nat := if f.opt then none else some f.d.toNat
    let absent := ∃ b, bar = some b ∧ (c.t.bar b).valid = false
    let traps (i : Instr) (tr : Trap) : Prop := exec i s = .next (s.trapIn s c tr)
    let align (va : Word) : Trap := { cause := 4, sub := 0, va := va, ak := 4 }
    c.th.cntAs < 63 →
      (Acts 0x48 0 g f s c →
        let meets := xb.toNat < xc.toNat + 16 ∧ xc.toNat < xb.toNat + 24576
        (xa.toNat % 128 ≠ 0 → traps (.smpl g f) (align xa)) ∧
        (xa.toNat % 128 = 0 → xb.toNat % 256 ≠ 0 → traps (.smpl g f) (align xb)) ∧
        (xa.toNat % 128 = 0 → xb.toNat % 256 = 0 → xc.toNat % 16 ≠ 0 → traps (.smpl g f) (align xc)) ∧
        (∀ tr, xa.toNat % 128 = 0 → xb.toNat % 256 = 0 → xc.toNat % 16 = 0 →
          (translateRange s c .engineBoth xb 24576 = .error (.trap tr) → traps (.smpl g f) tr) ∧
          ∀ sx, translateRange s c .engineBoth xb 24576 = .ok sx →
            translateRange s c .engineBoth xc 16 = .error (.trap tr) → traps (.smpl g f) tr) ∧
        ∀ sx rx, xa.toNat % 128 = 0 → xb.toNat % 256 = 0 → xc.toNat % 16 = 0 →
          translateRange s c .engineBoth xb 24576 = .ok sx → translateRange s c .engineBoth xc 16 = .ok rx →
          (absent → traps (.smpl g f) { cause := 0x0F, sub := 1 }) ∧
          (¬ absent → meets → traps (.smpl g f) { cause := 0x0F, sub := 2 }) ∧
          (¬ absent → ¬ meets → ∃ t x, exec (.smpl g f) s = .next t ∧ Became s t c.r c.issuedAs ∧
            t.smpls = s.smpls ++ [x] ∧ x.uid = s.uid ∧ x.who = c.r ∧ x.bar = bar ∧ x.bf16 = f.isX ∧ x.verify = f.isN ∧
            x.logits = xa ∧ x.ssr = sx ∧ x.result = rx ∧ x.mark = s.uid)) ∧
      ∀ (w : Nat × Instr), w ∈ [(1, Instr.attn g f), (2, .attnt g f)] → Acts 0x48 w.1 g f s c →
        let seq := xa.toNat / 2 ^ 48
        let layer := xa.toNat / 2 ^ 40 % 256
        let head := xa.toNat / 2 ^ 34 % 64
        let mine (r : SeqRec) : Prop := s.seq? seq = some r ∧ r.ctx = c.la.ctx
        let kv (sub : Nat) : Trap := { cause := 0x0D, sub := sub }
        (xb.toNat % 64 ≠ 0 → traps w.2 (align xb)) ∧
        (∀ tr, xb.toNat % 64 = 0 → translateRange s c .engineBoth xb 64 = .error (.trap tr) → traps w.2 tr) ∧
        ∀ ext, xb.toNat % 64 = 0 → translateRange s c .engineBoth xb 64 = .ok ext →
          ((∀ r, ¬ mine r) → traps w.2 (kv 1)) ∧
          ∀ r, mine r →
            (r.nl ≤ layer ∨ r.nh ≤ head → traps w.2 (kv 2)) ∧
            (layer < r.nl → head < r.nh → xa.toNat / 2 ^ 32 % 4 ≠ 0 ∨ absent → traps w.2 (kv 3)) ∧
            (layer < r.nl → head < r.nh → xa.toNat / 2 ^ 32 % 4 = 0 → ¬ absent →
              ∃ t x, exec w.2 s = .next t ∧ Became s t c.r c.issuedAs ∧ t.attns = s.attns ++ [x] ∧ x.uid = s.uid ∧
                x.who = c.r ∧ x.tree = (w.1 == 2) ∧ x.bar = bar ∧ x.query = xa ∧ x.recVa = xb ∧ x.recExt = ext ∧
                x.hd = r.hd ∧ x.gate = none ∧ x.gone = false ∧ x.mark = s.uid)

/-- 17 R355, R369-R371: the commands on sequence records: what each leaves in the records, and its result; the slots
that KVSEQ.dfs rewrites, WMASK, NEXT and REFS of the pages that a trim, a close, a fork and a release change, and the
copy of a fork's interior page. Model's choices: logs 47, 50, 51, 52, 53, 57, 117, 119. A trim clears the reservations
at its position and above. -/
def Obligations.SequenceWords : Prop :=
  ∀ (g : Guard) (f : Fields) (s : State) (c : Cx),
    let xa := c.x f.a.toNat
    let n := (c.x f.b.toNat).toNat
    let seq := xa.toNat / 2 ^ 48
    let traps (i : Instr) (sub : Nat) : Prop := exec i s = .next (s.trapIn s c { cause := 0x0D, sub := sub })
    let gives (i : Instr) (w : Word) (p : State → Prop) : Prop :=
      ∃ t : State, exec i s = c.completes (t.setX c.r f.d.toNat w) ∧ t.teams = s.teams ∧ p t
    let free (m : Nat) : Prop := m < 65536 ∧ s.seq? m = none ∧ ∀ k < m, (s.seq? k).isSome
    let low := xa.toNat % 2 ^ 48
    let mask (t : State) (p slot : Nat) : Nat := pageNat t p (0x280 + 4 * slot) 4
    let pagesOf (r : SeqRec) : List Nat := r.chains.flatMap Chain.pages
    let apart (r : SeqRec) : Prop := Memory.wf s.mem ∧ (s.seqs.map SeqRec.num).Nodup ∧ (pagesOf r).Nodup ∧
      ∀ q ∈ s.seqs, ∀ p ∈ pagesOf q, p < 2 ^ 24
    let left (t : State) (p : Nat) : Prop := pageNat t p 0x0F 1 = (pageRefs s p - 1) % 256
    (Acts 0x48 3 g f s c →
      let w := xa.toNat
      let bad := 2 ^ 23 ≤ w ∨ w / 2 ^ 18 % 32 = 0 ∨ 16 < w / 2 ^ 18 % 32
      (bad → traps (.kvseqOpen g f) 3) ∧
      (¬ bad → (∀ m < 65536, (s.seq? m).isSome) → traps (.kvseqOpen g f) 6) ∧
      (∀ m, ¬ bad → free m → gives (.kvseqOpen g f) (BitVec.ofNat 64 m) fun t => t.mem = s.mem ∧ ∃ r,
        t.seqs = s.seqs ++ [r] ∧ r.num = m ∧ r.ctx = c.la.ctx ∧ r.nl = w % 256 + 1 ∧ r.nh = w / 256 % 64 + 1 ∧
        r.hd = 16 * (w / 2 ^ 14 % 16 + 1) ∧ r.npl = w / 2 ^ 18 % 32 ∧ r.window = [] ∧
        r.chains = List.replicate (r.nl * r.nh) ({} : Chain))) ∧
    (Acts 0x48 3 g f s c → ∀ va runs bs (r : SeqRec), va = c.x f.b.toNat →
      let count := (c.x f.c.toNat).toNat
      let first := xa.toNat % 2 ^ 32
      va.toNat % 8 = 0 → 0 < count → count ≤ 64 → translateRange s c .load va (8 * count) = .ok runs →
      Reads s c true (extentLocs runs) bs → s.seq? seq = some r → r.ctx = c.la.ctx → first + count ≤ 2 ^ 32 →
      xa.toNat / 2 ^ 32 % 2 ^ 16 = 0 →
        gives (.kvseqDfs g f) 0 fun t => ∃ q, t.seq? seq = some q ∧ q.w0 = first ∧ q.window = windowPairs bs ∧
          q.chains = r.chains ∧ (apart r → bs.length = 8 * count → ∀ p ∈ pagesOf r,
            (∀ off, off < 0x14000 → off < 0x80 ∨ 0x280 ≤ off → pageNat t p off 1 = pageNat s p off 1) ∧
            ∀ i, i < 64 →
              let pos := pagePbase s p + i
              let pair (u : State) : Nat × Nat := (pageNat u p (0x80 + 8 * i) 4, pageNat u p (0x84 + 8 * i) 4)
              let given := bs.drop (8 * (pos - first))
              pair t = if first ≤ pos ∧ pos < first + count then (leNat (given.take 4), leNat ((given.drop 4).take 4))
                else pair s)) ∧
    ((∀ r, s.seq? seq = some r → r.ctx ≠ c.la.ctx) →
      (Acts 0x48 3 g f s c → traps (.kvseqClose g f) 1 ∧ traps (.kvseqTrim g f) 1 ∧ traps (.kvseqStat g f) 1) ∧
      (Acts 0x48 4 g f s c → traps (.kvfork g f) 1) ∧ (Acts 0x48 5 g f s c → traps (.kvrel g f) 1)) ∧
    ∀ r, s.seq? seq = some r → r.ctx = c.la.ctx →
      (Acts 0x48 3 g f s c → low = 0 →
        (seqBusy s seq = true → exec (.kvseqClose g f) s = .next s) ∧
        (seqBusy s seq = false → gives (.kvseqClose g f) 0 fun t =>
          t.seqs = s.seqs.filter (fun q => q.num != seq) ∧ (apart r → ∀ p ∈ pagesOf r, left t p) ∧
          (apart r → r.saved = [] → s.herd.waiting = [] → s.herd.parked = [] →
            (∃ g, s.herd.region? 0xFFD = some g ∧ s.herd.count 0xFFD + (pagesOf r).length ≤ g.capacity) →
            ∀ p ∈ pagesOf r, pageRefs s p = 1 → scanReads s p = false →
              ∃ x ∈ t.herd.tuples, x.region = 0xFFD ∧ x.fields = pageFields p ∧ x.pending = 0) ∧
          ∀ a ∈ s.attns, a.query.toNat / 2 ^ 48 = seq → a.gate = none → { a with gone := true } ∈ t.attns)) ∧
      (Acts 0x48 3 g f s c →
        ((∃ k ∈ r.chains, n < k.base) → traps (.kvseqTrim g f) 2) ∧
        ((∀ k ∈ r.chains, k.base ≤ n) → low ≠ 0 → traps (.kvseqTrim g f) 3) ∧
        ((∀ k ∈ r.chains, k.base ≤ n) → low = 0 → gives (.kvseqTrim g f) 0 fun t => (∃ q, t.seq? seq = some q ∧
          q.chains = r.chains.map fun k =>
            { k with len := min k.len n, pages := k.pages.filter fun p => decide (pagePbase s p < n) }) ∧
          (t.tiles.map TileCmd.blocks = s.tiles.map fun x =>
            if x.kv = some seq ∧ x.done = false then x.blocks.filter fun b => decide (b.1 < n) else x.blocks) ∧
          (apart r → ∀ k ∈ r.chains, ∀ p ∈ k.pages, (n ≤ pagePbase s p → left t p) ∧
            (pagePbase s p < n → pageRefs s p = 1 → (∀ i, i < 64 →
              mask t p i = if n ≤ pagePbase s p + i then 0 else mask s p i) ∧
              ((k.pages.filter fun y => decide (pagePbase s y < n)).getLast? = some p → pageNat t p 0 4 = 0xFFFFFFFF))))) ∧
      (Acts 0x48 3 g f s c →
        let layer := xa.toNat / 2 ^ 40 % 256
        let head := xa.toNat / 2 ^ 34 % 64
        let k : Chain := r.chains.getD (layer * r.nh + head) {}
        (r.nl ≤ layer ∨ r.nh ≤ head → traps (.kvseqStat g f) 2) ∧
        (layer < r.nl → head < r.nh → xa.toNat % 2 ^ 34 ≠ 0 → traps (.kvseqStat g f) 3) ∧
        (layer < r.nl → head < r.nh → xa.toNat % 2 ^ 34 = 0 →
          exec (.kvseqStat g f) s = c.completes ((s.dropL1 c.t.core).setX c.r f.d.toNat
            (BitVec.ofNat 64 (k.base * 2 ^ 32 + k.len))))) ∧
      (Acts 0x48 4 g f s c →
        let split := r.chains.filter fun k => k.pages.any fun p => decide (pagePbase s p < n) && decide (n < pagePbase s p + 64)
        let outside := ∃ k ∈ r.chains, n < k.base ∨ k.len < n
        (outside → traps (.kvfork g f) 2) ∧
        (¬ outside → low ≠ 0 → traps (.kvfork g f) 3) ∧
        (¬ outside → low = 0 → allocPages split.length s = none → traps (.kvfork g f) 4) ∧
        ∀ m ps u, ¬ outside → low = 0 → allocPages split.length s = some (ps, u) → free m →
          gives (.kvfork g f) (BitVec.ofNat 64 m) fun t => ∃ q, t.seqs = s.seqs ++ [q] ∧ q.num = m ∧ q.ctx = r.ctx ∧
            q.nl = r.nl ∧ q.nh = r.nh ∧ q.hd = r.hd ∧ q.npl = r.npl ∧ q.window = [] ∧
            q.chains.map Chain.len = r.chains.map (fun _ => n) ∧ q.chains.map Chain.base = r.chains.map Chain.base ∧
            (∀ i p, p ∈ (r.chains.getD i ({} : Chain)).pages → pagePbase s p + 64 ≤ n → p ∈ (q.chains.getD i ({} : Chain)).pages) ∧
            (apart r → ps.Nodup → (∀ y ∈ s.seqs, ∀ p ∈ pagesOf y, p ∉ ps) → r.npl ≤ 16 → r.hd ≤ 256 →
              (∀ p ∈ pagesOf r, pagePbase s p + 64 ≤ n → pageNat t p 0x0F 1 = (pageRefs s p + 1) % 256) ∧
              ∀ i p, p ∈ (r.chains.getD i ({} : Chain)).pages → pagePbase s p < n → n < pagePbase s p + 64 →
                ∃ new ∈ (q.chains.getD i ({} : Chain)).pages, new ∈ ps ∧ pageNat t new 4 4 = pagePbase s p ∧
                  pageNat t new 0x0F 1 = 1 ∧ ∀ slot, slot < 64 →
                    let kept := pagePbase s p + slot < n
                    mask t new slot = (if kept then mask s p slot else 0) ∧
                    (kept → pageNat t new (0x80 + 8 * slot) 8 = pageNat s p (0x80 + 8 * slot) 8 ∧
                      ∀ part j b, part < 2 → j < r.npl + 2 → b < 16 →
                        let off := 0x400 + part * 0x9000 + j * 2048 + (16 * slot + b) * 2
                        pageNat t new off 2 = pageNat s p off 2) ∧
                    (¬ kept → pageNat t new (0x80 + 8 * slot) 8 = 0xFFFFFFFF00000000))) ∧
      (Acts 0x48 5 g f s c →
        let outside := n % 64 ≠ 0 ∨ ∃ k ∈ r.chains, k.len < n
        (outside → traps (.kvrel g f) 2) ∧
        (¬ outside → low ≠ 0 → traps (.kvrel g f) 3) ∧
        (¬ outside → low = 0 → gives (.kvrel g f) 0 fun t => ∃ q, t.seq? seq = some q ∧
          (q.chains = r.chains.map fun k =>
            { k with base := max k.base n, pages := k.pages.filter fun p => decide (n < pagePbase s p + 64) }) ∧
          (apart r → ∀ p ∈ pagesOf r, pagePbase s p + 64 ≤ n → left t p)))

/-- 13 R284-R286: the run of a queued SMPL command whose inputs hold no uncorrectable error, by its status; what every
end of one leaves. 13 R288: the choice of candidates, ties at the threshold to the lower token. 13 R287, R289: the
kept ones, all of them where TOPP is 1.0 (log 98). 13 R290, R291: the pick; a draft that VERIFY accepts is the token,
with status 1; the status and token of every other draft; STEP and LAST after; the bytes of the record in memory after
a run, and where its tables lie in them. No eligible token gives status 0x10. 13 R291: the draw word. R286: the
malformed headers. R279, R280: the operations of the count and bias tables (log 131: of two entries of one token, the
lowest). R294-R297: Fawn programs: the illegal words, the effect of each operation, the run, and what a program's end
changes; the lanes of a scatter act in rising order (log 115). 11 R238, 13 R284: the landing on the barrier register
at the end. -/
def Obligations.SamplerRuns : Prop :=
  let field (ssr : List Byte) (off n : Nat) : Nat := leNat ((ssr.drop off).take n)
  (∀ (s : State) (x : SmplCmd) (c : Cx), Awake s → s.smpls.find? (fun y => y.uid == x.uid) = some x →
    s.viewOf x.who = some c → (∀ e ∈ s.queue, e.core = c.t.core → x.mark ≤ e.uid) → s.errors = [] →
    sleeping s (extentLocs x.ssr ++ extentLocs x.result) = false →
    (∀ y ∈ s.smpls, y.who = x.who → y.uid < x.uid → y.ssr ≠ x.ssr) →
    let read (l : List Extent) : List Byte := homeBytes s x.priv 0 (extentLocs l)
    let ssr := read x.ssr
    let draft := if x.verify then (extentLocs x.result).take 8 else []
    let began := s.readL2 0 (extentLocs x.ssr ++ draft)
    let q : W32 := BitVec.ofNat 32 (leNat (((read x.result).drop 4).take 4))
    let ends (r : SmplResult) : Prop :=
      ∃ lines, exec (.samplerRun x.uid) s = .next (endSmpl { s with l2 := lines } x ssr r)
    let fails (code : Nat) : Prop := ends { ssr := none, token := 0xFFFFFFFF, status := code }
    let vpad := field ssr 0x1C 4
    let plen := field ssr 0x38 4
    let logits := engineRange began c x.priv .engineRead x.logits (vpad * if x.bf16 then 2 else 4)
    let prog := engineRange began c x.priv .engineRead (BitVec.ofNat 64 (field ssr 0x30 8)) (4 * plen)
    (headerBad ssr = true → fails 0x11) ∧
    (headerBad ssr = false → x.verify = true → qBad q = true → fails 0x13) ∧
    (headerBad ssr = false → (x.verify = true → qBad q = false) →
      (∀ l p, logits = .ok l → prog = .ok p → l = none ∨ p = none → fails 0x14) ∧
      ∀ l p, logits = .ok (some l) → prog = .ok (some p) →
        let poisoned := x.flaw || anyPoison s (extentLocs x.ssr ++ draft ++ l ++ p)
        (poisoned = true → fails 0x15) ∧
        (poisoned = false → ends (smplResult ssr x.verify (leNat ((read x.result).take 4)) q
          (logitsOf x.bf16 (homeBytes s x.priv 0 l)) (valuesOf 4 plen (homeBytes s x.priv 0 p))))) ∧
    ∀ r, let t := endSmpl s x ssr r
      t.smpls = s.smpls.filter (fun y => y.uid != x.uid) ∧
      (t.thread x.who).map Thread.cntAs = some (c.th.cntAs - 1) ∧
      (Memory.wf s.mem → ∀ loc n, x.result = [⟨loc, 16⟩] → loc + 16 ≤ 2 ^ 56 → n < 8 →
        memGet t.mem (loc + 8 + n) = (leBytes 4 r.token ++ leBytes 4 r.status).getD n 0) ∧
      (Memory.wf s.mem → ∀ loc i, x.ssr = [⟨loc, 24576⟩] → loc + 24576 ≤ 2 ^ 56 → i < 24576 →
        loc + i ∉ (extentLocs x.result).drop 8 →
        (r.ssr = none → memGet t.mem (loc + i) = memGet s.mem (loc + i)) ∧
        ∀ bs, r.ssr = some bs → bs.length = 24576 → memGet t.mem (loc + i) = bs.getD i 0)) ∧
  (∀ (ssr : List Byte) (verify : Bool) (d : Nat) (q : W32) (logits : List W32),
    let kept := keptCands ssr logits
    let r := smplResult ssr verify d q logits []
    let mass : W32 := ((kept.map fun x => x.2.2).getLast?).getD 0
    let accepts : Prop :=
      if (field ssr 0x2C 4).testBit 1 then (kept.map Prod.fst).head? = some d
      else ∃ x ∈ kept, x.1 = d ∧ f32lt (sMul (sMul (unitOf24 (drawWord ssr 0)) q) mass) x.2.1 = true
    let out (code token : Nat) : Prop := r.status = code ∧ r.token = token
    ((∀ w ∈ logits.take (field ssr 0x18 4), isNan .f32 w ∨ w = 0xFF800000) →
      r = { ssr := none, token := 0xFFFFFFFF, status := 0x10 }) ∧
    (kept ≠ [] →
      (verify = false → out 0 (pickToken ssr kept 0)) ∧
      (verify = true →
        (field ssr 0x1C 4 ≤ d → out 4 (pickToken ssr kept 1)) ∧
        (d < field ssr 0x1C 4 → field ssr 0x18 4 ≤ d → out 3 (pickToken ssr kept 1)) ∧
        (d < field ssr 0x1C 4 → d < field ssr 0x18 4 → (accepts → out 1 d) ∧ (¬ accepts → out 2 (pickToken ssr kept 1)))) ∧
      (ssr.length = 24576 → ∃ bs, r.ssr = some bs ∧ bs.length = 24576 ∧
        field bs 0x10 8 = (field ssr 0x10 8 + 1) % 2 ^ 64 ∧ field bs 0x44 4 = r.token % 2 ^ 32 ∧
        bs.take 16 = ssr.take 16))) ∧
  (∀ (ssr : List Byte) (kept : List (Nat × W32 × W32)) (j : Nat),
    let x (i : Nat) : Nat × W32 × W32 := kept.getD i (0, 0, 0)
    let last := kept.length - 1
    let target := sMul (unitOf24 (drawWord ssr j)) (x last).2.2
    let above (i : Nat) : Prop := f32lt target (x i).2.2 = true
    kept ≠ [] →
      if (field ssr 0x2C 4).testBit 1 then pickToken ssr kept j = (x 0).1
      else ∃ i, i < kept.length ∧ pickToken ssr kept j = (x i).1 ∧ (∀ m < i, ¬ above m) ∧ (above i ∨ i = last)) ∧
  (∀ w : W32, isFinite .f32 (unitOf24 w) = true ∧ patValue .f32 (unitOf24 w) = (w.toNat / 256 : Nat) / 2 ^ 24) ∧
  (∀ (ssr : List Byte) (w : List W32), field ssr 0x18 4 ≤ w.length →
    let raw (t : Nat) : W32 := w.getD t 0
    let value (t : Nat) : W32 := if raw t = 0x7F800000 then 0x7F7FFFFF else raw t
    let ids := (List.range (field ssr 0x18 4)).filter fun t => !isNan .f32 (raw t) && raw t != 0xFF800000
    let k := field ssr 0x24 4
    let cand := (topk (ids.map fun t => (t, key32 (value t))) (if k = 0 then 1024 else k)).map Prod.fst
    let e (i : Nat) : W32 := sExp (sMul (sSub (value (cand.getD i 0)) (value (cand.getD 0 0))) 0x3FB8AA3B)
    let total (n : Nat) : W32 := ((List.range n).map e).foldl sAdd 0
    let topp : W32 := BitVec.ofNat 32 (field ssr 0x28 4)
    let limit := sMul topp (total cand.length)
    let kept := keptCands ssr w
    let n := kept.length
    kept = (List.range n).map (fun i => (cand.getD i 0, e i, total (i + 1))) ∧ n ≤ cand.length ∧ (ids ≠ [] → 0 < n) ∧
    (topp = 0x3F800000 → n = cand.length) ∧
    (topp ≠ 0x3F800000 → ∀ i < n, (i + 1 < n → f32lt (total (i + 1)) limit = true) ∧
      (i + 1 = n → f32lt (total (i + 1)) limit = false ∨ n = cand.length))) ∧
  (∀ (ssr : List Byte),
    let n (off : Nat) : Nat := field ssr off 4
    let temp : W32 := BitVec.ofNat 32 (n 0x20)
    let topp : W32 := BitVec.ofNat 32 (n 0x28)
    headerBad ssr = true ↔ n 0x18 = 0 ∨ 2 ^ 20 < n 0x18 ∨ n 0x1C % 64 ≠ 0 ∨ n 0x1C < n 0x18 ∨ 2 ^ 20 < n 0x1C ∨
      ¬ (isFinite .f32 temp = true ∧ 0 < patValue .f32 temp) ∨ 1024 < n 0x24 ∨
      ¬ (isFinite .f32 topp = true ∧ 0 < patValue .f32 topp ∧ patValue .f32 topp ≤ 1) ∨ 256 < n 0x38 ∨
      (0 < n 0x38 ∧ field ssr 0x30 8 % 4 ≠ 0) ∨ 1024 < n 0x40) ∧
  (∀ (ssr : List Byte) (j : Nat),
    let n (off : Nat) : W32 := BitVec.ofNat 32 (field ssr off 4)
    let turn (x : W32 × W32 × W32 × W32) (rc : W32) : W32 × W32 × W32 × W32 :=
      let d := (x.2.2.2 ^^^ (x.1 + x.2.1)).rotateLeft 16
      let b := (x.2.1 ^^^ (x.2.2.1 + d)).rotateLeft 12
      let a := x.1 + x.2.1 + b
      let e := (d ^^^ a).rotateLeft 8
      let c := x.2.2.1 + d + e
      (a + rc, (b ^^^ c).rotateLeft 7, c, e)
    let y := ([0x9E3779B9, 0x3C6EF372, 0xDAA66D2B, 0x78DDE6E4] : List W32).foldl turn
      (n 0 ^^^ n 0x3C, n 4 ^^^ n 0x10, n 8 ^^^ n 0x14, n 12 ^^^ BitVec.ofNat 32 j)
    drawWord ssr j = y.1 ^^^ y.2.2.1) ∧
  (∀ (s : State) (x : SmplCmd) (ssr : List Byte) (r : SmplResult) (tm : Team), s.teams[x.who.team]? = some tm →
    ∃ u, (endSmpl s x ssr r).teams[x.who.team]? = some u ∧
      (x.bar = none → u.bars = tm.bars) ∧
      ∀ b, x.bar = some b → b < tm.bars.length →
        let k : BarReg := if (tm.bar b).valid then { tm.bar b with rb := (tm.bar b).rb - 16 } else tm.bar b
        u.bars = tm.bars.set b
          (if k.valid = true ∧ k.ra = 0 ∧ k.rb = 0 then { k with phase := !k.phase, ra := k.ea, rb := k.eb } else k)) ∧
  (∀ (t : Tables) (id n v : Nat), t.counts.length = 4096 → t.nbias ≤ 1024 → t.biasIds.length = 1024 →
    let entry (i : Nat) : Nat := t.counts.getD i 0
    let holds (i : Nat) : Prop := i < 4096 ∧ entry i / 2 ^ 20 ≠ 0 ∧ entry i % 2 ^ 20 = id
    let place (k : Nat) : Nat := ((id ^^^ (id >>> 12)) % 4096 + k) % 4096
    let used (i : Nat) : Prop := i < t.nbias ∧ t.biasIds.getD i 0 % 2 ^ 20 = id
    ((∀ i, ¬ holds i) → t.countOf id = 0 ∧ (n = 0 → t.countSet id n = t) ∧
      (n ≠ 0 → (∀ i, i < 4096 → entry i / 2 ^ 20 ≠ 0) → t.countSet id n = { t with covf := t.covf + 1 }) ∧
      ∀ k, n ≠ 0 → k < 4096 → entry (place k) / 2 ^ 20 = 0 → (∀ m, m < k → entry (place m) / 2 ^ 20 ≠ 0) →
        t.countSet id n = { t with counts := t.counts.set (place k) (n * 2 ^ 20 + id) }) ∧
    (∀ i, holds i → (∀ m, m < i → ¬ holds m) → t.countOf id = entry i / 2 ^ 20 ∧
      t.countSet id n = { t with counts := t.counts.set i (n * 2 ^ 20 + id) }) ∧
    t.countInc id = t.countSet id (min (t.countOf id + 1) 4095) ∧
    ((∀ i, ¬ used i) → t.biasOf id = 0 ∧
      (t.nbias < 1024 → t.biasSet id v = { t with
        biasIds := t.biasIds.set t.nbias id, biasVals := t.biasVals.set t.nbias v, nbias := t.nbias + 1 }) ∧
      (t.nbias = 1024 → t.biasSet id v = { t with bovf := t.bovf + 1 })) ∧
    ∀ i, used i → (∀ m, m < i → ¬ used m) → t.biasSet id v = { t with biasVals := t.biasVals.set i v } ∧
      ∀ w : W32, w = BitVec.ofNat 32 (t.biasVals.getD i 0) → t.biasVals.getD i 0 < 2 ^ 16 → isFinite .f16 w = true →
        isFinite .f32 (t.biasOf id) = true ∧ patValue .f32 (t.biasOf id) = patValue .f16 w) ∧
  (∀ (plen w : Nat),
    let op := w / 2 ^ 27 % 32
    let unused (ops : List Nat) (v : Nat) : Prop := op ∉ ops ∧ v ≠ 0
    let mask (ops : List Nat) (v : Nat) : Prop := op ∈ ops ∧ 8 ≤ v
    let d := w / 2 ^ 23 % 16
    let a := w / 2 ^ 19 % 16
    let b := w / 2 ^ 15 % 16
    fawnBad plen w = true ↔ 0x1A ≤ op ∨
      unused ([1, 3, 4, 5, 6] ++ List.range' 9 16) d ∨ mask [0x12, 0x15, 0x16, 0x17] d ∨
      unused ([2, 7, 8] ++ List.range' 9 11 ++ [0x15, 0x16, 0x17, 0x18]) a ∨ mask [0x15, 0x16, 0x17] a ∨
      unused (List.range' 9 6 ++ [0x10, 0x12, 0x13, 0x15, 0x16]) b ∨ mask [0x15, 0x16] b ∨
      unused (List.range' 1 17 ++ [0x13, 0x14, 0x18]) (w / 2 ^ 12 % 8) ∨
      (if op = 4 then 17 else if op = 0x12 ∨ op = 0x13 then 8 else if op = 0x19 then plen else 1) ≤ w % 2 ^ 12) ∧
  (∀ (env : FawnEnv) (s : FawnState) (w l : Nat), l < 64 → s.f.length = 16 → s.m.length = 7 → (∀ r ∈ s.f, r.length = 64) →
    let op := w / 2 ^ 27 % 32
    let d := w / 2 ^ 23 % 16
    let imm := w % 2 ^ 12
    let token := 64 * s.c + l
    let lane (f : List (List W32)) (r : Nat) : W32 := (f.getD r []).getD l 0
    let a := lane s.f (w / 2 ^ 19 % 16)
    let b := lane s.f (w / 2 ^ 15 % 16)
    let old := lane s.f d
    let mask (m : List Word) (n : Nat) : Bool := decide (n = 7) || (m.getD n 0).getLsbD l
    let on := mask s.m (w / 2 ^ 12 % 8)
    let t := fawnStep env s (fawnWord w)
    let number (v : W32) (n : Nat) : Prop := isFinite .f32 v = true ∧ fpSign .f32 v = false ∧ patValue .f32 v = n
    let writes (p : W32 → Prop) : Prop := t.m = s.m ∧ t.w = s.w ∧ t.tables = s.tables ∧
      (∀ r, r ≠ d → t.f[r]? = s.f[r]?) ∧ if on then p (lane t.f d) else lane t.f d = old
    let gives (v : W32) : Prop := writes fun x => x = v
    let masks (p : Prop) : Prop := t.f = s.f ∧ t.w = s.w ∧ t.tables = s.tables ∧
      (∀ r, r ≠ d → t.m[r]? = s.m[r]?) ∧ (d < 7 → (mask t.m d = true ↔ p)) ∧ (d = 7 → t.m = s.m)
    t.pc = s.pc + 1 ∧ t.c = s.c ∧
    (op = 0x01 → gives (s.w.getD token 0)) ∧
    (op = 0x02 → t.f = s.f ∧ t.m = s.m ∧ t.tables = s.tables ∧ t.w.length = s.w.length ∧
      (token < s.w.length → t.w.getD token 0 = if on then a else s.w.getD token 0) ∧
      ∀ i, i < 64 * s.c ∨ 64 * s.c + 64 ≤ i → t.w.getD i 0 = s.w.getD i 0) ∧
    (op = 0x03 → token < 2 ^ 20 → writes fun x => number x token) ∧
    (op = 0x04 → gives (if imm = 16 then env.temp else env.params.getD imm 0)) ∧
    (op = 0x05 → s.tables.countOf token < 4096 → writes fun x => number x (s.tables.countOf token)) ∧
    (op = 0x06 → gives (s.tables.biasOf token)) ∧
    (op = 0x07 ∨ op = 0x08 → t.f = s.f ∧ t.m = s.m ∧ t.w = s.w ∧
      t.tables = ((List.range 64).filter fun k => decide (w / 2 ^ 12 % 8 = 7) || (s.m.getD (w / 2 ^ 12 % 8) 0).getLsbD k).foldl
        (fun (x : Tables) (k : Nat) =>
          let v : W32 := (s.f.getD (w / 2 ^ 19 % 16) []).getD k 0
          if op = 0x07 then x.countSet (64 * s.c + k) (fawnCount v)
          else x.biasSet (64 * s.c + k) (convertFp .f32 .f16 .rn false v).1.toNat) s.tables) ∧
    (isNan .f32 a = true ∨ (isFinite .f32 a = true ∧ patValue .f32 a < 0) ∨ a = 0xFF800000 → fawnCount a = 0) ∧
    ((isFinite .f32 a = true ∧ 4095 < patValue .f32 a) ∨ a = 0x7F800000 → fawnCount a = 4095) ∧
    (isFinite .f32 a = true → 0 ≤ patValue .f32 a → patValue .f32 a ≤ 4095 → IsNearest (patValue .f32 a) (fawnCount a)) ∧
    (op = 0x09 → gives (fpAdd .f32 .rn false a b).1) ∧ (op = 0x0A → gives (fpSub .f32 .rn false a b).1) ∧
    (op = 0x0B → gives (fpMul .f32 .rn false a b).1) ∧ (op = 0x0C → gives (fpFma .f32 .rn false a b old).1) ∧
    (op = 0x0D → gives (fpMinMax .f32 false a b).1) ∧ (op = 0x0E → gives (fpMinMax .f32 true a b).1) ∧
    (op = 0x0F → gives (specialFn .ex2 .f32 false (fpMul .f32 .rn false a 0x3FB8AA3B).1).1) ∧
    (op = 0x10 → gives (fpMinMax .f32 false (fpMinMax .f32 true old a).1 b).1) ∧
    (op = 0x11 → gives (fpDiv .f32 .rn false a env.temp).1) ∧
    (op = 0x12 → masks ((fpCompare imm a b).1 = true)) ∧
    (op = 0x13 → gives (if mask s.m imm then a else b)) ∧ (op = 0x14 → gives 0xFF800000) ∧
    (op = 0x15 → masks (mask s.m (w / 2 ^ 19 % 16) = true ∧ mask s.m (w / 2 ^ 15 % 16) = true)) ∧
    (op = 0x16 → masks (mask s.m (w / 2 ^ 19 % 16) = true ∨ mask s.m (w / 2 ^ 15 % 16) = true)) ∧
    (op = 0x17 → masks (mask s.m (w / 2 ^ 19 % 16) = false)) ∧ (op = 0x18 → gives a)) ∧
  (∀ (env : FawnEnv) (prog : List Nat) (w : List W32) (t : Tables),
    let chunks := w.length / 64
    let start : FawnState := ⟨List.replicate 16 (List.replicate 64 0), List.replicate 7 0, 0, 0, w, t⟩
    let fine := ∀ x ∈ prog, fawnBad prog.length x = false
    (∀ i, i < prog.length → fawnBad prog.length (prog.getD i 0) = true →
      (∀ m, m < i → fawnBad prog.length (prog.getD m 0) = false) → fawnProgram env prog w t = .error i) ∧
    (∀ fuel, fine → 0 < chunks → prog.length * chunks < fuel →
      fawnProgram env prog w t = fawnRun env prog chunks fuel start) ∧
    ∀ (s : FawnState) (fuel : Nat),
      let x := prog.getD s.pc 0
      let op := x / 2 ^ 27 % 32
      let run := fawnRun env prog chunks
      (prog.length ≤ s.pc → run (fuel + 1) s = .error prog.length) ∧
      (s.pc < prog.length →
        (op = 0 → run (fuel + 1) s = .ok s) ∧
        (op = 0x19 → run (fuel + 1) s =
          run fuel (if s.c + 1 < chunks then { s with c := s.c + 1, pc := x % 2 ^ 12 } else { s with pc := s.pc + 1 })) ∧
        (op ≠ 0 → op ≠ 0x19 → run (fuel + 1) s = run fuel (fawnStep env s (fawnWord x))))) ∧
  (∀ (ssr : List Byte) (verify : Bool) (d : Nat) (q : W32) (logits : List W32) (prog : List Nat),
    let word (off : Nat) : W32 := BitVec.ofNat 32 (field ssr off 4)
    let env : FawnEnv := ⟨(List.range 16).map fun i => word (0x80 + 4 * i), word 0x20⟩
    let r := smplResult ssr verify d q logits prog
    let lays (bs : List Byte) (t : Tables) : Prop := t.counts.length = 4096 ∧ t.biasIds.length = 1024 ∧ t.biasVals.length = 1024 ∧
      (∀ i, i < 4096 → field bs (0x100 + 4 * i) 4 = t.counts.getD i 0) ∧
      (∀ i, i < 1024 → field bs (0x4100 + 4 * i) 4 = t.biasIds.getD i 0 ∧ field bs (0x5100 + 2 * i) 2 = t.biasVals.getD i 0) ∧
      (field bs 0x40 4, field bs 0x48 4, field bs 0x4C 4) = (t.nbias, t.covf.toNat, t.bovf.toNat) ∧
      ∀ off, off < 24576 → (0x18 ≤ off ∧ off < 0x40) ∨ (0x50 ≤ off ∧ off < 0x100) ∨ 0x5900 ≤ off → bs.getD off 0 = ssr.getD off 0
    let counted (t : Tables) : Tables := if (field ssr 0x2C 4).testBit 0 then t.countInc r.token else t
    (ssr.length = 24576 → lays ssr (ssrTables ssr)) ∧
    (ssr.length = 24576 → prog = [] → r.token < 2 ^ 20 → ∀ bs, r.ssr = some bs → lays bs (counted (ssrTables ssr))) ∧
    (ssr.length = 24576 → prog ≠ [] →
      (∀ i, i ≤ 256 → fawnProgram env prog logits (ssrTables ssr) = .error i →
        r = { ssr := none, token := 0xFFFFFFFF, status := i % 256 * 256 + 0x12 }) ∧
      ∀ st, fawnProgram env prog logits (ssrTables ssr) = .ok st →
        let plain := smplResult ssr verify d q st.w []
        r.token = plain.token ∧ r.status = plain.status ∧ (r.ssr = none ↔ plain.ssr = none) ∧
        ∀ bs, r.ssr = some bs → st.tables.counts.length = 4096 → st.tables.biasIds.length = 1024 →
          st.tables.biasVals.length = 1024 → st.tables.nbias < 2 ^ 32 → (∀ e ∈ st.tables.counts, e < 2 ^ 32) →
          (∀ e ∈ st.tables.biasIds, e < 2 ^ 32) → (∀ e ∈ st.tables.biasVals, e < 2 ^ 16) → r.token < 2 ^ 20 →
          ssrTables bs = counted st.tables ∧ lays bs (counted st.tables))) ∧
  ∀ (elig : List (Nat × Nat)) (k : Nat), (elig.map Prod.fst).Pairwise (· < ·) → (∀ x ∈ elig, x.2 < 2 ^ 32) →
    let best := topk elig k
    let ranks (x y : Nat × Nat) : Prop := y.2 < x.2 ∨ y.2 = x.2 ∧ x.1 < y.1
    best.length = min k elig.length ∧ (∀ x ∈ best, x ∈ elig) ∧ best.Pairwise ranks ∧
    ∀ x ∈ elig, x ∉ best → ∀ y ∈ best, ranks y x

/-- 17 R357, R358, R360-R363: an append that the Eland die accepts enters the tile order with its blocks and pages,
one that it refuses traps its thread; one whose turn has come is written; a query passes its gate when LEN reaches its
L; a scan ends with the status of 17 R361, POISON first where the record itself is poisoned. 17 R352-R357: what the
checks, the rotation rows and the reservation of an append look at: KV 0x01 to 0x03, then 0x07, 0x05 and 0x04; the
pages that the pool gives are the oldest, those of START a run (logs 47, 51). Model's choices: logs 49, 52, 54, 55,
56, 99; that a passage that is not due changes nothing, log 16. R358, R353: the planes, WMASK, FILL and LEN that an
append leaves in pages of its own, and the header of a new page. R364-R367: the visible keys of a page, their scores
and bounds, the softmax of a row, and the output. -/
def Obligations.ElandEvents : Prop :=
  (∀ (s : State), Awake s →
    (∀ (x : TileCmd) (c : Cx), s.appends.find? (fun y => y.team == c.r.team && y.tid == c.r.tid) = some x →
      s.viewOf c.r = some c → (s.tiles.filter fun y => y.cluster == coreCluster c.t.core).length < 64 →
      let desc := c.t.tdesc.getD x.d 0
      let g := tileGeo desc
      let left : State := { s with appends := s.appends.filter fun y => !(y.team == c.r.team && y.tid == c.r.tid) }
      let i : Instr := .appendAccept c.r.team c.r.tid
      let refused (e : Stop) : Prop := ∀ tr, e = .trap tr → c.th.quiet = true → exec i s = .next (left.takeTrap c tr)
      accumulator g = .ok () →
        (∀ e, rotationRuns left c g x.words = .error e → refused e) ∧
        ∀ runs, rotationRuns left c g x.words = .ok runs →
          (∀ e, appendChecks left c g x.words = .error e → refused e) ∧
          ∀ r, appendChecks left c g x.words = .ok r →
            (∀ e, reserveAppend left r g x.words = .error e → refused e) ∧
            ∀ blocks pages u, reserveAppend left r g x.words = .ok (blocks, pages, u) →
              ∃ t y, exec i s = .next t ∧ Became s t c.r c.issuedAs ∧ t.appends = left.appends ∧ t.seqs = s.seqs ∧
                t.herd = u.herd ∧ t.tiles = s.tiles ++ [y] ∧ y.fn = x.fn ∧ y.words = x.words ∧ y.descs = [desc] ∧
                y.extents = runs ∧ y.kv = some r.num ∧ y.blocks = blocks ∧ y.pages = pages) ∧
    (∀ (x : TileCmd) (n : Nat) (tm : Team) (u : State), s.tiles.find? (fun y => y.uid == x.uid) = some x → x.kv = some n →
      s.teams[x.team]? = some tm → appendReady s x = true → runAppend s tm x n = some u →
      let w := (x.words.getD 0 0).toNat
      (∀ r, s.seq? n = some r → scanHolds s (r.chains.getD (w / 2 ^ 40 % 256 * r.nh + w / 2 ^ 34 % 64) {}) x.blocks = false) →
      exec (.appendWrite x.uid) s =
        .next (u.modTile x.uid fun y => { y with done := true, blocks := [], pages := [] })) ∧
    (∀ (x : AttnCmd) (r : SeqRec), s.attn? x.uid = some x → s.seq? (x.query.toNat / 2 ^ 48) = some r →
      let k : Chain := r.chains.getD (x.query.toNat / 2 ^ 40 % 256 * r.nh + x.query.toNat / 2 ^ 34 % 64) {}
      let l := x.query.toNat % 2 ^ 32
      let pages := k.pages.filter fun p => decide (pagePbase s p < l) && decide (k.base < pagePbase s p + 64)
      (x.gate.isSome ∨ x.gone = true ∨ k.len < l → exec (.gatePassage x.uid) s = .next s) ∧
      (x.gate = none → x.gone = false → l ≤ k.len → exec (.gatePassage x.uid) s = .next { s with
        attns := s.attns.map fun (y : AttnCmd) => if y.uid = x.uid then { y with gate := some (k.base, pages) } else y })) ∧
    ∀ (x : AttnCmd) (c : Cx), s.attn? x.uid = some x → s.viewOf x.who = some c → s.errors = [] →
      (x.gate.isSome ∨ x.gone = true) → (∀ e ∈ s.queue, e.core = c.t.core → x.mark ≤ e.uid) →
      let home := extentLocs x.recExt
      let began := s.readL2 0 home
      let r := attnRec (homeBytes s x.priv 0 home)
      let ends (status : Nat) (out : List Host.Cell) : Prop :=
        ∃ lines, exec (.attentionScan x.uid) s = .next (endAttn { s with l2 := lines } x status out)
      let size := r.rows * x.hd * 4
      let query := engineRange began c x.priv .engineRead r.qva size
      let output := engineRange began c x.priv .engineWrite r.ova (size + 8 * r.rows)
      sleeping s home = false →
        (x.flaw = true ∨ anyPoison s home = true → ends 3 []) ∧
        (x.flaw = false → anyPoison s home = false →
          (r.bad = true → ends 1 []) ∧
          (r.bad = false →
            (∀ a b, query = .ok a → output = .ok b → a = none ∨ b = none → ends 2 []) ∧
            ∀ a b, query = .ok (some a) → output = .ok (some b) →
              (x.gate = none ∨ s.seq? (x.query.toNat / 2 ^ 48) = none →
                (anyPoison s a = true → ends 3 []) ∧ (anyPoison s a = false → ends 4 [])) ∧
              ∀ gate sq, x.gate = some gate → s.seq? (x.query.toNat / 2 ^ 48) = some sq →
                let poisoned := anyPoison s (a ++ gate.2.flatMap (scanLocs s x sq.npl gate.1))
                (poisoned = true → ends 3 []) ∧
                (poisoned = false →
                  ends 0 (b.zip (attnOutput s x r (wordsOf (homeBytes s x.priv 0 a)) sq.npl gate.1 gate.2)))))) ∧
  (∀ (s : State) (c : Cx) (g : TileGeo) (words : List Word), 0 < g.rows → 16 ≤ g.cols →
    let w := (words.getD 0 0).toNat
    let layer := w / 2 ^ 40 % 256
    let head := w / 2 ^ 34 % 64
    let part := w / 2 ^ 33 % 2
    let rot := w / 2 ^ 32 % 2
    let p0 := w % 2 ^ 32
    let xb := (words.getD 2 0).toNat
    let cb := xb / 2 ^ 40 % 16
    let unopened := ∀ r, s.seq? (w / 2 ^ 48) = some r → r.ctx ≠ c.la.ctx
    let checks := appendChecks s c g words
    let rows := rotationRuns s c g words
    (unopened → checks = stopTrap 0x0D 1 ∧ rows = .ok []) ∧ (rot = 0 → rows = .ok []) ∧
    ∀ r, s.seq? (w / 2 ^ 48) = some r → r.ctx = c.la.ctx →
      let k : Chain := r.chains.getD (layer * r.nh + head) {}
      let placed := layer < r.nl ∧ head < r.nh ∧ 16 * cb + g.cols ≤ r.hd ∧ k.base ≤ p0 ∧ p0 + g.rows ≤ 2 ^ 32
      let formed := xb / 256 % 4 = 1 ∧ xb / 2 ^ 22 % 32 = 0 ∧ xb / 2 ^ 20 % 4 = 0 ∧ xb / 2 ^ 18 % 4 = 0 ∧ xb / 2 ^ 44 = 0 ∧
        (words.getD 3 0).toNat < 2 ^ 32 ∧ (rot = 1 → part = 0) ∧ (rot = 0 → words.getD 1 0 = 0)
      let at_ (m : Nat) : Chk (List Extent) := translateRange s c .scaleLoad
        (words.getD 1 0 + BitVec.ofNat 64 (((p0 + m) * (r.hd / 2) + 8 * cb) * 8)) (4 * g.cols)
      (¬ placed → checks = stopTrap 0x0D 2) ∧ (placed → ¬ formed → checks = stopTrap 0x0D 3) ∧
      (placed → formed → checks = .ok r) ∧
      (rot = 1 → (∀ runs : List (List Extent), runs.length = g.rows → (∀ m x, runs[m]? = some x → at_ m = .ok x) →
          rows = .ok runs) ∧
        ∀ m e, m < g.rows → (∀ i, i < m → ∃ x, at_ i = .ok x) → at_ m = .error e → rows = .error e) ∧
      ((k.pages.map (pagePbase s)).Pairwise (· < ·) →
        let last := p0 + g.rows - 1
        let next := match k.pages.getLast? with
          | some p => pagePbase s p + 64
          | none => k.base / 64 * 64
        let more := if next ≤ last then (last - next) / 64 + 1 else 0
        let shared (p : Nat) : Bool := decide (1 < pageRefs s p)
        let changed := k.pages.filter fun p => shared p &&
          (decide (p0 < pagePbase s p + 64 ∧ pagePbase s p < p0 + g.rows) || (more != 0 && k.pages.getLast? == some p))
        let wanted := more + changed.length
        let block (m j : Nat) : Nat × Nat := (p0 + m, 16 * part + cb + j)
        let written (b : Nat × Nat) : Prop := ∃ p ∈ k.pages, pagePbase s p = b.1 / 64 * 64 ∧
          if shared p then b.1 < k.len else (pageNat s p (0x280 + 4 * (b.1 % 64)) 4).testBit b.2 = true
        let reserved (b : Nat × Nat) : Prop :=
          (∃ x ∈ s.tiles, x.kv = some r.num ∧ x.done = false ∧ (x.words.headD 0).toNat / 2 ^ 40 % 256 = layer ∧
            (x.words.headD 0).toNat / 2 ^ 34 % 64 = head ∧ b ∈ x.blocks) ∨
          ∃ a ∈ r.saved, a.layer = layer ∧ a.head = head ∧ b ∈ a.blocks
        let taken := ∃ m j, m < g.rows ∧ j < g.cols / 16 ∧ (written (block m j) ∨ reserved (block m j))
        let answer := reserveAppend s r g words
        (8 < wanted → answer = stopTrap 0x0D 7) ∧ (wanted ≤ 8 → taken → answer = stopTrap 0x0D 5) ∧
        (wanted ≤ 8 → ¬ taken → (allocPages wanted s = none → answer = stopTrap 0x0D 4) ∧
          ∀ ps t, allocPages wanted s = some (ps, t) → answer = .ok ((List.range g.rows).flatMap fun m =>
            (List.range (g.cols / 16)).map fun j => block m j, ps, t)))) ∧
  (∀ (s : State) (first n m : Nat), s.herd.waiting = [] → s.herd.flaws = [] → s.herd.pages = [(first, n)] →
    (s.herd.region? 0xFFD).isSome → (∀ t ∈ s.herd.tuples, t.region ≠ 0xFFD) → first + n ≤ 2 ^ 24 →
    (n < m → allocPages m s = none) ∧
    (m ≤ n → ∃ t, allocPages m s = some ((List.range m).map fun i => first + i, t) ∧ t.seqs = s.seqs ∧ t.mem = s.mem ∧
      t.herd.tuples = s.herd.tuples ∧ t.herd.freeRuns = n - m)) ∧
  (∀ (s : State) (tm : Team) (x : TileCmd) (n : Nat) (r : SeqRec), s.seq? n = some r → x.blocks ≠ [] → s.poison = [] →
    s.tilePoison = [] → s.errors = [] → Memory.wf s.mem →
    let g := tileGeo (x.descs.headD 0)
    let w := (x.words.getD 0 0).toNat
    let layer := w / 2 ^ 40 % 256
    let head := w / 2 ^ 34 % 64
    let part := w / 2 ^ 33 % 2
    let cb := (x.words.getD 2 0).toNat / 2 ^ 40 % 16
    let k := r.chain layer head
    let rot := homeBytes s x.priv 0 (x.extents.flatMap extentLocs)
    let word (m i : Nat) : W32 := BitVec.ofNat 32 (leNat ((rot.drop (4 * (g.cols * m + i))).take 4))
    let mul (a b : W32) : W32 := (fpMul .f32 .rn false a b).1
    let y (m c : Nat) : W32 := tepiValue s tm x m c
    let turned (m c : Nat) : W32 :=
      if w / 2 ^ 32 % 2 = 0 then y m c
      else canonNan (if c % 2 = 0 then (fpSub .f32 .rn false (mul (y m c) (word m c)) (mul (y m (c + 1)) (word m (c + 1)))).1
        else (fpAdd .f32 .rn false (mul (y m (c - 1)) (word m c)) (mul (y m c) (word m (c - 1)))).1)
    let block (m j : Nat) : Nat × Nat := (w % 2 ^ 32 + m, 16 * part + cb + j)
    let holds (p pos : Nat) : Prop := p ∈ k.pages ∧ pagePbase s p = pos / 64 * 64
    (∀ b ∈ x.blocks, (∃ m j, m < g.rows ∧ j < g.cols / 16 ∧ b = block m j) ∧ ∃ p, holds p b.1) → x.blocks.Nodup → k.pages.Nodup →
    (k.pages.map (pagePbase s)).Pairwise (· < ·) → (∀ p ∈ k.pages, pageRefs s p = 1 ∧ pageNat s p 0x0E 1 = r.hd / 16 ∧ p < 2 ^ 24) →
    r.npl ≤ 16 → 16 * cb + g.cols ≤ r.hd → r.hd ≤ 256 → r.hd % 16 = 0 → layer * r.nh + head < r.chains.length →
    (w / 2 ^ 32 % 2 = 1 → rot.length = 4 * g.cols * g.rows) →
    ∃ u q, runAppend s tm x n = some u ∧ u.seq? n = some q ∧
      let new := q.chain layer head
      let mask (p slot : Nat) : Nat := pageNat u p (0x280 + 4 * slot) 4
      let full (p slot : Nat) : Prop := ∀ b, b < r.hd / 16 → (mask p slot).testBit b = true ∧ (mask p slot).testBit (16 + b) = true
      let complete (pos : Nat) : Prop := ∃ p, holds p pos ∧ full p (pos % 64)
      (∀ m j p, m < g.rows → j < g.cols / 16 → block m j ∈ x.blocks → holds p (w % 2 ^ 32 + m) →
        let pos := w % 2 ^ 32 + m
        let enc := (pb16Encode ((List.range 16).map fun i => turned m (16 * j + i))).1
        (mask p (pos % 64)).testBit (16 * part + cb + j) = true ∧
        ∀ i, i < r.npl + 2 →
          pageNat u p (0x400 + part * 0x9000 + i * 2048 + (16 * (pos % 64) + cb + j) * 2) 2 =
            ((enc.e :: enc.s :: enc.m).getD i 0).toNat) ∧
      (∀ m j p, m < g.rows → j < g.cols / 16 → block m j ∈ x.blocks → holds p (w % 2 ^ 32 + m) →
        ∃ f, pageNat u p 0x0C 1 = f ∧ f ≤ 64 ∧ (∀ i, i < f → full p i) ∧ (f < 64 → ¬ full p f)) ∧
      new.pages = k.pages ∧ new.base = k.base ∧ k.len ≤ new.len ∧
      (∀ pos, k.len ≤ pos → pos < new.len → complete pos) ∧ ¬ complete new.len) ∧
  (∀ (s : State) (r : SeqRec) (layer head pn pbase : Nat), Memory.wf s.mem → layer < 256 → head < 256 → r.num < 65536 →
    r.hd ≤ 256 → r.npl ≤ 16 → pbase + 64 ≤ 2 ^ 32 → pn < 2 ^ 24 →
    let t := writeHeader s r layer head pn pbase
    pageNat t pn 0 4 = 0xFFFFFFFF ∧ pageNat t pn 4 4 = pbase ∧ pageNat t pn 8 2 = r.num ∧ pageNat t pn 0x0A 1 = layer ∧
    pageNat t pn 0x0B 1 = head ∧ pageNat t pn 0x0C 1 = 0 ∧ pageNat t pn 0x0D 1 = r.npl ∧ pageNat t pn 0x0E 1 = r.hd / 16 ∧
    pageNat t pn 0x0F 1 = 1 ∧ ∀ i, i < 64 → pageNat t pn (0x280 + 4 * i) 4 = 0 ∧
      let pair := if r.w0 ≤ pbase + i then r.window.getD (pbase + i - r.w0) (0, 0xFFFFFFFF) else (0, 0xFFFFFFFF)
      pageNat t pn (0x80 + 8 * i) 4 = pair.1 % 2 ^ 32 ∧ pageNat t pn (0x84 + 8 * i) 4 = pair.2 % 2 ^ 32) ∧
  (∀ (s : State) (x : AttnCmd) (r : AttnRec) (npl base pn : Nat),
    let keys := pageKeys s x r npl base pn
    let visible (i : Nat) : Prop := i < 64 ∧ base ≤ pagePbase s pn + i ∧ pagePbase s pn + i < x.query.toNat % 2 ^ 32 ∧
      (x.tree = true → pageNat s pn (0x80 + 8 * i) 4 ≤ r.entryq ∧ r.exitq ≤ pageNat s pn (0x84 + 8 * i) 4)
    (keys.map Key.pos).Pairwise (· < ·) ∧ (∀ p, p ∈ keys.map Key.pos ↔ ∃ i, p = pagePbase s pn + i ∧ visible i) ∧
    ∀ y ∈ keys, y.page = pn ∧ ∀ b, b < x.hd / 16 →
      let of (part : Nat) : Block := pageBlock s pn part (y.pos - pagePbase s pn) b npl
      y.ks[b]? = some (of 0) ∧ y.vs[b]? = some (of 1)) ∧
  (∀ (scale : W32) (q : List W32) (npl : Nat) (keys : List Key),
    let real (w : W32) : Rat := patValue .f32 w
    let rounded (mode : RMode) (x : Rat) (w : W32) : Prop :=
      (x = 0 → fpMag .f32 w = 0) ∧ (x ≠ 0 → ∃ fl, RoundedTo .f32 mode false (decide (x < 0)) (ratAbs x) (w, fl))
    let blk (k : Key) (i : Nat) : Block := k.ks.getD (i / 16) ⟨0, 0, []⟩
    let elem (k : Key) (i planes : Nat) : W32 := pb16Read (blk k i) (i % 16) planes false
    let sum (f : Nat → Rat) : Rat := ((List.range q.length).map f).sum
    let dot (k : Key) (planes : Nat) : Rat := sum fun i => real (q.getD i 0) * real (elem k i planes)
    let sound (k : Key) : Prop := ∀ i, i < q.length → (blk k i).e.toNat % 256 ≠ 255
    isFinite .f32 scale = true → 0 < real scale → npl ≤ 16 →
      (∀ k i, i < q.length → isNan .f32 (elem k i npl) = true ∨ isNan .f32 (q.getD i 0) = true →
        isNan .f32 (scoreOf scale q npl k) = true) ∧
      ((∀ w ∈ q, isFinite .f32 w = true) →
        (∀ k, (∀ i, i < q.length → isFinite .f32 (elem k i npl) = true) →
          rounded .rn (real scale * dot k npl) (scoreOf scale q npl k)) ∧
        ∀ t, t ≤ npl →
          (∀ k ∈ keys, (∃ b ∈ k.ks, b.e.toNat % 256 = 255) → k ∈ screened scale q t npl keys) ∧
          ∀ u l : Key → W32, (∀ k ∈ keys, sound k ∧ (∀ b ∈ k.ks, b.e.toNat % 256 ≠ 255) ∧
            let slack : Rat := if t = npl then 0 else sum fun i =>
              ratAbs (real (q.getD i 0)) * 2 ^ (((blk k i).e.toNat % 256 : Int) - 126 -
                (if (blk k i).e.getLsbD (8 + i % 16 / 2) then 1 else 0) - t)
            rounded .ru (real scale * (dot k t + slack)) (u k) ∧ rounded .rd (real scale * (dot k t - slack)) (l k) ∧
            isFinite .f32 (u k) = true ∧ isFinite .f32 (l k) = true) →
            ∀ k, k ∈ screened scale q t npl keys ↔
              k ∈ keys ∧ ∀ j ∈ keys, real (l j) - real 0x41851592 ≤ real (u k))) ∧
  (∀ (scale : W32) (q : List W32) (npl hd : Nat) (pages : List (List Key)),
    let add (a b : W32) : W32 := (fpAdd .f32 .rn false a b).1
    let sub (a b : W32) : W32 := (fpSub .f32 .rn false a b).1
    let mul (a b : W32) : W32 := (fpMul .f32 .rn false a b).1
    let ex (a m : W32) : W32 := (specialFn .ex2 .f32 false (mul (sub a m) 0x3FB8AA3B)).1
    let one (r : SoftRow) (k : Key × W32) : SoftRow :=
      let w := ex k.2 r.m
      let s := add r.hi w
      let bv := sub s r.hi
      let p := (convertFp .f32 .bf16 .rn false w).1 <<< 16
      ⟨r.m, s, add r.lo (add (sub r.hi (sub s bv)) (sub w bv)), (List.range r.o.length).map fun i =>
        (fpFma .f32 .rn false p (pb16Read (k.1.vs.getD (i / 16) ⟨0, 0, []⟩) (i % 16) npl false) (r.o.getD i 0)).1⟩
    let page (r : SoftRow) (keys : List (Key × W32)) : SoftRow :=
      match keys with
      | [] => r
      | k :: ks =>
        let mp := ks.foldl (fun a x => (fpMinMax .f32 true a x.2).1) k.2
        let c := ex r.m mp
        keys.foldl one (if fpKey .f32 r.m < fpKey .f32 mp then ⟨mp, mul r.hi c, mul r.lo c, r.o.map fun x => mul x c⟩ else r)
    let used := pages.map fun ks => (ks.map fun k => (k, scoreOf scale q npl k)).filter fun x => x.2 != 0xFF800000
    let out := softRow scale q npl hd pages
    let odd (w : W32) : Prop := isNan .f32 w = true ∨ w = 0x7F800000
    let bad := (∃ w ∈ q, odd w) ∨ ∃ ks ∈ used, ∃ x ∈ ks, odd x.2
    let last := used.foldl page ⟨0xFF800000, 0, 0, List.replicate hd 0⟩
    (bad → out = (List.replicate hd 0x7FC00000, 0x7FC00000, 0x7FC00000)) ∧
    (¬ bad → (∀ ks ∈ used, ks = []) → out = (List.replicate hd 0, 0xFF800000, 0)) ∧
    (¬ bad → (∃ ks ∈ used, ks ≠ []) →
      out = (last.o.map fun x => canonNan (fpDiv .f32 .rn false x (add last.hi last.lo)).1, canonNan last.m,
        canonNan (add last.hi last.lo)))) ∧
  ∀ (s : State) (x : AttnCmd) (r : AttnRec) (q : List W32) (npl base : Nat) (pages : List Nat) (i e : Nat), i < r.rows → e < x.hd →
    let keys := pages.map fun pn => pageKeys s x r npl base pn
    let qi := (q.drop (i * x.hd)).take x.hd
    let kept := if r.screen then screened r.scale qi (min r.sPlanes npl) npl keys.flatten else keys.flatten
    let row := softRow r.scale qi npl x.hd (keys.map fun ks => ks.filter (kept.contains ·))
    let word (n : Nat) : W32 := BitVec.ofNat 32 (leNat (((attnOutput s x r q npl base pages).drop (4 * n)).take 4))
    word (i * x.hd + e) = row.1.getD e 0 ∧ word (r.rows * x.hd + i) = row.2.1 ∧ word (r.rows * x.hd + r.rows + i) = row.2.2

/-! ### Work, faults and the store queue (14, 15, 08) -/

/-- 14 R312-R315: LSTAT's value; LCAN's result and successor, with the cancel of the launch, or of every launch in
flight that carries the id; GPATCH's condition codes and copy, once the core's earlier stores are performed. Model's
choices: logs 64, 68, 105. -/
def Obligations.WorkWords : Prop :=
  ∀ (g : Guard) (f : Fields) (s : State) (c : Cx),
    let id := (c.x f.a.toNat).toNat
    let level := f.mod.toNat
    let put (t : State) (n : Nat) : State := t.setX c.r f.d.toNat (BitVec.ofNat 64 n)
    let cancelled (t : State) (l : Launch) : Prop :=
      ∃ k, t.launch? l.seq = some k ∧ k.cancelled = true ∧ (l.cancelled = false → k.hasSlot = false ∧
        ∀ (n : Nat) (tm : Team), s.teams[n]? = some tm → tm.live = true → tm.seq = l.seq → ∃ u : Team,
          t.teams[n]? = some u ∧ ∀ th ∈ u.threads, th.run = .exited ∨ th.run = .stopped)
    let zero (t : State) : Prop := ∃ u : Team, t.teams[c.r.team]? = some u ∧ u.readX c.r.tid f.d.toNat = 0
    let launch (l : Launch) : Prop := id ≠ 0 ∧ id < 2 ^ 48 ∧ s.launch? id = some l ∧ l.ctx = c.la.ctx
    let entry := s.work (level - 1) id
    let known := id ≠ 0 ∧ id < 4096 ∧ entry.ctx = c.la.ctx
    (Acts 0x50 0 g f s c →
      (level = 0 → (∀ l, ¬ launch l) → exec (.lstat g f) s = c.completes (put s 0)) ∧
      (∀ l, level = 0 → launch l → exec (.lstat g f) s = c.completes (put s
        (if l.ended then 0
        else (if l.cancelled then 4
          else if l.pre = .saved then 6
          else if l.pre = .restoring then 7
          else if l.pre ≠ .running then 5
          else if l.placed = [] then 1
          else if l.placed.length < l.nteams then 2
          else 3) * 2 ^ 48 + l.ret))) ∧
      (level ≠ 0 → exec (.lstat g f) s = c.completes
        ((put s (if known then (if entry.can then 2 else 1) * 2 ^ 48 + min entry.infl 65535 * 2 ^ 32 + entry.completed
          else 0)).dropL1 c.t.core))) ∧
    (Acts 0x50 1 g f s c →
      (level = 0 → (∀ l, ¬ launch l) → exec (.lcan g f) s = c.completes (put s 1)) ∧
      (∀ l, level = 0 → launch l → l.ended = true → exec (.lcan g f) s = c.completes (put s 2)) ∧
      (∀ l, level = 0 → launch l → l.ended = false →
        ∃ t, exec (.lcan g f) s = c.completes t ∧ zero t ∧ cancelled t l) ∧
      (level ≠ 0 → ¬ known → exec (.lcan g f) s = c.completes (put s 1)) ∧
      (level ≠ 0 → known → (s.launches.map Launch.seq).Nodup →
        ∃ t, exec (.lcan g f) s = c.completes t ∧ zero t ∧ (t.work (level - 1) id).can = true ∧
          ∀ l ∈ s.launches, l.ended = false → (level - 1, id) ∈ l.ids → cancelled t l)) ∧
    (Acts 0x50 2 g f s c →
      let src := c.x f.b.toNat
      let w := (c.x f.c.toNat).toNat
      let len := w % 2 ^ 32
      let off := w / 2 ^ 32
      let e := s.work 0 id
      let mine := id ≠ 0 ∧ id < 4096 ∧ e.ctx = c.la.ctx
      let odd := (e.n + 1) % 2 = 1
      let bad := len = 0 ∨ len % 16 ≠ 0 ∨ off % 16 ≠ 0 ∨ e.sz.toNat < off + len
      let busy := 0 < (if odd then e.inf1 else e.inf0)
      let dst := (if odd then e.pb1 else e.pb0) + BitVec.ofNat 64 off
      (¬ mine → exec (.gpatch g f) s = c.completes (put s 2)) ∧
      (mine → bad → exec (.gpatch g f) s = c.completes (put s 3)) ∧
      (mine → ¬ bad → busy → exec (.gpatch g f) s = c.completes (put s 1)) ∧
      ∀ a b bs, mine → ¬ bad → ¬ busy → translateRange s c .load src len = .ok a → translateRange s c .store dst len = .ok b →
        Reads s c true (extentLocs a) bs → (extentLocs b).any isOutside = false → sleeping s (extentLocs b) = false →
        (∀ e ∈ s.queue, e.core = c.t.core → c.th.since.getD s.uid ≤ e.uid) →
          ∃ t : State, exec (.gpatch g f) s = c.completes (put t 0) ∧ t.teams = s.teams ∧
            t.mem = memSetAll s.mem ((extentLocs b).zip bs))

/-- 15 R322-R324, 04 R98, 05 R104: the resume actions on the one thread stopped under a FID, where no re-issued command
stopped it and it has none recorded; 15 R337: SKIP where one did, which drops the command and keeps the wait. The record of
the FID goes, and the lines of the thread's L1 (08 R184); the end of a SLEEP, at which CYCLES of the core has reached the
count that the word named; and the regrouping of bands, which shows in no state.
Model's choices: logs 16, 32, 35, 39, 75, 79; and the unit and details of a record of KIND 6, log 120. -/
def Obligations.ResumeActions : Prop :=
  ∀ (s : State), Awake s →
    (∀ (fid : Nat) (x : Resume) (c : Cx), s.fu.resumes.find? (fun r => r.fid == fid) = some x →
      (∀ r ∈ s.fu.resumes, r.fid = fid → r = x) →
      s.viewOf c.r = some c → c.t.live = true → c.th.run = .faulted fid →
      (∀ (n : Nat) (tm : Team) (k : Nat) (th : Thread), s.teams[n]? = some tm → tm.threads[k]? = some th → th.run = .faulted fid → c.r = ⟨n, k⟩) →
      c.th.finished = false →
      let t : State := { s with fu := { s.fu with
        records := s.fu.records.filter fun r => r.fid != fid
        resumes := s.fu.resumes.filter fun r => r.fid != fid } }.dropL1 c.t.core
      let next : State := t.rouse fun u => successorOf u c c.th.trapPc
      let entry : State := t.rouse fun u => checkLanding u c x.handler true
      let goesOn (i : Instr) (u : State) (pc : Word) : Prop :=
        exec i s = .next (u.modThread c.r fun th => { th with run := .running, wait := .none, pc := pc, since := none })
      let ends (i : Instr) (u : State) : Prop := exec i s = .next (exitThread u c.r)
      let logged (u : State) : State := u.postRecord (coreStack c.t.core) 6 c.t.core (BitVec.ofNat 64 fid) x.action
      (∀ y, y.failed = true → c.th.reissue = [y] → y.kind ≠ 6 → (∀ q slot d, c.th.wait ≠ .qpop q slot d) → x.action = 1 →
        exec (.skip fid) s = .next (t.modThread c.r fun th =>
          { th with run := .running, reissue := [], cntAs := th.cntAs - 1 })) ∧
      (c.th.owing = false → c.th.reissue = [] →
      (x.action = 0 → goesOn (.retry fid) t c.th.trapPc) ∧
      (x.action = 1 →
        (∀ pc, successorOf next c c.th.trapPc = .ok pc → goesOn (.skip fid) next pc) ∧
        (∀ e, successorOf next c c.th.trapPc = .error (.trap e) → ends (.skip fid) (logged next))) ∧
      (x.action = 2 →
        (c.th.hnd = true → ends (.handle fid) (logged t)) ∧
        (c.th.hnd = false → checkLanding entry c x.handler true = .ok () →
          exec (.handle fid) s = .next (entry.modThread c.r fun th =>
            { th with run := .running, wait := .none, pc := x.handler, since := none, priv := true, hnd := true }))) ∧
      (x.action = 3 → ends (.endThread fid) t) ∧
      (3 < x.action.toNat → ends (.endThread fid) (logged t)))) ∧
    (∀ (r : TRef) (th : Thread), s.thread r = some th →
      (∀ n, th.wait = .asleep n → th.run = .running → ∃ t, exec (.sleepExpiry r.team r.tid) s = .next t ∧
        t.teams = (s.modThread r fun th => { th with wait := .none }).teams ∧ n ≤ coreCycles t (s.coreOf r.team) ∧
        coreCycles s (s.coreOf r.team) ≤ coreCycles t (s.coreOf r.team)) ∧
      ((∀ n, th.wait ≠ .asleep n) ∨ th.run ≠ .running → exec (.sleepExpiry r.team r.tid) s = .next s)) ∧
    ∀ core, exec (.bandRegroup core) s = .next s

/-- 08 R169, R171, R178, 09 R202, R204, 05 R109: an entry that nothing keeps back is performed: a store writes its
bytes, an atomic takes effect at one point and gives its old value to the thread; a load that is ready writes its
registers, and an x write becomes visible when it is the oldest of its thread and its value is known. 18 R379: a store
or an atomic to a remote device leaves as one Write or one Atomic, with its operation. Model's choices: logs 32, 33;
that every byte of one entry, and every plane of a PST, becomes visible in one step, log 102. -/
def Obligations.StoreEvents : Prop :=
  ∀ (s : State), Awake s →
    (∀ (core k : Nat) (e : QEntry), (s.queue.filter fun x => x.core == core)[k]? = some e → e.host = none →
      sleeping s e.locs = false → (e.rel = true → k = 0) →
      (∀ x ∈ (s.queue.filter fun x => x.core == core).take k, x.keeps e = false) →
      (∀ x ∈ s.queue, x.host ≠ some e.uid) → e.locs.any isOutside = false →
      ∀ th, s.thread e.who = some th →
        let gone (t : State) : Prop := (∀ x ∈ t.queue, x.uid ≠ e.uid) ∧ ∀ r, r ≠ e.who → t.thread r = s.thread r
        (∀ bytes, e.what = .write bytes →
          ∃ t, exec (.storePerform core k) s = .next t ∧ gone t ∧ t.mem = memSetAll s.mem bytes ∧
            t.thread e.who = some { th with cntSt := th.cntSt - 1 }) ∧
        ∀ op ty loc v cmp cas ret, e.what = .rmw op ty loc v cmp cas ret →
          let size := if ty = 1 then 8 else 4
          let old : Word := BitVec.ofNat 64 (leNat (homeBytes s false 0 ((List.range size).map (loc + ·))))
          let same : Prop := if ty = 1 then old = cmp else old.setWidth 32 = cmp.setWidth 32
          let put (w : Word) : List Host.Cell := memSetAll s.mem (cellsAt loc (leBytes size w.toNat))
          ∃ t, exec (.atomicPerform core k) s = .next t ∧ gone t ∧
            (cas = true → same → t.mem = put v) ∧ (cas = true → ¬ same → t.mem = s.mem) ∧
            (cas = false → op = 12 → t.mem = s.mem) ∧ (cas = false → op ≠ 12 → t.mem = put (newValue op ty old v)) ∧
            (ret = false → t.thread e.who = some { th with cntSt := th.cntSt - 1 }) ∧
            (ret = true → t.thread e.who = some { th with pend := th.pend.map fun (p : Pending) =>
              if p.uid = e.uid then { p with
                vregs := (indexed 0 p.vregs).map fun x =>
                  (x.2.1, if x.1 = 0 then old.setWidth 32 else (old >>> 32).setWidth 32, {})
                xregs := p.xregs.map fun x => (x.1, old)
                ready := true }
              else p })) ∧
    (∀ (core k : Nat) (e : QEntry) loc, (s.queue.filter fun x => x.core == core)[k]? = some e → e.host = none →
      (e.rel = true → k = 0) → (∀ x ∈ (s.queue.filter fun x => x.core == core).take k, x.keeps e = false) →
      (∀ x ∈ s.queue, x.host ≠ some e.uid) → sleeping s e.locs = false → isRemote loc = true → s.boot.ports ≠ [] →
      (∀ bytes : List Byte, e.what = .write (cellsAt loc bytes) → bytes.length ∈ [1, 2, 4, 8, 16] →
        loc % bytes.length = 0 → (∀ j < bytes.length, isRemote (loc + j) = true) → ∃ t, exec (.storePerform core k) s = .next t ∧
          t.mem = s.mem ∧ t.outbound = s.outbound ++ [{ loc := loc, bytes := bytes, kind := .write }]) ∧
      ∀ op ty v cmp cas ret, e.what = .rmw op ty loc v cmp cas ret → ∃ t, exec (.atomicPerform core k) s = .next t ∧
        t.mem = s.mem ∧ t.outbound = s.outbound ++
          [{ loc := loc, bytes := leBytes (if ty = 1 then 8 else 4) v.toNat, kind := .atomic op ty cmp cas ret }]) ∧
    ∀ (r : TRef) (tm : Team) (th : Thread), s.teams[r.team]? = some tm → tm.threads[r.tid]? = some th →
      (∀ uid, (∀ p ∈ th.pend, p.uid = uid → p.ready = false) → exec (.loadComplete r.team r.tid uid) s = .next s) ∧
      (∀ p, th.pend.find? (fun q => q.uid == p.uid && q.ready) = some p → (∀ q slot d, th.wait ≠ .qpop q slot d) →
        sleepingBanks s tm.core (p.vregs.map Prod.fst) = false → ∃ t u x, exec (.loadComplete r.team r.tid p.uid) s = .next t ∧
        Became s t r x ∧ x.pend = th.pend.filter (fun q => q.uid != p.uid) ∧ x.pc = th.pc ∧ x.p = th.p ∧
        x.cntLd = (if p.counted then th.cntLd - 1 else th.cntLd) ∧
        ((p.vregs.map Prod.fst).Nodup → ∀ n w tg, (n, w, tg) ∈ p.vregs → n < th.v.length → x.v.getD n 0 = w) ∧
        (∀ n, n ∉ p.vregs.map Prod.fst → x.v.getD n 0 = th.v.getD n 0) ∧
        t.teams[r.team]? = some u ∧ (p.xregs = [] → u.xpend = tm.xpend) ∧
        ∀ d v, p.xregs = [(d, v)] → u.xpend = tm.xpend.map fun (y : XWrite) =>
          if y.of = some p.uid then { y with val := v, of := none } else y) ∧
      ((∀ w ∈ tm.xpend, w.tid ≠ r.tid) → exec (.xRegisterWriteVisible r.team r.tid) s = .next s) ∧
      ∀ n v known before after, tm.xpend = before ++ ⟨r.tid, n, v, known⟩ :: after → (∀ w ∈ before, w.tid ≠ r.tid) →
        (known ≠ none → exec (.xRegisterWriteVisible r.team r.tid) s = .next s) ∧
        (known = none → ∃ t u, exec (.xRegisterWriteVisible r.team r.tid) s = .next t ∧ t.mem = s.mem ∧ t.teams[r.team]? = some u ∧
          u.x = tm.x.set n v ∧ u.xpend = before ++ after ∧ u.threads = tm.threads)

/-! ### Dispatch and pre-emption (05, 14, 15, 16) -/

/-- 14 R300-R308, R311, 05 R111, R117, R120, R121, 16 R349-R351: a take makes a launch of the head that the order picks;
a team is placed in its start state, its tile bytes zero (12 R250) and its core's L1 lines gone (08 R184); a cooperative
launch is reserved for as a whole; so is a whole cluster group (05 R114), and a team of a cooperative launch on what was
reserved for it; a block is stolen by a die that has room for it; a team retires. 14 R300, 05 R118: the rejection code.
14 R310, R311: what a take counts in the work entries. A launch tuple
with an uncorrectable error in it goes untaken. Model's choices: logs 6, 61, 62, 66, 87, 94, 105, 109. -/
def Obligations.DispatchEvents : Prop :=
  ∀ (s : State), Awake s →
    (∀ (hs : List Head) (last : Nat × Nat), (takenHead hs last = none ↔ hs = []) ∧
      ∀ h, takenHead hs last = some h → h ∈ hs ∧ ∀ x ∈ hs, x.cls ≤ h.cls ∧
        (x.cls = h.cls → (pairBefore last (x.slot, x.kind) = true → pairBefore last (h.slot, h.kind) = true) ∧
          (pairBefore last (x.slot, x.kind) = pairBefore last (h.slot, h.kind) →
            pairBefore (x.slot, x.kind) (h.slot, h.kind) = false))) ∧
    (∀ die h, s.herd.admissionDue launchRegion = false →
      takenHead (heads s die) (s.lastTake.getD die (0, 0)) = some h →
      let w := h.tuple.fields
      let q := s.qdesc h.kind
      let six := (w.getD 6 0).toNat
      let entry := s.work 0 (six % 4096)
      let base : Word := if six / 2 ^ 48 % 2 = 0 then entry.pb0 else entry.pb1
      let cancelled := ∃ x ∈ [(0, six % 4096), (1, six / 4096 % 4096), (2, six / 2 ^ 24 % 4096)],
        x.2 ≠ 0 ∧ (s.work x.1 x.2).can = true
      ((∃ x ∈ s.herd.flaws, x.1 = h.tuple.dep) → h.tuple ∈ s.herd.tuples → ∃ t, exec (.tdTake die) s = .next t ∧
        h.tuple ∉ t.herd.tuples ∧ t.launches = s.launches ∧ t.mem = s.mem) ∧
      ((∀ x ∈ s.herd.flaws, x.1 ≠ h.tuple.dep) → (∀ m ∈ s.launches, m.seq = s.nextSeq → m.ended = true) →
      ∃ t l, exec (.tdTake die) s = .next t ∧ t.nextSeq = nextNumber s.nextSeq ∧
        t.lastTake = s.lastTake.set die (h.slot, h.kind) ∧ t.launch? s.nextSeq = some l ∧ l.tuple = w ∧ l.kind = h.kind ∧
        l.ctx = q.ctx ∧ l.troot = q.troot ∧ l.priv = q.priv ∧ l.slot = q.slot ∧ l.die = die ∧ l.cls = h.cls ∧
        l.x0 = (if six.testBit 36 then base + w.getD 4 0 else w.getD 4 0) ∧ l.ret = 0 ∧ l.placed = [] ∧
        (l.ended = true ↔ cancelled ∨ rejection w ≠ 0) ∧ (l.hasSlot = true ↔ ¬ cancelled ∧ rejection w = 0) ∧
        ∀ level id, let e := s.work level id
          let u := t.work level id
          let mine := (level, id) ∈ [(0, six % 4096), (1, six / 4096 % 4096), (2, six / 2 ^ 24 % 4096)] ∧ id ≠ 0
          let patched := level = 0 ∧ id = six % 4096 ∧ id ≠ 0 ∧ six.testBit 36 = true
          let refused := cancelled ∨ rejection w ≠ 0
          let replay := six / 2 ^ 48 % 2 ^ 16
          u.infl = (if mine ∧ ¬ refused then e.infl + 1 else e.infl) ∧
          u.completed = (if mine ∧ refused then (e.completed + 1) % 2 ^ 32 else e.completed) ∧ u.can = e.can ∧ u.ctx = e.ctx ∧
          u.n = (if patched then replay else e.n) ∧
          u.inf0 = (if patched ∧ replay % 2 = 0 ∧ ¬ refused then e.inf0 + 1 else e.inf0) ∧
          u.inf1 = (if patched ∧ replay % 2 = 1 ∧ ¬ refused then e.inf1 + 1 else e.inf1))) ∧
    (∀ w : List Word, let d := declOf (w.getD 3 0)
      let at_ (i : Nat) : Nat := (w.getD i 0).toNat
      let six := at_ 6
      let field := 1024 < d.park ∨ 64 * 8192 < d.tile ∨ 8 < d.strms ∨ 8 < d.convs ∨ 16 < d.bars ∨ 128 * 2048 < d.ext ∨ 128 * 1024 < d.scr
      let tuple := at_ 1 % 128 ≠ 8 ∨ 2 ^ 48 ≤ at_ 1 ∨ at_ 5 % 8 ≠ 0 ∨ six / 2 ^ 37 % 2 ^ 11 ≠ 0 ∨
        (six.testBit 36 = true ∧ six % 4096 = 0) ∨ 2 ^ 16 ≤ at_ 7
      let checks : List (Nat × Prop) := [(1, field), (2, 65536 < d.size * d.regs), (3, d.coop = true ∧ coopCapacity d < at_ 2),
        (4, at_ 2 = 0 ∨ 2 ^ 32 ≤ at_ 2), (5, tuple), (6, d.clus = true ∧ 524288 < min 4 (at_ 2) * d.tile)]
      (rejection w = 0 ↔ ∀ x ∈ checks, ¬ x.2) ∧
      ∀ x ∈ checks, rejection w = x.1 ↔ x.2 ∧ ∀ y ∈ checks, y.1 < x.1 → ¬ y.2) ∧
    (∀ seq l, s.launch? seq = some l → l.ended = false → l.cancelled = false → l.pre = .running →
      (∀ first core x, l.decl.coop = false → l.decl.clus = false → first < l.nteams → first ∉ l.placed →
        coreStack core = l.owner first → columnAllows s l core = true → savedFirst s l core = false →
        roomFor s.holders first core l.decl = some x → Memory.wf s.mem →
        ∃ t k, exec (.teamPlacement seq first [core]) s = .next t ∧
          t.teams = s.teams ++ [{ newTeam l x with order := s.uid }] ∧
          (∀ a, memGet t.mem a = if a ∈ (newTeam l x).tilesLocs then 0 else memGet s.mem a) ∧
          t.l1 = (s.dropL1 core).l1 ∧ t.launch? seq = some k ∧ k.placed = l.placed ++ [first]) ∧
      (∀ a first claims, let group := (List.range (min 4 (l.nteams - first))).map (first + ·)
        let cores := (List.range group.length).map (a + ·)
        l.decl.coop = false → l.decl.clus = true → first % 4 = 0 → first < l.nteams → a % 4 = 0 →
        (∀ i ∈ group, i ∉ l.placed) → (∀ core ∈ cores, coreStack core = l.owner first ∧ columnAllows s l core = true ∧
          savedFirst s l core = false) →
        claimAll l.decl (group.zip cores) s.holders = some claims →
        ∃ t k, exec (.teamPlacement seq first cores) s = .next t ∧ t.teams.length = s.teams.length + group.length ∧
          (∀ i, i < group.length → ∃ x, claims[i]? = some x ∧ x.index = first + i ∧ x.core = a + i ∧
            t.teams[s.teams.length + i]? = some { newTeam l x with order := s.uid + i }) ∧
          t.launch? seq = some k ∧ k.placed = l.placed ++ group) ∧
      (∀ first x, l.decl.coop = true → l.decl.clus = false → first < l.nteams → first ∉ l.placed →
        l.reserved.find? (fun y => y.index == first) = some x → savedFirst s l x.core = false → columnAllows s l x.core = true →
        ∃ t k, exec (.teamPlacement seq first [x.core]) s = .next t ∧
          t.teams = s.teams ++ [{ newTeam l x with order := s.uid }] ∧ t.launch? seq = some k ∧
          k.placed = l.placed ++ [first] ∧ ∀ y ∈ k.reserved, y.index ≠ first) ∧
      (∀ cores claims, let want := (List.range l.nteams).filter fun i => !l.placed.contains i
        l.decl.coop = true → want ≠ [] → cores.length = want.length → l.reserved = [] →
        groupsOnClusters l (want.zip cores) = true → (∀ core ∈ cores, savedFirst s l core = false ∧ columnAllows s l core = true) →
        claimAll l.decl (want.zip cores) s.holders = some claims →
        exec (.coopReserve seq cores) s = .next (s.modLaunch seq fun l => { l with reserved := claims })) ∧
      (∀ die block,
        let room := (l.decl.clus = false ∧ ∃ core x, coreStack core = die ∧ core < 1536 ∧
            roomFor s.holders (64 * block) core l.decl = some x) ∨
          (l.decl.clus = true ∧ ∃ a xs, a % 4 = 0 ∧ coreStack a = die ∧ a < 1536 ∧
            claimAll l.decl ((l.groupOf (64 * block)).map fun i => (i, a + i % 4)) s.holders = some xs)
        (¬ room → exec (.stealRequest die seq [block]) s = .next s) ∧
        (room → die < 2 → l.hasSlot = true → l.decl.coop = false → (∀ m ∈ s.launches, m.waitsFor die = false) →
        block < (l.nteams + 63) / 64 → l.owner (64 * block) = 1 - die → (∀ i ∈ l.placed, i / 64 ≠ block) →
        block ∉ l.stolen →
        exec (.stealRequest die seq [block]) s = .next (s.modLaunch seq fun l => { l with stolen := l.stolen ++ [block] })))) ∧
    (∀ (l : Launch) (x : Claim), let d := declOf (l.tuple.getD 3 0)
      let tm := newTeam l x
      tm.seq = l.seq ∧ tm.index = x.index ∧ tm.core = x.core ∧ tm.live = true ∧ tm.threads.length = d.size ∧
      tm.x.take 3 = [l.x0, BitVec.ofNat 64 x.index, BitVec.ofNat 64 (l.tuple.getD 2 0).toNat] ∧
      (∀ n, 3 ≤ n → tm.x.getD n 0 = 0) ∧ tm.fpst = 0 ∧ (∀ k ∈ tm.bars, k.valid = false) ∧
      (∀ k ∈ tm.tdesc, k = 0) ∧ ∀ th ∈ tm.threads, th.pc = l.tuple.getD 1 0 ∧ th.v = List.replicate d.regs 0 ∧ th.p = 0 ∧
        th.fpmode = (if d.ftz then 1 else 0) ∧ th.priv = l.priv ∧ th.run = .running ∧ th.wait = .none ∧ th.hnd = false ∧
        th.xseq = 0) ∧
    ∀ n tm l, s.teams[n]? = some tm → s.launch? tm.seq = some l →
      (tm.live = true → teamQuiet s n = true →
        (∀ e ∈ s.queue, e.core = tm.core → ∀ th ∈ tm.threads, ∀ m, th.since = some m → m ≤ e.uid) →
        (∀ th ∈ tm.threads, th.settled l.cancelled = true) → l.pre ≠ .quiescing →
        ∃ t u, exec (.teamRetire n) s = .next t ∧ t.teams[n]? = some u ∧ u.live = false) ∧
      (n ∈ l.reports → l.ret + 1 < l.nteams → l.cancelled = false → l.ended = false →
        ∃ t k, exec (.retirementMessage n) s = .next t ∧ t.mem = s.mem ∧ t.launch? tm.seq = some k ∧ k.ret = l.ret + 1 ∧
          k.reports = l.reports.filter fun m => m != n)

/-- 14 R308-R311: a launch ends when its last team's retirement is counted, or when a cancelled one has no team left: its
record is released; the signal word is written in its context, or, at a misaligned address, an error record in its place;
and its work entries count it. Model's choice: log 63 (the detail words of that error record). -/
def Obligations.LaunchEnds : Prop :=
  ∀ (s : State) (n : Nat) (tm : Team) (l : Launch), Awake s → Memory.wf s.mem → s.teams[n]? = some tm →
    s.launch? tm.seq = some l → l.seq = tm.seq → l.seq < 2 ^ 48 → n ∈ l.reports → l.ended = false → l.pre = .running →
    let ids := [(0, (l.tuple.getD 6 0).toNat % 4096), (1, (l.tuple.getD 6 0).toNat / 2 ^ 12 % 4096),
      (2, (l.tuple.getD 6 0).toNat / 2 ^ 24 % 4096)]
    let six := (l.tuple.getD 6 0).toNat
    let buffer := six / 2 ^ 48 % 2
    let signal := l.tuple.getD 5 0
    let word : Nat := l.seq + if l.cancelled then 2 ^ 48 else 0
    let counted := s.modLaunch tm.seq fun l => { l with ret := l.ret + 1, reports := l.reports.filter (· != n) }
    let walk (u : State) : Chk Xl := translateAt u (768 * l.die) l.troot l.priv false .store signal
    (if l.cancelled then ∀ (m : Nat) (t : Team), s.teams[m]? = some t → t.live = true → t.seq ≠ l.seq else l.ret + 1 = l.nteams) →
      ∃ t k, exec (.retirementMessage n) s = .next t ∧ t.launch? l.seq = some k ∧ k.ended = true ∧ k.hasSlot = false ∧
        k.ret = l.ret + 1 ∧ k.reserved = [] ∧ k.saved = [] ∧ k.pool = none ∧ t.hst.lastPre ≠ some l.seq ∧
        (∀ level id, let e := s.work level id
          let u := t.work level id
          let mine := (level, id) ∈ ids ∧ id ≠ 0
          let patched := (level, id) = (0, six % 4096) ∧ id ≠ 0 ∧ six.testBit 36 = true
          u.completed = (if mine then (e.completed + 1) % 2 ^ 32 else e.completed) ∧
          u.infl = (if mine then e.infl - 1 else e.infl) ∧ u.can = e.can ∧ u.ctx = e.ctx ∧ u.n = e.n ∧
          u.inf0 = (if patched ∧ buffer = 0 then e.inf0 - 1 else e.inf0) ∧
          u.inf1 = (if patched ∧ buffer = 1 then e.inf1 - 1 else e.inf1)) ∧
        (signal = 0 → t.mem = s.mem) ∧
        (signal.toNat % 8 ≠ 0 → t.mem = s.mem ∧ (l.die < s.hst.elogs.length →
          ∃ log r, t.hst.elogs[l.die]? = some log ∧ log.recs.getLast? = some r ∧ r.kind = 4 ∧ r.d0 = signal ∧ r.d1 = 4)) ∧
        ∀ x, signal ≠ 0 → signal.toNat % 8 = 0 → walk (counted.rouse walk) = .ok x → isOutside x.loc = false →
          isOutside (x.loc + 7) = false →
            (∀ i < 8, memGet t.mem (x.loc + i) = BitVec.ofNat 8 (word / 256 ^ i)) ∧
            ∀ a, a < x.loc ∨ x.loc + 8 ≤ a → memGet t.mem a = memGet s.mem a

/-- 14 R307, 15 R328-R331, R337: the dispatch threshold begins a pre-emption; the drain limit stops every thread; a unit
that has come to rest is saved, its teams gone from their cores, and so is a launch that drains with no team resident and
teams left unplaced; and a saved unit is placed again. 15 R337
steps 1 and 5: what a placed team and its threads take from the area, and the L1 lines that go. Model's choices: logs 16,
74, 75, 77; that the drain limit may expire at any step of a draining launch, log 78; a restored PC, log 100. -/
def Obligations.PreemptEvents : Prop :=
  ∀ (s : State) (seq : Nat) (l : Launch), Awake s → s.launch? seq = some l → l.seq = seq →
    (∀ die team tm p, s.teams[team]? = some tm →
      let m := s.launch tm.seq
      let column := leastColumn s die
      let only : Option Nat := if m.decl.coop then none else some tm.index
      6 ≤ l.cls → l.hasSlot = true → l.placing = true → l.pre = .running → overThreshold s die = true →
      columnFull s l die = true → pickedTeam s (columnTeams s die column) = some team → m.cls < l.cls →
      s.launch? tm.seq = some m → m.pre = .running → m.agent = .none → m.ended = false → m.cancelled = false →
      l.needs die = true →
      poolRoom s (launchSize m.decl (unitTeams s { m with onlyTeam := only }).length) = some p →
      ∃ t k, exec (.dispatchThresholdPreempt die seq team) s = .next t ∧ t.launch? tm.seq = some k ∧ k.pre = .draining ∧
        k.onlyTeam = only ∧ k.area = p.1 ∧ k.pool = some p ∧ t.teams = s.teams ∧ t.mem = s.mem) ∧
    (l.pre = .draining → unitTeams s l ≠ [] →
      ∃ t k, exec (.drainLimitExpiry seq) s = .next t ∧ t.mem = s.mem ∧ t.launch? seq = some k ∧ k.pre = .quiescing ∧
        ∀ n ∈ unitTeams s l, ∀ tm, t.teams[n]? = some tm → ∀ th ∈ tm.threads, th.run ≠ .running) ∧
    (l.pre ≠ .draining ∨ unitTeams s l = [] → exec (.drainLimitExpiry seq) s = .next s) ∧
    (l.pre = .quiescing → (∀ n ∈ unitTeams s l, teamStill s n = true) →
      l.area + launchSize l.decl (unitTeams s l).length ≤ hbmSize →
      ∃ t k, exec (.quiesceComplete seq) s = .next t ∧ t.launch? seq = some k ∧ k.pre = .saved ∧
        (∀ n, n ∈ k.saved ↔ n ∈ unitTeams s l) ∧
        ∀ n ∈ unitTeams s l, ∀ tm, t.teams[n]? = some tm → tm.live = false) ∧
    (l.pre = .draining → unitTeams s l = [] →
      (l.onlyTeam = none → l.placed.length < l.nteams → l.area + launchSize l.decl 0 ≤ hbmSize →
        ∃ t k, exec (.quiesceComplete seq) s = .next t ∧ t.launch? seq = some k ∧ k.pre = .saved ∧ k.saved = []) ∧
      (l.nteams ≤ l.placed.length → exec (.quiesceComplete seq) s = .next s)) ∧
    (∀ (n : Nat) (x : Claim) (tm : Team) (a : Nat), s.teams[n]? = some tm → areaOf s l.area tm.index = some a →
      s.errors = [] → s.poison = [] → s.tilePoison = [] → Memory.wf s.mem → tm.hbars.length = 4 → tm.threads.length = (declOf tm.rdw).size →
      x.scr + (declOf tm.rdw).scr ≤ 0x20000 → x.ext + (declOf tm.rdw).ext ≤ 0x40000 → x.tile + (declOf tm.rdw).tile ≤ 2 ^ 19 →
      let value (off len : Nat) : Nat := leNat ((List.range len).map fun i => memGet s.mem (a + off + i))
      let word (off : Nat) : Word := BitVec.ofNat 64 (value off 8)
      let d := declOf tm.rdw
      let t := placeSaved s l n x
      let tagged (g : Tag) (w : Nat) : Prop :=
        g.pval = w.testBit 5 ∧ g.pcnt = BitVec.ofNat 5 w ∧ g.sig = BitVec.ofNat 16 (w / 65536)
      t.l1 = (s.dropL1 x.core).l1 ∧ (∀ m, m ≠ n → t.teams[m]? = s.teams[m]?) ∧ ∃ u, t.teams[n]? = some u ∧ u.seq = tm.seq ∧
      u.index = tm.index ∧ u.rdw = tm.rdw ∧ u.core = x.core ∧ u.live = true ∧ u.scrBase = x.scr ∧ u.extBase = x.ext ∧
      u.tileBase = x.tile ∧ u.xpend = [] ∧ u.fpst = BitVec.ofNat 5 (value 0xDA0 8) ∧
      (∀ i, i < tm.x.length → u.x[i]? = some (word (0x100 + 8 * i))) ∧
      (∀ i, i < tm.bars.length → ∃ k, u.bars[i]? = some k ∧
        let lo := value (0x300 + 16 * i) 8
        let hi := value (0x308 + 16 * i) 8
        k.valid = hi.testBit 63 ∧ k.phase = hi.testBit 62 ∧ k.ea = hi / 2 ^ 51 % 2 ^ 11 ∧ k.ra = hi / 2 ^ 40 % 2 ^ 11 ∧
        k.eb = lo / 2 ^ 32 ∧ (hi % 2 ^ 40 < 2 ^ 39 → k.rb = (hi % 2 ^ 40 : Nat)) ∧
        (2 ^ 39 ≤ hi % 2 ^ 40 → k.rb = (hi % 2 ^ 40 : Nat) - (2 ^ 40 : Nat))) ∧
      (∀ i, i < tm.convs.length → ∃ k, u.convs[i]? = some k ∧
        let w := value (0x400 + 192 * i) 8
        k.valid = w.testBit 0 ∧ k.phase = w.testBit 1 ∧ k.first = w / 2 ^ 10 % 2 ^ 10 ∧ k.count = w / 2 ^ 20 % 2 ^ 11 ∧
        (∀ m, m ∈ k.signed ↔ k.first ≤ m ∧ m < 1024 ∧ (value (0x410 + 192 * i) 128).testBit (m - k.first) = true) ∧
        (k.signed = [] → k.opRec = none) ∧
        (k.signed ≠ [] → ∃ o, k.opRec = some o ∧ o.mmas = (value (0x4A8 + 192 * i) 1).testBit 0 ∧ o.c = word (0x4A0 + 192 * i) ∧
          let specs := word (0x498 + 192 * i)
          let tiled (at_ : Nat) : Bool := specs.toNat / 2 ^ at_ % 4 == 1
          ∀ j, j < 64 → o.b.getLsbD j = (specs.getLsbD j && decide (j % 32 < 17)) ∧
            o.a.getLsbD j = ((word (0x490 + 192 * i)).getLsbD j && (decide (j < 18 ∨ j = 36) ||
              (decide (18 ≤ j ∧ j < 24) && tiled 12) || (decide (24 ≤ j ∧ j < 30) && tiled 44) ||
              (decide (30 ≤ j ∧ j < 36) && o.mmas))))) ∧
      (∀ i, i < tm.strms.length → ∃ k, u.strms[i]? = some k ∧
        let w := value (0xA08 + 16 * i) 8
        k.valid = w.testBit 0 ∧ k.f = w / 2 ^ 4 % 16 ∧ k.p = w / 2 ^ 8 % 16 ∧ k.r = w / 2 ^ 12 % 16 ∧
        ∀ j, j < 64 → k.desc.getLsbD j = ((word (0xA00 + 16 * i)).getLsbD j && decide (j < 56 ∧ j ≠ 51))) ∧
      (∀ i, i < tm.tdesc.length → ∃ w, u.tdesc[i]? = some w ∧ ∀ j, j < 64 → w.getLsbD j =
        ((word (0xA80 + 8 * i)).getLsbD j && decide (j < 12 ∨ 16 ≤ j ∧ j < 30 ∨ j = 63))) ∧
      (∀ i, i < tm.ttag.length → ∃ g, u.ttag[i]? = some g ∧ tagged g (value (0xC80 + 4 * i) 4)) ∧
      (∀ i, i < 4 → ∃ b, u.hbars[i]? = some b ∧ b.phase = (value (0xD80 + 8 * i) 8).testBit 11) ∧
      (∀ i, i < d.scr → memGet t.mem (scratchLoc x.core (x.scr + i)) = memGet s.mem (a + value 0x38 8 + i)) ∧
      (∀ i, i < d.ext → memGet t.mem (scratchLoc x.core (0x20000 + x.ext + i)) = memGet s.mem (a + value 0x40 8 + i)) ∧
      (∀ i, i < d.tile → memGet t.mem (tileAt u i) = memGet s.mem (a + value 0x48 8 + i)) ∧
      ∀ k, k < d.size → ∃ th, u.threads[k]? = some th ∧
        let r (off : Nat) : Nat := 0xE00 + k * (128 + 8 * d.regs) + off
        let flags := value (r 8) 4
        let counts := value (r 0x10) 4
        let masked (w : Word) : Word := w &&& 0x0000FFFFFFFFFFF8
        let landed (w : Word) : Word := if (masked w).toNat % 128 = 0 then masked w + 8 else masked w
        th.pc = landed (word (r 0)) ∧ th.p = BitVec.ofNat 7 flags ∧ th.hnd = flags.testBit 10 ∧
        th.priv = (flags.testBit 10 || l.priv) ∧ th.fpmode = BitVec.ofNat 3 (value (r 0xC) 4) ∧
        th.skew = BitVec.ofNat 4 (value (r 0xC) 4 / 256) ∧ th.cntLd = counts % 64 ∧ th.cntSt = counts / 2 ^ 8 % 64 ∧
        th.cntAs = counts / 2 ^ 16 % 64 ∧ th.cntMx = counts / 2 ^ 24 % 64 ∧ th.xseq = BitVec.ofNat 32 (value (r 0x14) 4) ∧
        th.trapCause = BitVec.ofNat 64 (value (r 0x20) 8 % 2 ^ 17) ∧ th.trapVa = word (r 0x30) ∧
        th.trapPc = (if flags.testBit 10 || flags.testBit 9 then landed (word (r 0x28)) else masked (word (r 0x28))) ∧
        th.run = (if flags.testBit 9 then .faulted (value (r 0x38) 8) else if flags.testBit 8 then .exited else .running) ∧
        (flags / 2 ^ 12 % 16 = 0 → th.wait = .none) ∧
        (flags / 2 ^ 12 % 16 = 1 → th.wait = .bar (value (r 0x18) 8 % 4) (value (r 0x18) 8 / 4 % 4) ((value (r 0x18) 8).testBit 4)) ∧
        ∀ i, i < d.regs → th.v[i]? = some (BitVec.ofNat 32 (value (r (0x80 + 4 * i)) 4)) ∧
          ∃ g, th.tags[i]? = some g ∧ tagged g (value (r (0x80 + 4 * d.regs + 4 * i)) 4)) ∧
    (l.cancelled = true → ∀ cores, exec (.restoreTeam seq cores) s = .next s) ∧
    ∀ cores claims v, l.pre = .restoring → l.cancelled = false → l.saved ≠ [] →
      let group := restoreGroup s l
      let index (n : Nat) : Nat := (s.teams[n]?).elim 0 Team.index
      let placed := (group.zip claims).foldl (fun u x => placeSaved u l x.1 x.2) s
      let u := placed.modLaunch seq fun l => { l with
        saved := l.saved.filter fun n => !group.contains n
        reserved := l.reserved ++ claims.drop group.length }
      let rest := if l.decl.coop then l.unplaced else []
      let refs : List TRef := group.flatMap fun n =>
        (List.range (((u.teams[n]?).elim 0 fun t => t.threads.length))).map (⟨n, ·⟩)
      cores.length = group.length + rest.length → (∀ core ∈ cores, restoredFirst s l core = false) →
      groupsOnClusters l ((group.map index ++ rest).zip cores) = true →
      claimAll l.decl ((group.map index ++ rest).zip cores) s.holders = some claims →
      (∀ core ∈ cores, (u.tiles.filter fun x => x.cluster == coreCluster core).length ≤ 64) →
      resumeAll refs u = .next v → 
        exec (.restoreTeam seq cores) s = .next (finishRestore (settleClusters v group) seq)

/-- 15 R331-R335: what the save of a unit of one team writes: the head of the area and its table, the team header, the
registers, the thread records, the records of withdrawn commands, and the images of the team's partitions. TDIMG is a free
value (logs 1 and 76); which waits survive a forced stop, in WAITK, is log 74. -/
def Obligations.SaveAreas : Prop :=
  ∀ (s : State) (seq : Nat) (l : Launch) (n : Nat) (tm : Team), Awake s → Memory.wf s.mem → s.launch? seq = some l →
    l.seq = seq → l.pre = .quiescing → unitTeams s l = [n] → s.teams[n]? = some tm → teamStill s n = true →
    l.area + launchSize l.decl 1 ≤ hbmSize →
    let d := declOf tm.rdw
    let recs := tm.threads.flatMap Thread.reissue
    let commands := recs.filter fun x => x.kind != 6
    let herds := recs.filter fun x => x.kind == 6
    let tiles := tm.withdrawn
    (l.tuple.length = 8 ∧ tm.index < 2 ^ 32 ∧ tm.x.length = 64 ∧ tm.xpend = [] ∧ tm.bars.length = 16 ∧ tm.convs.length = 8 ∧
      tm.strms.length = 8 ∧ tm.tdesc.length = 64 ∧ tm.ttag.length = 64 ∧ tm.hbars.length = 4 ∧ tm.threads.length = d.size) →
    (∀ th ∈ tm.threads, th.herd = [] ∧ th.v.length = d.regs ∧ th.tags.length = d.regs) →
    (∀ k ∈ tm.convs, k.signed.Nodup ∧ ∀ m ∈ k.signed, k.first ≤ m ∧ m < k.first + 1024) →
    (∀ x ∈ commands, 0 < x.words.length ∧ x.words.length ≤ 8) → (∀ x ∈ herds, x.words.length = 11) →
    (∀ x ∈ tiles, x.words.length ≤ 4 ∧ x.descs.length ≤ 6 ∧ x.tags.length ≤ 6) →
    (commands.length < 2 ^ 16 ∧ tiles.length ≤ 64 ∧ herds.length < 2 ^ 16) →
      ∃ t, exec (.quiesceComplete seq) s = .next t ∧
        let value (off len : Nat) : Nat := leNat ((List.range len).map fun i => memGet t.mem (l.area + off + i))
        let word (off : Nat) : Nat := value off 8
        let bit (b : Bool) (k : Nat) : Nat := if b then 2 ^ k else 0
        let barrier (b : HwBar) (k : Nat) : Nat := (b.arrived.length + bit b.phase k) % 2 ^ 64
        let tag (g : Tag) : Nat := g.sig.toNat * 65536 + bit g.pval 5 + g.pcnt.toNat
        let up (k : Nat) : Nat := (k + 127) / 128 * 128
        let at_ (off : Nat) : Nat := 0x2000 + off
        let section_ (i : Nat) : Nat := word (at_ (0x20 + 8 * i))
        (word 0 = 1 ∧ word 8 = seq % 2 ^ 64 ∧ (∀ i < 8, word (0x10 + 8 * i) = (l.tuple.getD i 0).toNat) ∧ value 0x50 4 = 1 ∧
          value 0x54 4 = l.ret % 2 ^ 32 ∧ word 0x58 = (if l.decl.coop then barrier l.lbar 32 else 0) ∧ value 0x260 3488 = 0 ∧
          value 0x1000 4 = tm.index ∧ value 0x1004 4 = 0 ∧ word 0x1008 = 0x2000) ∧
        (word (at_ 0) = tm.index ∧ word (at_ 8) = tm.rdw.toNat ∧ value (at_ 0x10) 4 = commands.length ∧
          value (at_ 0x14) 4 = tiles.length ∧ value (at_ 0x18) 4 = herds.length ∧ value (at_ 0x1C) 4 = 0 ∧
          word (at_ 0x58) = (if l.decl.clus ∧ tm.index % 4 = 0 then barrier (s.hwBar n 1 0) 16 else 0) ∧
          value (at_ 0x60) 160 = 0) ∧
        (section_ 0 = up (0xE00 + d.size * (128 + 8 * d.regs)) ∧ section_ 1 = up (section_ 0 + 64 * commands.length) ∧
          section_ 2 = up (section_ 1 + 128 * tiles.length) ∧ section_ 3 = up (section_ 2 + 256 * herds.length) ∧
          section_ 4 = up (section_ 3 + d.scr) ∧ section_ 5 = up (section_ 4 + d.ext) ∧
          section_ 6 = section_ 5 + d.tile) ∧
        (∀ i < 64, word (at_ (0x100 + 8 * i)) = (tm.x.getD i 0).toNat ∧
          word (at_ (0xA80 + 8 * i)) = (tm.tdesc.getD i 0).toNat ∧ value (at_ (0xC80 + 4 * i)) 4 = tag (tm.ttag.getD i {})) ∧
        (∀ i < 16, let b := tm.bars.getD i {}
          word (at_ (0x300 + 16 * i)) = b.eb * 2 ^ 32 % 2 ^ 64 ∧ word (at_ (0x308 + 16 * i)) =
            (bit b.valid 63 + bit b.phase 62 + b.ea * 2 ^ 51 + b.ra * 2 ^ 40 + (b.rb % (2 ^ 40 : Nat)).toNat) % 2 ^ 64) ∧
        (∀ i < 8, let k := tm.convs.getD i {}
          let q := tm.strms.getD i {}
          let c (off : Nat) : Nat := at_ (0x400 + 192 * i + off)
          word (c 0) = (bit k.valid 0 + bit k.phase 1 + k.first * 2 ^ 10 + k.count * 2 ^ 20) % 2 ^ 64 ∧
          (∀ j < 1024, (value (c 16) 128).testBit j = decide (k.first + j ∈ k.signed)) ∧ value (c 169) 23 = 0 ∧
          (match k.opRec with
            | none => value (c 144) 25 = 0
            | some r => word (c 144) = r.a.toNat ∧ word (c 152) = r.b.toNat ∧ word (c 160) = r.c.toNat ∧
                value (c 168) 1 = bit r.mmas 0) ∧
          word (at_ (0xA00 + 16 * i)) = q.desc.toNat ∧
          word (at_ (0xA08 + 16 * i)) = (bit q.valid 0 + q.f * 2 ^ 4 + q.p * 2 ^ 8 + q.r * 2 ^ 12) % 2 ^ 64) ∧
        (∀ i < 4, word (at_ (0xD80 + 8 * i)) = barrier (tm.hbars.getD i {}) 11) ∧ word (at_ 0xDA0) = tm.fpst.toNat ∧
        value (at_ 0xDA8) 88 = 0 ∧
        (∀ k th, tm.threads[k]? = some th →
          let r (off : Nat) : Nat := at_ (0xE00 + k * (128 + 8 * d.regs) + off)
          let stopped := ∃ fid, th.run = .faulted fid
          let flags := value (r 8) 4
          word (r 0) = th.pc.toNat ∧ flags % 2 ^ 7 = th.p.toNat ∧ flags.testBit 8 = th.isOver ∧
          (flags.testBit 9 = true ↔ stopped) ∧ flags.testBit 10 = th.hnd ∧
          value (r 0xC) 4 = th.fpmode.toNat + th.skew.toNat * 2 ^ 8 ∧
          value (r 0x10) 4 = (th.cntLd + th.cntSt * 2 ^ 8 + th.cntAs * 2 ^ 16 + th.cntMx * 2 ^ 24) % 2 ^ 32 ∧
          value (r 0x14) 4 = th.xseq.toNat ∧ word (r 0x20) = th.trapCause.toNat ∧ word (r 0x28) = th.trapPc.toNat ∧
          word (r 0x30) = th.trapVa.toNat ∧ (∀ fid, th.run = .faulted fid → word (r 0x38) = fid % 2 ^ 64) ∧
          value (r 0x40) 64 = 0 ∧
          (match th.wait with
            | .bar scope num ph => flags / 2 ^ 12 = 1 ∧ word (r 0x18) = (scope + num * 4 + bit ph 4) % 2 ^ 64
            | .qpop _ slot _ => flags / 2 ^ 12 = 2 ∧ word (r 0x18) = slot % 2 ^ 64
            | _ => (∀ x ∈ th.reissue, x.kind ≠ 6) → flags / 2 ^ 12 = 0 ∧ word (r 0x18) = 0) ∧
          ∀ i < d.regs, value (r (0x80 + 4 * i)) 4 = (th.v.getD i 0).toNat ∧
            value (r (0x80 + 4 * d.regs + 4 * i)) 4 = tag (th.tags.getD i {})) ∧
        (∀ i x, commands[i]? = some x → ∀ j < 8,
          word (at_ (section_ 0 + 64 * i + 8 * j)) = (x.words.getD j 0).toNat) ∧
        (∀ i x, tiles[i]? = some x → let r (off : Nat) : Nat := at_ (section_ 1 + 128 * i + off)
          word (r 0) = (x.fn + x.d * 2 ^ 4 + x.tid * 2 ^ 10 + i * 2 ^ 20) % 2 ^ 64 ∧
          (∀ a b, x.words = [a, b] → word (r 8) = a.toNat ∧ word (r 16) = 0 ∧ word (r 24) = b.toNat ∧ word (r 32) = 0) ∧
          (∀ a b c, x.words = [a, b, c] →
            word (r 8) = a.toNat ∧ word (r 16) = 0 ∧ word (r 24) = b.toNat ∧ word (r 32) = c.toNat) ∧
          (∀ a b c e, x.words = [a, b, c, e] →
            word (r 8) = a.toNat ∧ word (r 16) = b.toNat ∧ word (r 24) = c.toNat ∧ word (r 32) = e.toNat) ∧
          ∀ j < 6, word (r (40 + 8 * j)) = (x.descs.getD j 0).toNat ∧ value (r (88 + 4 * j)) 4 = tag (x.tags.getD j {})) ∧
        (∃ order : List Reissue, order.Perm herds ∧ order.Pairwise (fun x y => x.park ≤ y.park) ∧
          ∀ i x, order[i]? = some x → let r (off : Nat) : Nat := at_ (section_ 2 + 256 * i + off)
            (∀ j < 3, word (r (8 * j)) = (x.words.getD j 0).toNat) ∧
            ∀ j < 8, word (r (128 + 8 * j)) = (x.words.getD (3 + j) 0).toNat) ∧
        (∀ i < d.scr, memGet t.mem (l.area + at_ (section_ 3) + i) = memGet s.mem (scratchLoc tm.core (tm.scrBase + i))) ∧
        (∀ i < d.ext, memGet t.mem (l.area + at_ (section_ 4) + i) =
          memGet s.mem (scratchLoc tm.core (0x20000 + tm.extBase + i))) ∧
        ∀ i < d.tile, memGet t.mem (l.area + at_ (section_ 5) + i) = memGet s.mem (tileAt tm i)

/-! ### The host, the links, the columns and the boot (16, 18) -/

/-- 18 R372, R376, R377, R383, R386, 14 R301: what each request of the host leaves, by a privileged agent and by one
that is not, whose access to CONTROL, REGION or HBM is refused with a record; the statuses of PRE, RES and KVX; an
attestation report. 18 R372-R379, 14 R301: what the host and remote devices write: descriptors, work entries, CONTROL,
the windows' try deposits with their BAD counts, compute HBM, the enabled bytes of a partial write; what a remote read
and a returning atomic are answered, and a request not supported: an error; what the host reads of HBM; a read of
poisoned bytes ends in error (log 104). 18 R386: the bytes of an exported image. An agent's access waits while a
window deposit of its own has not been performed (R374). Model's choices: logs 16, 19 (past the installed HBM), 50
(the imported sequence's number), 59, 69, 70, 71, 103, 104, 121 (RES's BADIMG on another SEQ). -/
def Obligations.HostRequests : Prop :=
  (∀ (s : State) (ag : HostAgent) (val : Word), Awake s →
    let refused (off : Nat) : Out State := .next (s.postRecord 0 8 ag.channel.toNat (BitVec.ofNat 64 off) 1)
    let hst (h : HostPart) : Out State := .next { s with hst := h }
    let mine (x : HSrc) : Prop := ∃ r n, x = .window r n (some ag.channel.toNat)
    let waits : Prop := (∃ q ∈ s.herd.flying, mine q.src) ∨ ∃ d ∈ s.herd.done, mine d.src
    (waits → (∀ val, exec (.pre ag val) s = .next s ∧ exec (.res ag val) s = .next s ∧ exec (.attgo ag val) s = .next s) ∧
      (∀ kind off data, exec (.depositWindowWrite ⟨ag, kind⟩ off data) s = .next s) ∧
      (∀ region off data, exec (.regionWindowWrite ag region off data) s = .next s) ∧
      ∀ wr addr len data, exec (.hostHbmAccess ag wr addr len data) s = .next s) ∧
    (¬ waits → ag.priv = false →
      exec (.pre ag val) s = refused 0x1000 ∧ exec (.res ag val) s = refused 0x1008 ∧
      exec (.kvxExport ag val) s = refused 0x1010 ∧ exec (.kvxImport ag val) s = refused 0x1010 ∧
      exec (.attgo ag val) s = refused 0x2040 ∧
      (∀ kind w0 w1, kind < 65536 → exec (.qdescWrite ag kind w0 w1) s = refused (0x100000 + 16 * kind)) ∧
      (∀ level id off w, level < 3 → id < 4096 → off < 64 →
        exec (.workEntryWrite ag level id off w) s = refused (0x200000 + (level * 4096 + id) * 64 + off)) ∧
      (∀ off w, 0x1000 ≤ off → off < 0x1000000 → exec (.hostControlWrite ag off w) s = refused off) ∧
      (∀ region off data, region < 4096 → off < 4096 →
        exec (.regionWindowWrite ag region off data) s = refused (0x11000000 + region * 0x1000 + off))) ∧
    (¬ waits → ag.priv = true →
      let seq := val.toNat % 2 ^ 48
      let l := s.launch seq
      let size := launchSize l.decl (liveTeams s seq).length
      (s.launch? seq = none → exec (.pre ag val) s = hst { s.hst with pre := 1, preSeq := none }) ∧
      (s.launch? seq = some l → l.ended = true → exec (.pre ag val) s = hst { s.hst with pre := 2, preSeq := none }) ∧
      (∀ p, s.launch? seq = some l → l.ended = false → l.cancelled = false → l.pre = .running → l.agent = .none →
        poolRoom s size = some p → l.seq = seq →
        ∃ t k, exec (.pre ag val) s = .next t ∧ t.hst.pre = 0xFF ∧ t.hst.preSeq = some seq ∧ t.launch? seq = some k ∧
          k.agent = .host ∧ k.area = p.1 ∧ k.pool = some p ∧
          k.pre = (if val.getLsbD 63 then .quiescing else .draining)) ∧
      (s.launch? seq = some l → l.ended = false →
        (l.pre ≠ .running ∨ l.agent ≠ .none → exec (.pre ag val) s = hst { s.hst with pre := 4, preSeq := none }) ∧
        (l.pre = .running → l.agent = .none → poolRoom s size = none →
          exec (.pre ag val) s = hst { s.hst with pre := 3, preSeq := none })) ∧
      (let named := (if seq = 0 then s.hst.lastPre.getD 0 else seq);
        (s.launch? named = none → exec (.res ag val) s = hst { s.hst with res := 1, resSeq := none }) ∧
        ∀ m, s.launch? named = some m →
          (m.pre ≠ .saved ∨ m.pool = none → exec (.res ag val) s = hst { s.hst with res := 1, resSeq := none }) ∧
          (m.pre = .saved → m.pool.isSome →
            areaNat s m.area 8 ≠ 1 ∨ areaNat s (m.area + 8) 8 ≠ named ∨ imageGood s m m.area = false →
            exec (.res ag val) s = hst { s.hst with res := 5, resSeq := none }) ∧
          (m.pre = .saved → m.pool.isSome → areaNat s m.area 8 = 1 → areaNat s (m.area + 8) 8 = named →
            imageGood s m m.area = true → m.saved ≠ [] → m.seq = named →
            ∃ t k, exec (.res ag val) s = .next t ∧ t.hst.res = 0xFF ∧ t.hst.resSeq = some named ∧
              t.launch? named = some k ∧ k.pre = .restoring ∧ k.agent = .host)) ∧
      (val.getLsbD 63 = false → s.seq? (val.toNat % 65536) = none → exec (.kvxExport ag val) s = hst { s.hst with kvx := 1 }) ∧
      (∀ r, val.getLsbD 63 = false → s.seq? (val.toNat % 65536) = some r →
        (kvxBusy s r = true → exec (.kvxExport ag val) s = hst { s.hst with kvx := 2 }) ∧
        (kvxBusy s r = false →
          let a := s.hst.kvxa.toNat
          let count := r.chains.length
          let before (i : Nat) : Nat := ((r.chains.take i).map fun k => k.pages.length).sum
          ∃ t, exec (.kvxExport ag val) s = .next t ∧ t.hst = { s.hst with kvx := 0 } ∧ t.seqs = s.seqs ∧
            (Memory.wf s.mem → a + 1024 + 16 * count + 0x14000 * before count ≤ hbmSize → r.window.length ≤ 64 →
              (areaNat t a 1, areaNat t (a + 1) 1, areaNat t (a + 2) 1, areaNat t (a + 3) 1) =
                (r.nl % 256, r.nh % 256, r.hd / 16 % 256, r.npl % 256) ∧
              (areaNat t (a + 4) 4, areaNat t (a + 8) 4) = (r.w0 % 2 ^ 32, r.window.length) ∧
              (∀ i x, r.window[i]? = some x →
                (areaNat t (a + 0x200 + 8 * i) 4, areaNat t (a + 0x204 + 8 * i) 4) = (x.1 % 2 ^ 32, x.2 % 2 ^ 32)) ∧
              ∀ i k, r.chains[i]? = some k →
                let b := a + 1024 + 16 * i
                (areaNat t b 4, areaNat t (b + 4) 4, areaNat t (b + 8) 4) =
                  (k.base % 2 ^ 32, k.len % 2 ^ 32, k.pages.length % 2 ^ 32) ∧
                ∀ j p, k.pages[j]? = some p → p < 2 ^ 24 →
                  let page := a + 1024 + 16 * count + 0x14000 * (before i + j)
                  let shared := 1 < pageRefs s p
                  let own := min 64 (k.len - pagePbase s p)
                  areaNat t page 4 = 0xFFFFFFFF ∧ areaNat t (page + 0x0F) 1 = 1 ∧
                  ∀ off, 4 ≤ off → off < 0x14000 → off ≠ 0x0F → memGet t.mem (page + off) =
                    if shared ∧ off = 0x0C then BitVec.ofNat 8 (min (pageNat s p 0x0C 1) own)
                    else if shared ∧ 0x280 + 4 * own ≤ off ∧ off < 0x380 then 0
                    else memGet s.mem (pageLoc p off)))) ∧
      (val.getLsbD 63 = true → hbmSize < s.hst.kvxa.toNat + 1024 →
        exec (.kvxImport ag val) s = hst { s.hst with kvx := 3 }) ∧
      (val.getLsbD 63 = true → s.hst.kvxa.toNat + 1024 ≤ hbmSize →
        let image := imageRecord s s.hst.kvxa.toNat (val.toNat / 65536 % 4096) ((freeSeq s).getD 0)
        (image = none → exec (.kvxImport ag val) s = hst { s.hst with kvx := 3 }) ∧
        ∀ r chains, image = some (r, chains) →
          let total := chains.foldl (fun k (x : ImageChain) => k + x.count) 0
          let last := s.hst.kvxa.toNat + 1024 + 16 * chains.length + 0x14000 * total
          (hbmSize < last → exec (.kvxImport ag val) s = hst { s.hst with kvx := 3 }) ∧
          (last ≤ hbmSize → freeSeq s = none ∨ allocPages total s = none →
            exec (.kvxImport ag val) s = hst { s.hst with kvx := 4 }) ∧
          ∀ n pool u, last ≤ hbmSize → freeSeq s = some n → allocPages total s = some (pool, u) → ∃ t q,
            exec (.kvxImport ag val) s = .next t ∧ t.hst = { u.hst with kvx := BitVec.ofNat 64 (2 ^ 63 + n) } ∧
            t.seqs = s.seqs ++ [q] ∧ q.num = n ∧ q.ctx = val.toNat / 65536 % 4096) ∧
      exec (.attgo ag val) s =
        (if val = 1 ∧ s.hst.producing = none then hst { s.hst with producing := some s.hst.nonce, report := [] }
        else .next s)) ∧
    (s.hst.producing = none → exec .reportProduced s = .next s) ∧
    ∀ nonce, s.hst.producing = some nonce → nonce.length = 8 →
      ∃ t, exec .reportProduced s = .next t ∧ t.hst.producing = none ∧ t.hst.report.length = 512 ∧
        t.hst.report.take 64 = nonce.flatMap (fun w => leBytes 8 w.toNat) ∧
        (t.hst.report.drop 64).take 64 = (List.range 64).map (Config.sha512 s.boot.header) ∧
        leNat ((t.hst.report.drop 128).take 2) = s.boot.fwver.toNat ∧ leNat ((t.hst.report.drop 130).take 2) = s.boot.fuse.toNat ∧
        (t.hst.report.drop 132).take 148 = (List.range 148).map Config.identityByte ∧
        (t.hst.report.drop 280).take 132 = (List.range 132).map (Config.identitySignature s.free (t.hst.report.take 280)) ∧
        t.hst.report.drop 412 = List.replicate 100 0) ∧
  ∀ (s : State) (ag : HostAgent), Awake s →
    (∀ q ∈ s.herd.flying, ∀ r n, q.src ≠ .window r n (some ag.channel.toNat)) →
    (∀ d ∈ s.herd.done, ∀ r n, d.src ≠ .window r n (some ag.channel.toNat)) →
    let deposit (isRegion : Bool) (num region : Nat) (fields : List Word) : Out State :=
      let q : HReq := { uid := s.uid, src := .window isRegion num (some ag.channel.toNat), op := .dep 0 true, region := region, fields := fields,
                        pat := 0, handle := 0, core := 0, mark := 0 }
      .next { s with uid := s.uid + 1, herd := { s.herd with flying := s.herd.flying ++ [q] } }
    let bad (i : Instr) (isRegion : Bool) (num : Nat) : Prop :=
      ∃ t, exec i s = .next t ∧ t.herd = s.herd ∧ t.mem = s.mem ∧
        windowCount t isRegion num = { windowCount s isRegion num with bad := (windowCount s isRegion num).bad + 1 }
    let tuple (data : List Byte) : List Word :=
      (List.range 8).map fun i => BitVec.ofNat 64 (leNat ((data.drop (8 * i)).take 8))
    (ag.priv = true → ∀ kind w0 w1, kind < 65536 → ∃ t, exec (.qdescWrite ag kind w0 w1) s = .next t ∧
      t.qdesc kind = ⟨kind, w0 &&& 0x000FFFFFFFFFFFFF#64, w1 &&& 0xC0000000000107FF#64⟩ ∧
      (∀ k, k ≠ kind → t.qdesc k = s.qdesc k) ∧ t.mem = s.mem ∧ t.teams = s.teams) ∧
    (ag.priv = true → ∀ level id off val, level < 3 → 0 < id → id < 4096 →
      let e := s.work level id
      ∃ t, exec (.workEntryWrite ag level id off val) s = .next t ∧ t.mem = s.mem ∧ t.teams = s.teams ∧
        (∀ k i, k ≠ level ∨ i ≠ id → t.work k i = s.work k i) ∧
        t.work level id =
          if off = 8 then { e with can := e.can && val.getLsbD 0, ctx := val.toNat / 65536 % 4096 }
          else if off = 0x10 then { e with pb0 := val }
          else if off = 0x18 then { e with pb1 := val }
          else if off = 0x20 then { e with sz := val }
          else e) ∧
    (ag.priv = true → ∀ val,
      exec (.hostControlWrite ag 0x1018 val) s = .next { s with hst := { s.hst with kvxa := val &&& 0xFFFFFFFFFFFFF000#64 } } ∧
      ∀ n, n < 8 → exec (.hostControlWrite ag (0x2000 + 8 * n) val) s =
        .next { s with hst := { s.hst with nonce := s.hst.nonce.set n val } }) ∧
    (∀ off val, off < 0x1000 → exec (.hostControlWrite ag off val) s = .next s) ∧
    (∀ kind off data, kind < 65536 → off < 4096 →
      (off ≠ 0 ∨ data.length ≠ 64 ∨ s.boot.ready = false → bad (.depositWindowWrite ⟨ag, kind⟩ off data) false kind) ∧
      (off = 0 → data.length = 64 → s.boot.ready = true →
        let w := (tuple data).getD 7 0
        let cls := min (w.toNat % 8) (s.qdesc kind).clsMax
        exec (.depositWindowWrite ⟨ag, kind⟩ off data) s = deposit false kind 0xFFF
          (((tuple data).set 0 (BitVec.ofNat 64 kind)).set 7 ((w &&& 0xFFFFFFFFFFFFFFF8#64) ||| BitVec.ofNat 64 cls)))) ∧
    (ag.priv = true → ∀ region off data, region < 4096 → off < 4096 →
      let taken := off = 0 ∧ data.length = 64 ∧ s.boot.ready = true ∧ region ≠ 0xFFF ∧
        ∃ r, s.herd.region? region = some r ∧ r.scope = 5
      (taken → exec (.regionWindowWrite ag region off data) s = deposit true region region (tuple data)) ∧
      (¬ taken → bad (.regionWindowWrite ag region off data) true region)) ∧
    let writes (i : Instr) (addr : Nat) (data : List Byte) : Prop :=
      ∃ t, exec i s = .next t ∧ t.mem = memSetAll s.mem (cellsAt addr data) ∧ t.teams = s.teams ∧ t.boot = s.boot
    let bytes (addr len : Nat) : List Byte := (List.range len).map fun i => memGet s.mem (addr + i)
    let clean (addr len : Nat) : Prop := damaged s ((List.range len).map (addr + ·)) = false
    let spoilt (addr len : Nat) : Prop := anyPoison s ((List.range len).map (addr + ·)) = true
    let answered (i : Instr) (a : LinkAnswer) (mem : List Host.Cell) : Prop :=
      ∃ t, exec i s = .next t ∧ t.answers = s.answers ++ [a] ∧ t.mem = mem ∧ t.teams = s.teams
    let toHost (addr : Nat) (b : List Byte) (error : Bool) : LinkAnswer :=
      { loc := 2 ^ 32 + addr, bytes := b, atomic := false, error := error, agent := some ag.channel }
    (∀ addr len data, addr < 0xC000000000 →
      (ag.priv = false → answered (.hostHbmAccess ag false addr len data) (toHost addr (List.replicate len 0) false) s.mem) ∧
      (ag.priv = true → addr + len ≤ 0xC000000000 →
        (clean addr len → answered (.hostHbmAccess ag false addr len data) (toHost addr (bytes addr len) false) s.mem) ∧
        (spoilt addr len → answered (.hostHbmAccess ag false addr len data) (toHost addr [] true) s.mem))) ∧
    (∀ wr addr data,
      (ag.priv = false → addr < 0xC000000000 → exec (.hostHbmAccess ag true addr data.length data) s =
        .next (s.postRecord 0 8 ag.channel.toNat (BitVec.ofNat 64 (2 ^ 32 + addr)) 1)) ∧
      (0xC000000000 ≤ addr → exec (.hostHbmAccess ag wr addr data.length data) s = .next s) ∧
      (ag.priv = true → addr < 0xC000000000 → addr + data.length ≤ 0xC000000000 →
        writes (.hostHbmAccess ag true addr data.length data) addr data)) ∧
    (s.boot.ports = [] → ∀ req, exec (.remoteRequest req) s = .next s) ∧
    (s.boot.ports ≠ [] →
      let failed (addr : Nat) (atomic : Bool) : LinkAnswer := { loc := addr, bytes := [], atomic := atomic, error := true }
      let refused (req : RemoteReq) (addr : Nat) : Prop :=
        exec (.remoteRequest req) s = .next { s.postRecord 0 7 (s.boot.ports.headD 0) 0 0 with
          answers := s.answers ++ [{ loc := addr, bytes := [], atomic := false, error := true }] }
      refused .unsupported 0 ∧ (∀ addr len, 256 < len → refused (.read addr len) addr) ∧
      (∀ addr data enables, 256 < data.length → refused (.write addr data enables) addr) ∧
      (∀ addr len, len ≤ 256 → 0 < len → addr + len ≤ 0xC000000000 →
        (clean addr len → answered (.remoteRequest (.read addr len)) { loc := addr, bytes := bytes addr len, atomic := false } s.mem) ∧
        (spoilt addr len → answered (.remoteRequest (.read addr len)) (failed addr false) s.mem)) ∧
      (∀ addr data, data.length ≤ 256 → addr + data.length ≤ 0xC000000000 →
        writes (.remoteRequest (.write addr data [])) addr data ∧
        ∀ enables, enables.length = data.length → Memory.wf s.mem → ∃ t,
          exec (.remoteRequest (.write addr data enables)) s = .next t ∧ t.teams = s.teams ∧
          MemKept s t ((List.range data.length).map (addr + ·)) ∧ ∀ i < data.length,
            memGet t.mem (addr + i) = if enables.getD i false then data.getD i 0 else memGet s.mem (addr + i)) ∧
      ∀ (op : BitVec 4) (ty : BitVec 3) addr compare v cmp,
        let size := if ty.toNat = 1 then 8 else 4
        let old := BitVec.ofNat 64 (leNat (bytes addr size))
        let same : Prop := if ty.toNat = 1 then old = cmp else old.setWidth 32 = cmp.setWidth 32
        let new : Word := if compare then v else newValue op.toNat ty.toNat old v
        let stores : Prop := if compare then same else op.toNat ≠ 12
        addr + size ≤ 0xC000000000 → (spoilt addr size →
          answered (.remoteRequest (.atomic true op ty compare addr v cmp)) (failed addr true) s.mem) ∧ ∀ mem, clean addr size → (stores → mem = memSetAll s.mem (cellsAt addr (leBytes size new.toNat))) →
          (¬ stores → mem = s.mem) →
          answered (.remoteRequest (.atomic true op ty compare addr v cmp)) { loc := addr, bytes := bytes addr size, atomic := true } mem ∧
          ∃ t, exec (.remoteRequest (.atomic false op ty compare addr v cmp)) s = .next t ∧ t.answers = s.answers ∧
            t.mem = mem)

/-- 16 R343-R347, 18 R379, R380, R384, R387, 07 R162, R163: ports, the device number, dropped link writes, the
columns' records and limits, retention and poison. Model's choices: logs 32, 44, 72, 86, 87; that an event that is not
due changes nothing, log 16; that poison of a register falls on one 32-bit vector register, log 80; and the unit and
details of a layer's record of KIND 5, log 116. -/
def Obligations.DeviceEvents : Prop :=
  ∀ (s : State), Awake s →
    (∀ num, exec (.deviceNumberAssign num) s = .next
      (if s.boot.ports ≠ [] ∧ s.boot.device = none ∧ num < 1024 then { s with boot := { s.boot with device := some num } }
      else s)) ∧
    (∀ port, (port ∉ s.boot.ports → exec (.portFailure port) s = .next s) ∧
      (port ∈ s.boot.ports → s.boot.ports ≠ [port] ∨ remoteReturning s = false → ∃ t, exec (.portFailure port) s = .next t ∧ t.mem = s.mem ∧
        t.boot = { s.boot with ports := s.boot.ports.filter fun p => p != port })) ∧
    (∀ (e : QEntry) (bytes : List Host.Cell) (th : Thread), s.queue.find? (fun x => x.uid == e.uid) = some e →
      e.what = .write bytes → e.locs.any isRemote = true → (canPerform s e.core (queueIndex s e)).isSome →
      s.thread e.who = some th →
      let k := (bytes.findIdx? fun w => isRemote w.1).getD 0
      let va := if e.planes = [] then e.va + BitVec.ofNat 64 k else e.planes.getD (k / 2) e.va
      ∃ t, exec (.linkFailure e.uid) s = .next t ∧ t.mem = memSetAll s.mem (bytes.filter fun w => !isOutside w.1) ∧
        (∀ x ∈ t.queue, x.uid ≠ e.uid) ∧
        t.thread e.who = some { th with cntSt := th.cntSt - 1, linkFail := some (th.linkFail.getD va) }) ∧
    (∀ column (x : ColumnSample), column < 768 → ∃ t, exec (.telemetrySample column x) s = .next t ∧ t.mem = s.mem ∧
      (columnRec t column).sno = (columnRec s column).sno + 1 ∧ (columnRec t column).sample = x ∧
      (columnRec t column).thr = ((s.cols.throttled.find? fun y => y.1 == column).map Prod.snd).getD 0 ∧
      (∀ y, y / 384 = column / 384 → (columnRec t y).sample.dthr = x.dthr) ∧ ∀ y ∈ t.cols.throttled, y.1 ≠ column) ∧
    (∀ column (layers : BitVec 4), column < 768 → ∃ t, exec (.columnThrottle column layers) s = .next t ∧
      t.cols.records = s.cols.records ∧ (column, ((s.cols.throttled.find? fun y => y.1 == column).map Prod.snd).getD 0 ||| layers) ∈
        t.cols.throttled) ∧
    (∀ column layer, column < 768 → layer < 4 →
      ((column, layer) ∉ s.cols.critical → ∃ t, exec (.criticalTemperature column layer) s = .next t ∧
        t.cols = { s.cols with critical := s.cols.critical ++ [(column, layer)] } ∧ t.mem = s.mem ∧
        t.hst = (s.postRecord (column / 384) 5 column (BitVec.ofNat 64 column) (BitVec.ofNat 64 layer)).hst) ∧
      ((column, layer) ∈ s.cols.critical → exec (.layerCooled column layer) s = .next { s with
        cols := { s.cols with critical := s.cols.critical.filter fun x => x != (column, layer) } }) ∧
      ∃ t, exec (.tripLimit column layer) s = .next t ∧ t.mem = s.mem ∧
        t.boot = { s.boot with ready := false, fail := true, fcode := 0x30, held := true } ∧
        t.hst = (s.postRecord (column / 384) 5 column (BitVec.ofNat 64 column) (BitVec.ofNat 64 layer)).hst) ∧
    (∀ core bank group slice cluster, core < 1536 → bank < 6 → group < 4 → slice < 320 → cluster < 384 →
      ∀ unit ∈ [ArrayUnit.registerBank core bank, .scratchBanks core group, .extension core, .l2Slice slice,
        .tileFile cluster], unit ∉ s.retained →
      exec (.retentionEntry unit) s = .next { s with retained := s.retained ++ [unit] }) ∧
    (∀ unit, unit ∈ s.retained → exec (.retentionExit unit) s =
      .next { s with retained := s.retained.filter fun x => x != unit }) ∧
    (∀ granule, 8 * granule < 0xC000000000 → granule ∉ s.poison → (∀ a ∈ s.tilePoison, a / 8 ≠ granule) →
      poisonWaits s [8 * granule] = false →
      ∃ t, exec (.poisonMark (.granule granule)) s = .next t ∧ t.mem = s.mem ∧ t.poison = granule :: s.poison ∧
        t.tilePoison = s.tilePoison ∧ t.errors = s.errors.filter fun g => g != granule) ∧
    (∀ dep (x : HTuple), s.herd.tuples.find? (fun t => t.dep == dep) = some x →
      (∀ q ∈ s.herd.flying, q.region ≠ x.region) → ∃ t, exec (.poisonMark (.tuple dep)) s = .next t ∧ t.mem = s.mem ∧
        t.herd = { s.herd with flaws := (dep, true) :: s.herd.flaws.filter fun y => y.1 != dep }) ∧
    ∀ (r : TRef) (th : Thread) n, s.thread r = some th → n < th.v.length →
      ∃ t, exec (.poisonMark (.vreg r.team r.tid n)) s = .next t ∧
        Became s t r { th with flaws := (n, true) :: th.flaws.filter fun x => x.1 != n }

/-- 18 R381, R382, R395, R384: a reset, and each stage of the boot after the stage before it: its success and its
failure; the header of a firmware image, its digests and its signature. Model's choices: no port is up after a reset (log
10), the reservation record is absent before START (log 7), the free pages stand as one run (log 47), SHA-512 and ECDSA
are functions that the model does not open (log 103), a held device makes no move (log 17), and a stage that is not due
changes nothing (log 16). -/
def Obligations.BootStages : Prop :=
  ∀ (s : State),
    (∀ warm, ∃ t, exec (.reset warm) s = .next t ∧ t.mem = s.mem ∧ t.teams = [] ∧ t.launches = [] ∧ t.herd = {} ∧
      t.nextSeq = 1 ∧ t.boot = { warm := warm, fuse := s.boot.fuse } ∧ t.hst.elogs = [{}, {}, {}] ∧ t.hst.qdescs = [] ∧
      t.hst.resv = none) ∧
    (Awake s → s.boot.fail = false →
      let failed (stage code : Nat) : Out State :=
        .next { s with boot := { s.boot with stage := stage, fail := true, fcode := code } }
      (s.boot.stage = 0 → ∀ ports code, (∀ p ∈ ports, p < 8) →
        (1 ≤ code → code ≤ 4 → exec (.calib ports code) s = failed 1 code) ∧
        (code = 0 → ∃ t, exec (.calib ports code) s = .next t ∧ t.boot.stage = 1 ∧ t.boot.fail = false ∧
          (∀ p, p ∈ t.boot.ports ↔ p ∈ ports) ∧ t.mem = s.mem)) ∧
      (s.boot.stage = 1 → (∀ code, code ≠ 0 → exec (.meminit code) s = failed 2 5) ∧
        ∃ t, exec (.meminit 0) s = .next t ∧ t.boot = { s.boot with stage := 2, fcode := 0 } ∧ t.mem = [] ∧ t.poison = [] ∧
          t.tilePoison = [] ∧ t.errors = []) ∧
      (s.boot.stage = 2 → ∀ im : FirmwareImage,
        let part (off len : Nat) : List Byte := (im.header.drop off).take len
        let digest (bs : List Byte) : List Byte := (List.range 64).map (Config.sha512 bs)
        let formed := im.header.length = 512 ∧ leNat (part 0 8) = 0x4E5846444A524E4D ∧ leNat (part 0xC 4) = im.body.length ∧
          part 0x158 168 = List.replicate 168 0
        let sound := digest (part 0x50 132) = (List.range 64).map Config.vendorDigest ∧
          Config.ecdsaVerifies (part 0x50 132) (part 0xD4 132) (part 0 0xD4) = true ∧ digest im.body = part 0x10 64
        let version : BitVec 16 := BitVec.ofNat 16 (leNat (part 8 2))
        let floor : BitVec 16 := BitVec.ofNat 16 (leNat (part 0xA 2))
        (¬ formed → exec (.fwcheck im) s = failed 3 0x12) ∧
        (formed → ¬ sound → exec (.fwcheck im) s = failed 3 0x10) ∧
        (formed → sound → version < s.boot.fuse → exec (.fwcheck im) s = failed 3 0x11) ∧
        (formed → sound → s.boot.fuse ≤ version → exec (.fwcheck im) s = .next { s with
          boot := { s.boot with stage := 3, fcode := 0, fwver := version, header := im.header,
                                fuse := if s.boot.fuse < floor then floor else s.boot.fuse } })) ∧
      (s.boot.stage = 3 → (∀ r code, code ≠ 0 → exec (.start r code) s = failed 4 0x20) ∧
        ∀ r, recordGood r = true → ∃ t, exec (.start r 0) s = .next t ∧ t.boot.stage = 5 ∧ t.boot.ready = true ∧
          t.boot.fail = false ∧ t.hst.resv = some r ∧ t.mem = s.mem ∧
          t.herd.region? 0xFFF = some ⟨0xFFF, true, 5, r.launchSize, r.launchBase, 0⟩ ∧
          t.herd.region? 0xFFE = some ⟨0xFFE, false, 5, r.faultSize, r.faultBase, 0⟩ ∧
          t.herd.region? 0xFFD = some ⟨0xFFD, false, 4, r.pageSize, r.pageBase, 0⟩ ∧ t.herd.pages = [(0, 3355443)]) ∧
      ∀ im r ports, (s.boot.stage ≠ 0 → exec (.calib ports 0) s = .next s) ∧
        (s.boot.stage ≠ 1 → exec (.meminit 0) s = .next s) ∧ (s.boot.stage ≠ 2 → exec (.fwcheck im) s = .next s) ∧
        (s.boot.stage ≠ 3 → exec (.start r 0) s = .next s)) ∧
    (∀ i : Instr, s.boot.held = true → (∃ ag val, i = .pre ag val) ∨ (∃ die, i = .tdTake die) ∨ (∃ uid, i = .copyStart uid) →
      exec i s = .next s)

/-! ### The machine as a whole -/

/-- 01 R20-R22, 02 R25, R27, R43, R47, 07 R163: the cycle of every full word and pair word. A word that names an awaited
register, or one in a sleeping bank, does not issue; the first check that fails traps, before the guard is looked at;
and under a false guard every word but a cross-thread one only passes. The guard is p[GP], or its negation when GN = 1,
which GP = 7 does not allow. The sequential successor of a word; a word that uses it traps where it lies at or above 2^48,
whatever the guard (02 R43). LIMM alone takes an extension word, the word after it (02 R33). The clauses on a sleeping
bank rest on log 32 (DEDUCED). -/
def Obligations.WordChecks : Prop :=
  (∀ (pc : Word) (ext : Bool),
    let i := pc.toNat / 8 % 16
    let n := if ext then i + 2 else i + 1
    let a := if n ≤ 15 then pc.toNat + 8 * (n - i) else pc.toNat / 128 * 128 + 136
    nextWord pc ext = if a < 2 ^ 48 then some (BitVec.ofNat 64 a) else none) ∧
  (∀ (i : Instr) (op fn : Nat) (g : Guard) (f : Fields) (s : State) (c : Cx), parts i = .full op fn g f →
    let skipV := decide (op = 0x28 ∧ fn = 7)
    s.view = some c → c.canIssue = true →
    let named := (if skipV then [] else shapeVecs (shape op fn f) f)
    let waits := c.hazard named (shapeXs (shape op fn f) f) (g.gp.toNat :: (shape op fn f).preds) = true ∨
      wordWaits s c (shapeVecs (shape op fn f) f) = true
    (c.guard g = ((c.th.p.getLsbD g.gp.toNat || g.gp.toNat == 7) != g.gn)) ∧
    (waits → exec i s = .next s) ∧
    (¬ waits → ∀ e, frontTrap op fn 0 g f c false = some e → exec i s = .next (s.trapIn s c e)) ∧
    (¬ waits → frontTrap op fn 0 g f c false = none → c.guard g = false → op ≠ 0x30 →
      exec i s = c.completes s) ∧
    (¬ waits → nextWord c.th.pc false = none → ¬ (op = 0x18 ∧ c.guard g = true ∧ (fn = 0 ∨ fn = 1 ∨ fn = 4 ∨ fn = 5)) →
      exec i s = .next (s.trapIn s c { cause := 0x02, sub := 3 }))) ∧
  (∀ (g : Guard) (f : Fields) (ext : Word) (s : State) (c : Cx), s.view = some c → c.canIssue = true →
    c.hazard (shapeVecs (shape 0x04 8 f) f) (shapeXs (shape 0x04 8 f) f) (g.gp.toNat :: (shape 0x04 8 f).preds) = false →
    wordWaits s c (shapeVecs (shape 0x04 8 f) f) = false → nextWord c.th.pc true = none →
    exec (.limm g f ext) s = .next (s.trapIn s c { cause := 0x02, sub := 3 })) ∧
  (∀ (s0 s1 : Slot) (s : State) (c : Cx), s.view = some c → c.canIssue = true →
    let waits := c.hazard (slotVecs s0 ++ slotVecs s1) [] (slotPreds s0 ++ slotPreds s1) = true ∨
      wordWaits s c (slotVecs s0 ++ slotVecs s1) = true
    (waits → exec (.pairWord s0 s1) s = .next s) ∧
    (¬ waits → nextWord c.th.pc false = none →
      exec (.pairWord s0 s1) s = .next (s.trapIn s c { cause := 0x02, sub := 3 })) ∧
    (¬ waits → ∀ e, pairTrap c s0 s1 = some e → exec (.pairWord s0 s1) s = .next (s.trapIn s c e))) ∧
  (∀ (op fn : Nat) (g : Guard) (f : Fields) (c : Cx) (ext : Bool) (sub : Nat), fullSub op fn 0 g f = none →
    (nextWord c.th.pc ext).isSome = true →
    ((shape op fn f).priv = sub → sub ≠ 0 → c.th.priv = false →
      frontTrap op fn 0 g f c ext = some { cause := 0x10, sub := sub }) ∧
    ((shape op fn f).priv = 0 ∨ c.th.priv = true → (∃ n ∈ shapeVecs (shape op fn f) f, c.t.declared.regs ≤ n) →
      frontTrap op fn 0 g f c ext = some { cause := 0x03, sub := 0 })) ∧
  (∀ (w : Word) (next : Option Word) (sub : Nat), w.getLsbD 63 = false →
    fullSub (wordField w.toNat 56 7) (wordField w.toNat 52 4) (wordField w.toNat 0 2) (guardOf w.toNat) (fieldsOf w.toNat) =
      some sub →
    decodeWord w.toNat next = .illegal sub 0) ∧
  (∀ (op fn x : Nat) (g : Guard) (f : Fields), x < 4 →
    (g.gp = 7 → g.gn = true → (fullSub op fn x g f).isSome = true) ∧
    (fullSub op fn x g f = none → (x = 1 ↔ op = 0x04 ∧ fn = 8))) ∧
  ∀ (w : Word) (next : Option Word) (i : Instr), decodeWord w.toNat next = .instr i 16 →
    ∃ g f ext, next = some ext ∧ i = .limm g f ext

/-- The frame of a word. A data word (04) whose guard is true leaves everything but its destinations as it was; and no
word of any group writes memory itself, but GPATCH, TWRV, LCAN and the words on sequences: what a word stores reaches
memory through the events that perform it. -/
def Obligations.WordFrames : Prop :=
  (∀ (i : Instr) (op fn : Nat) (g : Guard) (f : Fields) (s : State) (c : Cx), parts i = .full op fn g f →
    op ∈ [0x01, 0x02, 0x03, 0x04, 0x10, 0x11, 0x12] → Acts op fn g f s c →
    let one := [f.d.toNat % 8]
    let ps : List Nat :=
      match op, fn with
      | 0x03, 0 => one
      | 0x03, 2 => one
      | 0x03, 5 => (List.range 7).filter fun n => f.b.getLsbD n
      | 0x04, 9 => one
      | 0x10, 6 => one
      | _, _ => []
    ∃ t, exec i s = .next t ∧
      DataFrame s t c (fieldVecs (shape op fn f).d f.d) ps (fieldXs (shape op fn f).d f.d)) ∧
  (∀ (g : Guard) (f : Fields) (ext : Word) (s : State) (c : Cx), AtEffect 0x04 8 1 true false g f s c →
    ∃ t, exec (.limm g f ext) s = .next t ∧
      DataFrame s t c (if f.isX then [] else [f.d.toNat, f.d.toNat + 1]) [] (if f.isX then [f.d.toNat] else [])) ∧
  (∀ (s0 s1 : Slot) (s : State) (c : Cx), PairActs s0 s1 s c →
    ∃ t, exec (.pairWord s0 s1) s = .next t ∧ DataFrame s t c [s0.d.toNat, s1.d.toNat] [] []) ∧
  ∀ (i : Instr) (s t : State), parts i ≠ .event →
    (∀ g f, i ∉ [.gpatch g f, .twrv g f, .lcan g f, .kvfork g f, .kvrel g f, .kvseqClose g f, .kvseqDfs g f, .kvseqTrim g f]) →
    exec i s = .next t → t.mem = s.mem

/-- 01 R19, R20, 02 R40-R45: a step runs the word that stands at the PC of the thread whose turn it is, in the fetch
line that the PC translates to, and nothing else; a fetch that faults traps, a word that is no instruction traps, and
an event's step is that event. Model's choices: log 15; that a PC which names no START-marked word traps as an
inconsistent line does, log 100. -/
def Obligations.StepRunsDecoded : Prop :=
  (∀ (s t : State) (r : TRef) (ms : List Move) (c : Cx), Awake s →
    (s.agenda = .thread r :: ms ∧ t = { s with agenda := ms, cur := some r } ∨
      s.agenda = [] ∧ s.turn % 2 = 0 ∧ pick s = some r ∧ t = { s with cur := some r, turn := s.turn + 1 }) →
    t.view = some c → c.canIssue = true →
    (∀ e, fetchWord t c c.th.pc = .error (.trap e) → step s = .next (t.trapIn t c e)) ∧
    ∀ x, translate t c .fetch c.th.pc = .ok x →
      let line := x.loc / 128 * 128
      let n := c.th.pc.toNat / 8 % 16
      let marked : Bool := ((memLine t line).getD 0 0).getLsbD n
      lineCached t c.t.core line = false → eccSub t ((List.range 16).map fun k => line + 8 * k) = none →
      sleeping t (span line 128) = false → lineSub (memLine t line) = none →
      (marked = false → step s = .next (t.trapIn t c { cause := 0x01, sub := 0xE })) ∧
      (∀ i len, marked = true → decode (memBytes t.mem (line + 8 * n) (128 - 8 * n)) = .instr i len →
        WellFormed i = true ∧ step s = exec i t) ∧
      ∀ sub slot, marked = true → decode (memBytes t.mem (line + 8 * n) (128 - 8 * n)) = .illegal sub slot →
        step s = .next (t.trapIn t c (illegalTrap c (BitVec.ofNat 64 (memNat t.mem (line + 8 * n) 8)) sub slot))) ∧
  ∀ (s : State) (i : Instr) (ms : List Move), Awake s → s.agenda = .event i :: ms →
    step s = exec i { s with agenda := ms }

/-- Words written out bit by bit from their layouts (02 R26, R34, R46) decode to the instructions they stand for. -/
def Obligations.DecodeWords : Prop :=
  decodeTableWord 64 0x010E0040200C0000 = some (.iadd ⟨7, false⟩ ⟨1, 2, 3, 0, 0, false, false, false⟩) ∧
  decodeTableWord 64 0x1805FFFFFFFFFC00 = some (.bra ⟨2, true⟩ ⟨1023, 1023, 1023, 1020, 0, false, false, false⟩) ∧
  decodeTableWord 64 0x200E0220201B0440 = some (.ld ⟨7, false⟩ ⟨8, 514, 6, 772, 2, false, false, false⟩) ∧
  decodeTableWord 64 0x284E080080254A00 = some (.htak ⟨7, false⟩ ⟨32, 8, 9, 330, 0, false, false, false⟩) ∧
  decodeTableWord 64 0x500E014060000000 = some (.lstat ⟨7, false⟩ ⟨5, 6, 0, 0, 0, false, false, false⟩) ∧
  decodeTableWord 128 0x1122334455667788048E014000000081 =
    some (.limm ⟨7, false⟩ ⟨5, 0, 0, 0, 4, false, false, false⟩ 0x1122334455667788) ∧
  decodeTableWord 64 0x82018073A4048147 = some (.pairWord ⟨2, 6, 7, false, false, 7⟩ ⟨18, 9, 10, false, false, 7⟩)

/-- 02 R25-R34, R46-R49: decoding the words of a well-formed instruction gives it back, with its length; and whatever
the decoder reads from a word is well-formed and has exactly that word, so no bit of a word is dropped. -/
def Obligations.DecodeEncode : Prop :=
  (∀ i : Instr, WellFormed i = true → decode (encode i) = .instr i (8 * (encodeWords i).length)) ∧
  ∀ (w : Word) (next : Option Word) (i : Instr) (len : Nat), decodeWord w.toNat next = .instr i len →
    WellFormed i = true ∧ len = 8 * (encodeWords i).length ∧
    (encodeWords i = [w] ∨ ∃ x, next = some x ∧ encodeWords i = [w, x])

/-- The canonical form of memory, which is the model's own (DESIGN CHOICE, log 3), is kept by every step of the
machine: of a thread, of any engine, of the fault unit, the dispatchers and the host, whatever the state. -/
def Obligations.MemoryFormKept : Prop :=
  ∀ s t : State, Memory.wf s.mem = true → step s = .next t → Memory.wf t.mem = true

/-- 14 R304, 15 R319, R326, 18 R375, R381, R384: what reset leaves, as the spec gives it; memory has its
canonical form. Model's choices: logs 3, 8, 10. -/
def Obligations.ResetState : Prop :=
  let s := State.reset
  Memory.wf s.mem = true ∧ s.teams = [] ∧ s.launches = [] ∧ s.nextSeq = 1 ∧ s.fu.next = 1 ∧ s.drainLimit = 2 ^ 20 ∧
  s.boot.stage = 0 ∧ s.boot.ready = false ∧ s.boot.fail = false ∧ s.boot.fcode = 0 ∧ s.boot.warm = false ∧
  s.boot.ports = [] ∧ s.boot.device = none ∧ s.hst.elogs = [{}, {}, {}] ∧
  (s.hst.rings.map fun l => l.recs.map fun x => x.kind) = [[9], [9], [9]] ∧ s.retained = [] ∧ s.poison = [] ∧
  s.tilePoison = [] ∧ s.errors = [] ∧ s.queue = []

/-- 02 R41, R42: when a fetch line is consistent, and the sub-cause of one that is not, 0x0D before 0x0E (02 R48, R49); the
fetch of any word of an inconsistent line raises ILLEGAL with TRAPPC the address of that word. -/
def Obligations.FetchLines : Prop :=
  (∀ (ws : List Word), ws.length = 16 →
    let header := (ws.getD 0 0).toNat
    let start (i : Nat) : Bool := header.testBit i
    let claimed (i : Nat) : Prop := start i = true ∧ (ws.getD i 0).getLsbD 63 = false ∧ (ws.getD i 0).toNat % 4 = 1
    let clear : Prop := header.testBit 0 = false ∧ header.testBit 16 = false ∧ header / 2 ^ 32 = 0
    let marks : Prop := (start 1 = true ∧ ∀ i, 2 ≤ i → i ≤ 15 → (start i = false ↔ claimed (i - 1))) ∧ ¬ claimed 15 ∧
      ∀ i, 1 ≤ i → i ≤ 15 → header.testBit (16 + i) = true → start i = true
    (lineSub ws = none ↔ clear ∧ marks) ∧ (¬ clear → lineSub ws = some 0xD) ∧
    (clear → ¬ marks → lineSub ws = some 0xE)) ∧
  ∀ (s : State) (c : Cx) (ws : List Word) (sub : Nat), s.view = some c → c.canIssue = true → c.th.quiet = true →
    fetchLine s c c.th.pc = .ok ws → lineSub ws = some sub →
    ∃ t th, runCurrent s = .next t ∧ t.thread c.r = some th ∧ th.trapCause = BitVec.ofNat 64 (1 + 256 * sub) ∧
      th.trapPc = c.th.pc ∧ th.trapVa = 0 ∧ th.pc = c.th.pc ∧ th.run ≠ .running ∧ t.mem = s.mem

/-- 07 R139-R146, 09 R191, 16 R344, 18 R379: the walk of an address through the tables in memory, no entry of which the
core holds or is poisoned: the entry that ends it, at any level, is absent, malformed, refused by a permission, in the order U, R, W,
X, refused by its target type, or gives the byte's place: in compute HBM, a core's scratchpad or extension, the Eland
HBM, a remote device, the host, or the telemetry space. A prefetch on the types that R145 gives no effect passes. -/
def Obligations.TranslationWalk : Prop :=
  ∀ (s : State) (c : Cx) (acc : Acc) (va : Word) (skewed : Bool) (tables entries : Nat → Nat) (lvl : Nat),
    let field (e lo n : Nat) : Nat := e / 2 ^ lo % 2 ^ n
    let refused (cause sub : Nat) : Chk Xl := .error (.trap { cause := cause, sub := sub, va := va, ak := acc.ak })
    let result := translate s c acc va skewed
    (2 ^ 48 ≤ va.toNat → result = refused 0x05 3) ∧
    (va.toNat < 2 ^ 48 → s.tlb = [] → s.poison = [] → s.tilePoison = [] → s.errors = [] → s.retained = [] → lvl ≤ 3 → tables 0 = c.la.troot →
      (∀ k, k ≤ lvl → tables k + 4096 ≤ 0xC000000000 ∧
        entries k = memNat s.mem (tables k + 8 * (va.toNat / 2 ^ (39 - 9 * k) % 512)) 8) →
      (∀ k, k < lvl → (entries k).testBit 0 = true ∧ field (entries k) 1 11 = 0 ∧ field (entries k) 52 12 = 0 ∧
        tables (k + 1) = field (entries k) 12 40 * 4096) →
      let e := entries lvl
      let leaf := e.testBit 1
      let tt := field e 8 4
      let tq := field e 52 12
      let pa := field e 12 40 * 4096
      let size := if lvl = 1 then 2 ^ 30 else if lvl = 2 then 2 ^ 21 else if e.testBit 6 then 2 ^ 16 else 2 ^ 12
      let malformed : Prop :=
        e.testBit 7 = true ∨
        (leaf = false ∧ (tq ≠ 0 ∨ field e 2 10 ≠ 0 ∨ lvl = 3)) ∨
        (leaf = true ∧ (lvl = 0 ∨ (e.testBit 6 = true ∧ lvl ≠ 3) ∨ pa % size ≠ 0 ∨ ((tt = 2 ∨ tt = 3) ∧ lvl ≠ 3) ∨
          (tt ≤ 1 ∧ 0xC000000000 < pa + size) ∨ (tt ∈ [0, 5, 7, 8] ∧ tq ≠ 0) ∨ (tt = 1 ∧ tq = 0) ∨
          ((tt = 2 ∨ tt = 3) ∧ 2048 ≤ tq) ∨ (tt = 4 ∧ pa ≠ 0)))
      let load : List Nat := if c.th.priv then [0, 1, 2, 3, 5, 6, 7, 8] else [0, 1, 2, 3, 6, 7, 8]
      let legal : List Nat :=
        match acc with
        | .fetch | .iinv => [0]
        | .load | .scaleLoad => load
        | .store | .cpyDst => [0, 1, 2, 3, 6, 7]
        | .prefetch | .cpySrc => [0, 1, 2, 3, 6, 7, 8]
        | .atomic => [0, 1, 2, 6]
        | .planeLoad | .planeStore | .cpypSrc | .planeTile | .planeOut => [1]
        | .herdR | .herdW | .herdRW => [4]
        | .cpypDst | .tileLoad | .tileStore => [0, 1, 2, 3]
        | .engineRead | .engineWrite | .engineBoth => [0, 1]
      let lacks : Option Nat :=
        if c.th.priv = false ∧ e.testBit 5 = false then some 4
        else if acc.needs.1 = true ∧ e.testBit 2 = false then some 1
        else if acc.needs.2.1 = true ∧ e.testBit 3 = false then some 2
        else if acc.needs.2.2 = true ∧ e.testBit 4 = false then some 3
        else none
      (e.testBit 0 = false → result = refused 0x05 1) ∧
      (e.testBit 0 = true → malformed → result = refused 0x05 2) ∧
      (e.testBit 0 = true → leaf = true → ¬ malformed →
        (∀ sub, lacks = some sub → result = refused 0x06 sub) ∧
        (lacks = none → 9 ≤ tt → result = refused 0x07 1) ∧
        (lacks = none → tt ≤ 8 → tt ∉ legal → result = refused 0x07 2) ∧
        (lacks = none → tt ∈ legal →
          let off := pa + va.toNat % size
          (tt ≤ 1 → result = .ok ⟨off, tt, tq⟩) ∧
          (tt = 4 → result = .ok ⟨0, tt, tq⟩) ∧
          (tt = 5 → skewed = false → off < 0x4000000000 → result = .ok ⟨elandLoc off, tt, tq⟩) ∧
          (tt = 7 → result = .ok ⟨hostLoc off, tt, tq⟩) ∧
          (acc = .prefetch → ∃ x, result = .ok x) ∧
          (acc ≠ .prefetch →
            (tt = 2 ∨ tt = 3 → result =
              if 1536 ≤ tq then refused 0x07 4
              else if coreDie tq ≠ coreDie c.t.core then refused 0x07 3
              else if skewed = true then refused 0x07 2
              else if (tt = 2 ∧ off < 0x20000) ∨ (tt = 3 ∧ 0x20000 ≤ off ∧ off < 0x60000) then .ok ⟨scratchLoc tq off, tt, tq⟩
              else refused 0x07 4) ∧
            (tt = 6 → result =
              if 1024 ≤ tq ∨ s.boot.device = none ∨ s.boot.device = some tq then refused 0x07 4
              else .ok ⟨remoteLoc tq off, tt, tq⟩) ∧
            (tt = 8 → result = if off < 0x10000 then .ok ⟨telemetryLoc off, tt, tq⟩ else refused 0x07 4)))))
end

