-- ==== Sys2Proof/Laws/State.lean ====
section
/-! SUPPORT. What each update of the state leaves: one law for each field that an update does not name. -/

namespace Sys2Proof.Machine

/-! `State.modTeam` -/

@[simp] theorem State.modTeam_mem (s : State) (n : Nat) (f : Team → Team) : (s.modTeam n f).mem = s.mem := rfl
@[simp] theorem State.modTeam_poison (s : State) (n : Nat) (f : Team → Team) : (s.modTeam n f).poison = s.poison := rfl
@[simp] theorem State.modTeam_tilePoison (s : State) (n : Nat) (f : Team → Team) : (s.modTeam n f).tilePoison = s.tilePoison := rfl
@[simp] theorem State.modTeam_errors (s : State) (n : Nat) (f : Team → Team) : (s.modTeam n f).errors = s.errors := rfl
@[simp] theorem State.modTeam_retained (s : State) (n : Nat) (f : Team → Team) : (s.modTeam n f).retained = s.retained := rfl
@[simp] theorem State.modTeam_queue (s : State) (n : Nat) (f : Team → Team) : (s.modTeam n f).queue = s.queue := rfl
@[simp] theorem State.modTeam_l1 (s : State) (n : Nat) (f : Team → Team) : (s.modTeam n f).l1 = s.l1 := rfl
@[simp] theorem State.modTeam_l2 (s : State) (n : Nat) (f : Team → Team) : (s.modTeam n f).l2 = s.l2 := rfl
@[simp] theorem State.modTeam_icache (s : State) (n : Nat) (f : Team → Team) : (s.modTeam n f).icache = s.icache := rfl
@[simp] theorem State.modTeam_tlb (s : State) (n : Nat) (f : Team → Team) : (s.modTeam n f).tlb = s.tlb := rfl
@[simp] theorem State.modTeam_clocks (s : State) (n : Nat) (f : Team → Team) : (s.modTeam n f).clocks = s.clocks := rfl
@[simp] theorem State.modTeam_launches (s : State) (n : Nat) (f : Team → Team) : (s.modTeam n f).launches = s.launches := rfl
@[simp] theorem State.modTeam_nextSeq (s : State) (n : Nat) (f : Team → Team) : (s.modTeam n f).nextSeq = s.nextSeq := rfl
@[simp] theorem State.modTeam_lastTake (s : State) (n : Nat) (f : Team → Team) : (s.modTeam n f).lastTake = s.lastTake := rfl
@[simp] theorem State.modTeam_herd (s : State) (n : Nat) (f : Team → Team) : (s.modTeam n f).herd = s.herd := rfl
@[simp] theorem State.modTeam_fu (s : State) (n : Nat) (f : Team → Team) : (s.modTeam n f).fu = s.fu := rfl
@[simp] theorem State.modTeam_copies (s : State) (n : Nat) (f : Team → Team) : (s.modTeam n f).copies = s.copies := rfl
@[simp] theorem State.modTeam_tiles (s : State) (n : Nat) (f : Team → Team) : (s.modTeam n f).tiles = s.tiles := rfl
@[simp] theorem State.modTeam_smpls (s : State) (n : Nat) (f : Team → Team) : (s.modTeam n f).smpls = s.smpls := rfl
@[simp] theorem State.modTeam_attns (s : State) (n : Nat) (f : Team → Team) : (s.modTeam n f).attns = s.attns := rfl
@[simp] theorem State.modTeam_appends (s : State) (n : Nat) (f : Team → Team) : (s.modTeam n f).appends = s.appends := rfl
@[simp] theorem State.modTeam_seqs (s : State) (n : Nat) (f : Team → Team) : (s.modTeam n f).seqs = s.seqs := rfl
@[simp] theorem State.modTeam_hst (s : State) (n : Nat) (f : Team → Team) : (s.modTeam n f).hst = s.hst := rfl
@[simp] theorem State.modTeam_boot (s : State) (n : Nat) (f : Team → Team) : (s.modTeam n f).boot = s.boot := rfl
@[simp] theorem State.modTeam_cols (s : State) (n : Nat) (f : Team → Team) : (s.modTeam n f).cols = s.cols := rfl
@[simp] theorem State.modTeam_outbound (s : State) (n : Nat) (f : Team → Team) : (s.modTeam n f).outbound = s.outbound := rfl
@[simp] theorem State.modTeam_answers (s : State) (n : Nat) (f : Team → Team) : (s.modTeam n f).answers = s.answers := rfl
@[simp] theorem State.modTeam_drainLimit (s : State) (n : Nat) (f : Team → Team) : (s.modTeam n f).drainLimit = s.drainLimit := rfl
@[simp] theorem State.modTeam_planeReads (s : State) (n : Nat) (f : Team → Team) : (s.modTeam n f).planeReads = s.planeReads := rfl
@[simp] theorem State.modTeam_readFail (s : State) (n : Nat) (f : Team → Team) : (s.modTeam n f).readFail = s.readFail := rfl
@[simp] theorem State.modTeam_agenda (s : State) (n : Nat) (f : Team → Team) : (s.modTeam n f).agenda = s.agenda := rfl
@[simp] theorem State.modTeam_cur (s : State) (n : Nat) (f : Team → Team) : (s.modTeam n f).cur = s.cur := rfl
@[simp] theorem State.modTeam_turn (s : State) (n : Nat) (f : Team → Team) : (s.modTeam n f).turn = s.turn := rfl
@[simp] theorem State.modTeam_free (s : State) (n : Nat) (f : Team → Team) : (s.modTeam n f).free = s.free := rfl
@[simp] theorem State.modTeam_uid (s : State) (n : Nat) (f : Team → Team) : (s.modTeam n f).uid = s.uid := rfl

/-! `State.modThread` -/

@[simp] theorem State.modThread_mem (s : State) (r : TRef) (f : Thread → Thread) : (s.modThread r f).mem = s.mem := rfl
@[simp] theorem State.modThread_poison (s : State) (r : TRef) (f : Thread → Thread) : (s.modThread r f).poison = s.poison := rfl
@[simp] theorem State.modThread_tilePoison (s : State) (r : TRef) (f : Thread → Thread) : (s.modThread r f).tilePoison = s.tilePoison := rfl
@[simp] theorem State.modThread_errors (s : State) (r : TRef) (f : Thread → Thread) : (s.modThread r f).errors = s.errors := rfl
@[simp] theorem State.modThread_retained (s : State) (r : TRef) (f : Thread → Thread) : (s.modThread r f).retained = s.retained := rfl
@[simp] theorem State.modThread_queue (s : State) (r : TRef) (f : Thread → Thread) : (s.modThread r f).queue = s.queue := rfl
@[simp] theorem State.modThread_l1 (s : State) (r : TRef) (f : Thread → Thread) : (s.modThread r f).l1 = s.l1 := rfl
@[simp] theorem State.modThread_l2 (s : State) (r : TRef) (f : Thread → Thread) : (s.modThread r f).l2 = s.l2 := rfl
@[simp] theorem State.modThread_icache (s : State) (r : TRef) (f : Thread → Thread) : (s.modThread r f).icache = s.icache := rfl
@[simp] theorem State.modThread_tlb (s : State) (r : TRef) (f : Thread → Thread) : (s.modThread r f).tlb = s.tlb := rfl
@[simp] theorem State.modThread_clocks (s : State) (r : TRef) (f : Thread → Thread) : (s.modThread r f).clocks = s.clocks := rfl
@[simp] theorem State.modThread_launches (s : State) (r : TRef) (f : Thread → Thread) : (s.modThread r f).launches = s.launches := rfl
@[simp] theorem State.modThread_nextSeq (s : State) (r : TRef) (f : Thread → Thread) : (s.modThread r f).nextSeq = s.nextSeq := rfl
@[simp] theorem State.modThread_lastTake (s : State) (r : TRef) (f : Thread → Thread) : (s.modThread r f).lastTake = s.lastTake := rfl
@[simp] theorem State.modThread_herd (s : State) (r : TRef) (f : Thread → Thread) : (s.modThread r f).herd = s.herd := rfl
@[simp] theorem State.modThread_fu (s : State) (r : TRef) (f : Thread → Thread) : (s.modThread r f).fu = s.fu := rfl
@[simp] theorem State.modThread_copies (s : State) (r : TRef) (f : Thread → Thread) : (s.modThread r f).copies = s.copies := rfl
@[simp] theorem State.modThread_tiles (s : State) (r : TRef) (f : Thread → Thread) : (s.modThread r f).tiles = s.tiles := rfl
@[simp] theorem State.modThread_smpls (s : State) (r : TRef) (f : Thread → Thread) : (s.modThread r f).smpls = s.smpls := rfl
@[simp] theorem State.modThread_attns (s : State) (r : TRef) (f : Thread → Thread) : (s.modThread r f).attns = s.attns := rfl
@[simp] theorem State.modThread_appends (s : State) (r : TRef) (f : Thread → Thread) : (s.modThread r f).appends = s.appends := rfl
@[simp] theorem State.modThread_seqs (s : State) (r : TRef) (f : Thread → Thread) : (s.modThread r f).seqs = s.seqs := rfl
@[simp] theorem State.modThread_hst (s : State) (r : TRef) (f : Thread → Thread) : (s.modThread r f).hst = s.hst := rfl
@[simp] theorem State.modThread_boot (s : State) (r : TRef) (f : Thread → Thread) : (s.modThread r f).boot = s.boot := rfl
@[simp] theorem State.modThread_cols (s : State) (r : TRef) (f : Thread → Thread) : (s.modThread r f).cols = s.cols := rfl
@[simp] theorem State.modThread_outbound (s : State) (r : TRef) (f : Thread → Thread) : (s.modThread r f).outbound = s.outbound := rfl
@[simp] theorem State.modThread_answers (s : State) (r : TRef) (f : Thread → Thread) : (s.modThread r f).answers = s.answers := rfl
@[simp] theorem State.modThread_drainLimit (s : State) (r : TRef) (f : Thread → Thread) : (s.modThread r f).drainLimit = s.drainLimit := rfl
@[simp] theorem State.modThread_planeReads (s : State) (r : TRef) (f : Thread → Thread) : (s.modThread r f).planeReads = s.planeReads := rfl
@[simp] theorem State.modThread_readFail (s : State) (r : TRef) (f : Thread → Thread) : (s.modThread r f).readFail = s.readFail := rfl
@[simp] theorem State.modThread_agenda (s : State) (r : TRef) (f : Thread → Thread) : (s.modThread r f).agenda = s.agenda := rfl
@[simp] theorem State.modThread_cur (s : State) (r : TRef) (f : Thread → Thread) : (s.modThread r f).cur = s.cur := rfl
@[simp] theorem State.modThread_turn (s : State) (r : TRef) (f : Thread → Thread) : (s.modThread r f).turn = s.turn := rfl
@[simp] theorem State.modThread_free (s : State) (r : TRef) (f : Thread → Thread) : (s.modThread r f).free = s.free := rfl
@[simp] theorem State.modThread_uid (s : State) (r : TRef) (f : Thread → Thread) : (s.modThread r f).uid = s.uid := rfl

/-! `State.modThreads` -/

@[simp] theorem State.modThreads_mem (s : State) (n : Nat) (f : Thread → Thread) : (s.modThreads n f).mem = s.mem := rfl
@[simp] theorem State.modThreads_poison (s : State) (n : Nat) (f : Thread → Thread) : (s.modThreads n f).poison = s.poison := rfl
@[simp] theorem State.modThreads_tilePoison (s : State) (n : Nat) (f : Thread → Thread) : (s.modThreads n f).tilePoison = s.tilePoison := rfl
@[simp] theorem State.modThreads_errors (s : State) (n : Nat) (f : Thread → Thread) : (s.modThreads n f).errors = s.errors := rfl
@[simp] theorem State.modThreads_retained (s : State) (n : Nat) (f : Thread → Thread) : (s.modThreads n f).retained = s.retained := rfl
@[simp] theorem State.modThreads_queue (s : State) (n : Nat) (f : Thread → Thread) : (s.modThreads n f).queue = s.queue := rfl
@[simp] theorem State.modThreads_l1 (s : State) (n : Nat) (f : Thread → Thread) : (s.modThreads n f).l1 = s.l1 := rfl
@[simp] theorem State.modThreads_l2 (s : State) (n : Nat) (f : Thread → Thread) : (s.modThreads n f).l2 = s.l2 := rfl
@[simp] theorem State.modThreads_icache (s : State) (n : Nat) (f : Thread → Thread) : (s.modThreads n f).icache = s.icache := rfl
@[simp] theorem State.modThreads_tlb (s : State) (n : Nat) (f : Thread → Thread) : (s.modThreads n f).tlb = s.tlb := rfl
@[simp] theorem State.modThreads_clocks (s : State) (n : Nat) (f : Thread → Thread) : (s.modThreads n f).clocks = s.clocks := rfl
@[simp] theorem State.modThreads_launches (s : State) (n : Nat) (f : Thread → Thread) : (s.modThreads n f).launches = s.launches := rfl
@[simp] theorem State.modThreads_nextSeq (s : State) (n : Nat) (f : Thread → Thread) : (s.modThreads n f).nextSeq = s.nextSeq := rfl
@[simp] theorem State.modThreads_lastTake (s : State) (n : Nat) (f : Thread → Thread) : (s.modThreads n f).lastTake = s.lastTake := rfl
@[simp] theorem State.modThreads_herd (s : State) (n : Nat) (f : Thread → Thread) : (s.modThreads n f).herd = s.herd := rfl
@[simp] theorem State.modThreads_fu (s : State) (n : Nat) (f : Thread → Thread) : (s.modThreads n f).fu = s.fu := rfl
@[simp] theorem State.modThreads_copies (s : State) (n : Nat) (f : Thread → Thread) : (s.modThreads n f).copies = s.copies := rfl
@[simp] theorem State.modThreads_tiles (s : State) (n : Nat) (f : Thread → Thread) : (s.modThreads n f).tiles = s.tiles := rfl
@[simp] theorem State.modThreads_smpls (s : State) (n : Nat) (f : Thread → Thread) : (s.modThreads n f).smpls = s.smpls := rfl
@[simp] theorem State.modThreads_attns (s : State) (n : Nat) (f : Thread → Thread) : (s.modThreads n f).attns = s.attns := rfl
@[simp] theorem State.modThreads_appends (s : State) (n : Nat) (f : Thread → Thread) : (s.modThreads n f).appends = s.appends := rfl
@[simp] theorem State.modThreads_seqs (s : State) (n : Nat) (f : Thread → Thread) : (s.modThreads n f).seqs = s.seqs := rfl
@[simp] theorem State.modThreads_hst (s : State) (n : Nat) (f : Thread → Thread) : (s.modThreads n f).hst = s.hst := rfl
@[simp] theorem State.modThreads_boot (s : State) (n : Nat) (f : Thread → Thread) : (s.modThreads n f).boot = s.boot := rfl
@[simp] theorem State.modThreads_cols (s : State) (n : Nat) (f : Thread → Thread) : (s.modThreads n f).cols = s.cols := rfl
@[simp] theorem State.modThreads_outbound (s : State) (n : Nat) (f : Thread → Thread) : (s.modThreads n f).outbound = s.outbound := rfl
@[simp] theorem State.modThreads_answers (s : State) (n : Nat) (f : Thread → Thread) : (s.modThreads n f).answers = s.answers := rfl
@[simp] theorem State.modThreads_drainLimit (s : State) (n : Nat) (f : Thread → Thread) : (s.modThreads n f).drainLimit = s.drainLimit := rfl
@[simp] theorem State.modThreads_planeReads (s : State) (n : Nat) (f : Thread → Thread) : (s.modThreads n f).planeReads = s.planeReads := rfl
@[simp] theorem State.modThreads_readFail (s : State) (n : Nat) (f : Thread → Thread) : (s.modThreads n f).readFail = s.readFail := rfl
@[simp] theorem State.modThreads_agenda (s : State) (n : Nat) (f : Thread → Thread) : (s.modThreads n f).agenda = s.agenda := rfl
@[simp] theorem State.modThreads_cur (s : State) (n : Nat) (f : Thread → Thread) : (s.modThreads n f).cur = s.cur := rfl
@[simp] theorem State.modThreads_turn (s : State) (n : Nat) (f : Thread → Thread) : (s.modThreads n f).turn = s.turn := rfl
@[simp] theorem State.modThreads_free (s : State) (n : Nat) (f : Thread → Thread) : (s.modThreads n f).free = s.free := rfl
@[simp] theorem State.modThreads_uid (s : State) (n : Nat) (f : Thread → Thread) : (s.modThreads n f).uid = s.uid := rfl

/-! `State.setV` -/

@[simp] theorem State.setV_mem (s : State) (r : TRef) (n : Nat) (w : W32) : (s.setV r n w).mem = s.mem := rfl
@[simp] theorem State.setV_poison (s : State) (r : TRef) (n : Nat) (w : W32) : (s.setV r n w).poison = s.poison := rfl
@[simp] theorem State.setV_tilePoison (s : State) (r : TRef) (n : Nat) (w : W32) : (s.setV r n w).tilePoison = s.tilePoison := rfl
@[simp] theorem State.setV_errors (s : State) (r : TRef) (n : Nat) (w : W32) : (s.setV r n w).errors = s.errors := rfl
@[simp] theorem State.setV_retained (s : State) (r : TRef) (n : Nat) (w : W32) : (s.setV r n w).retained = s.retained := rfl
@[simp] theorem State.setV_queue (s : State) (r : TRef) (n : Nat) (w : W32) : (s.setV r n w).queue = s.queue := rfl
@[simp] theorem State.setV_l1 (s : State) (r : TRef) (n : Nat) (w : W32) : (s.setV r n w).l1 = s.l1 := rfl
@[simp] theorem State.setV_l2 (s : State) (r : TRef) (n : Nat) (w : W32) : (s.setV r n w).l2 = s.l2 := rfl
@[simp] theorem State.setV_icache (s : State) (r : TRef) (n : Nat) (w : W32) : (s.setV r n w).icache = s.icache := rfl
@[simp] theorem State.setV_tlb (s : State) (r : TRef) (n : Nat) (w : W32) : (s.setV r n w).tlb = s.tlb := rfl
@[simp] theorem State.setV_clocks (s : State) (r : TRef) (n : Nat) (w : W32) : (s.setV r n w).clocks = s.clocks := rfl
@[simp] theorem State.setV_launches (s : State) (r : TRef) (n : Nat) (w : W32) : (s.setV r n w).launches = s.launches := rfl
@[simp] theorem State.setV_nextSeq (s : State) (r : TRef) (n : Nat) (w : W32) : (s.setV r n w).nextSeq = s.nextSeq := rfl
@[simp] theorem State.setV_lastTake (s : State) (r : TRef) (n : Nat) (w : W32) : (s.setV r n w).lastTake = s.lastTake := rfl
@[simp] theorem State.setV_herd (s : State) (r : TRef) (n : Nat) (w : W32) : (s.setV r n w).herd = s.herd := rfl
@[simp] theorem State.setV_fu (s : State) (r : TRef) (n : Nat) (w : W32) : (s.setV r n w).fu = s.fu := rfl
@[simp] theorem State.setV_copies (s : State) (r : TRef) (n : Nat) (w : W32) : (s.setV r n w).copies = s.copies := rfl
@[simp] theorem State.setV_tiles (s : State) (r : TRef) (n : Nat) (w : W32) : (s.setV r n w).tiles = s.tiles := rfl
@[simp] theorem State.setV_smpls (s : State) (r : TRef) (n : Nat) (w : W32) : (s.setV r n w).smpls = s.smpls := rfl
@[simp] theorem State.setV_attns (s : State) (r : TRef) (n : Nat) (w : W32) : (s.setV r n w).attns = s.attns := rfl
@[simp] theorem State.setV_appends (s : State) (r : TRef) (n : Nat) (w : W32) : (s.setV r n w).appends = s.appends := rfl
@[simp] theorem State.setV_seqs (s : State) (r : TRef) (n : Nat) (w : W32) : (s.setV r n w).seqs = s.seqs := rfl
@[simp] theorem State.setV_hst (s : State) (r : TRef) (n : Nat) (w : W32) : (s.setV r n w).hst = s.hst := rfl
@[simp] theorem State.setV_boot (s : State) (r : TRef) (n : Nat) (w : W32) : (s.setV r n w).boot = s.boot := rfl
@[simp] theorem State.setV_cols (s : State) (r : TRef) (n : Nat) (w : W32) : (s.setV r n w).cols = s.cols := rfl
@[simp] theorem State.setV_outbound (s : State) (r : TRef) (n : Nat) (w : W32) : (s.setV r n w).outbound = s.outbound := rfl
@[simp] theorem State.setV_answers (s : State) (r : TRef) (n : Nat) (w : W32) : (s.setV r n w).answers = s.answers := rfl
@[simp] theorem State.setV_drainLimit (s : State) (r : TRef) (n : Nat) (w : W32) : (s.setV r n w).drainLimit = s.drainLimit := rfl
@[simp] theorem State.setV_planeReads (s : State) (r : TRef) (n : Nat) (w : W32) : (s.setV r n w).planeReads = s.planeReads := rfl
@[simp] theorem State.setV_readFail (s : State) (r : TRef) (n : Nat) (w : W32) : (s.setV r n w).readFail = s.readFail := rfl
@[simp] theorem State.setV_agenda (s : State) (r : TRef) (n : Nat) (w : W32) : (s.setV r n w).agenda = s.agenda := rfl
@[simp] theorem State.setV_cur (s : State) (r : TRef) (n : Nat) (w : W32) : (s.setV r n w).cur = s.cur := rfl
@[simp] theorem State.setV_turn (s : State) (r : TRef) (n : Nat) (w : W32) : (s.setV r n w).turn = s.turn := rfl
@[simp] theorem State.setV_free (s : State) (r : TRef) (n : Nat) (w : W32) : (s.setV r n w).free = s.free := rfl
@[simp] theorem State.setV_uid (s : State) (r : TRef) (n : Nat) (w : W32) : (s.setV r n w).uid = s.uid := rfl
@[simp] theorem State.moveV_mem (s : State) (r : TRef) (n : Nat) (w : W32) (tg : Tag) : (s.moveV r n w tg).mem = s.mem := rfl
@[simp] theorem State.moveV_poison (s : State) (r : TRef) (n : Nat) (w : W32) (tg : Tag) : (s.moveV r n w tg).poison = s.poison := rfl
@[simp] theorem State.moveV_tilePoison (s : State) (r : TRef) (n : Nat) (w : W32) (tg : Tag) : (s.moveV r n w tg).tilePoison = s.tilePoison := rfl
@[simp] theorem State.moveV_errors (s : State) (r : TRef) (n : Nat) (w : W32) (tg : Tag) : (s.moveV r n w tg).errors = s.errors := rfl
@[simp] theorem State.moveV_retained (s : State) (r : TRef) (n : Nat) (w : W32) (tg : Tag) : (s.moveV r n w tg).retained = s.retained := rfl
@[simp] theorem State.moveV_queue (s : State) (r : TRef) (n : Nat) (w : W32) (tg : Tag) : (s.moveV r n w tg).queue = s.queue := rfl
@[simp] theorem State.moveV_l1 (s : State) (r : TRef) (n : Nat) (w : W32) (tg : Tag) : (s.moveV r n w tg).l1 = s.l1 := rfl
@[simp] theorem State.moveV_l2 (s : State) (r : TRef) (n : Nat) (w : W32) (tg : Tag) : (s.moveV r n w tg).l2 = s.l2 := rfl
@[simp] theorem State.moveV_icache (s : State) (r : TRef) (n : Nat) (w : W32) (tg : Tag) : (s.moveV r n w tg).icache = s.icache := rfl
@[simp] theorem State.moveV_tlb (s : State) (r : TRef) (n : Nat) (w : W32) (tg : Tag) : (s.moveV r n w tg).tlb = s.tlb := rfl
@[simp] theorem State.moveV_clocks (s : State) (r : TRef) (n : Nat) (w : W32) (tg : Tag) : (s.moveV r n w tg).clocks = s.clocks := rfl
@[simp] theorem State.moveV_launches (s : State) (r : TRef) (n : Nat) (w : W32) (tg : Tag) : (s.moveV r n w tg).launches = s.launches := rfl
@[simp] theorem State.moveV_nextSeq (s : State) (r : TRef) (n : Nat) (w : W32) (tg : Tag) : (s.moveV r n w tg).nextSeq = s.nextSeq := rfl
@[simp] theorem State.moveV_lastTake (s : State) (r : TRef) (n : Nat) (w : W32) (tg : Tag) : (s.moveV r n w tg).lastTake = s.lastTake := rfl
@[simp] theorem State.moveV_herd (s : State) (r : TRef) (n : Nat) (w : W32) (tg : Tag) : (s.moveV r n w tg).herd = s.herd := rfl
@[simp] theorem State.moveV_fu (s : State) (r : TRef) (n : Nat) (w : W32) (tg : Tag) : (s.moveV r n w tg).fu = s.fu := rfl
@[simp] theorem State.moveV_copies (s : State) (r : TRef) (n : Nat) (w : W32) (tg : Tag) : (s.moveV r n w tg).copies = s.copies := rfl
@[simp] theorem State.moveV_tiles (s : State) (r : TRef) (n : Nat) (w : W32) (tg : Tag) : (s.moveV r n w tg).tiles = s.tiles := rfl
@[simp] theorem State.moveV_smpls (s : State) (r : TRef) (n : Nat) (w : W32) (tg : Tag) : (s.moveV r n w tg).smpls = s.smpls := rfl
@[simp] theorem State.moveV_attns (s : State) (r : TRef) (n : Nat) (w : W32) (tg : Tag) : (s.moveV r n w tg).attns = s.attns := rfl
@[simp] theorem State.moveV_appends (s : State) (r : TRef) (n : Nat) (w : W32) (tg : Tag) : (s.moveV r n w tg).appends = s.appends := rfl
@[simp] theorem State.moveV_seqs (s : State) (r : TRef) (n : Nat) (w : W32) (tg : Tag) : (s.moveV r n w tg).seqs = s.seqs := rfl
@[simp] theorem State.moveV_hst (s : State) (r : TRef) (n : Nat) (w : W32) (tg : Tag) : (s.moveV r n w tg).hst = s.hst := rfl
@[simp] theorem State.moveV_boot (s : State) (r : TRef) (n : Nat) (w : W32) (tg : Tag) : (s.moveV r n w tg).boot = s.boot := rfl
@[simp] theorem State.moveV_cols (s : State) (r : TRef) (n : Nat) (w : W32) (tg : Tag) : (s.moveV r n w tg).cols = s.cols := rfl
@[simp] theorem State.moveV_outbound (s : State) (r : TRef) (n : Nat) (w : W32) (tg : Tag) : (s.moveV r n w tg).outbound = s.outbound := rfl
@[simp] theorem State.moveV_answers (s : State) (r : TRef) (n : Nat) (w : W32) (tg : Tag) : (s.moveV r n w tg).answers = s.answers := rfl
@[simp] theorem State.moveV_drainLimit (s : State) (r : TRef) (n : Nat) (w : W32) (tg : Tag) : (s.moveV r n w tg).drainLimit = s.drainLimit := rfl
@[simp] theorem State.moveV_planeReads (s : State) (r : TRef) (n : Nat) (w : W32) (tg : Tag) : (s.moveV r n w tg).planeReads = s.planeReads := rfl
@[simp] theorem State.moveV_readFail (s : State) (r : TRef) (n : Nat) (w : W32) (tg : Tag) : (s.moveV r n w tg).readFail = s.readFail := rfl
@[simp] theorem State.moveV_agenda (s : State) (r : TRef) (n : Nat) (w : W32) (tg : Tag) : (s.moveV r n w tg).agenda = s.agenda := rfl
@[simp] theorem State.moveV_cur (s : State) (r : TRef) (n : Nat) (w : W32) (tg : Tag) : (s.moveV r n w tg).cur = s.cur := rfl
@[simp] theorem State.moveV_turn (s : State) (r : TRef) (n : Nat) (w : W32) (tg : Tag) : (s.moveV r n w tg).turn = s.turn := rfl
@[simp] theorem State.moveV_free (s : State) (r : TRef) (n : Nat) (w : W32) (tg : Tag) : (s.moveV r n w tg).free = s.free := rfl
@[simp] theorem State.moveV_uid (s : State) (r : TRef) (n : Nat) (w : W32) (tg : Tag) : (s.moveV r n w tg).uid = s.uid := rfl

/-! `State.setPair` -/

@[simp] theorem State.setPair_mem (s : State) (r : TRef) (n : Nat) (w : Word) : (s.setPair r n w).mem = s.mem := rfl
@[simp] theorem State.setPair_poison (s : State) (r : TRef) (n : Nat) (w : Word) : (s.setPair r n w).poison = s.poison := rfl
@[simp] theorem State.setPair_tilePoison (s : State) (r : TRef) (n : Nat) (w : Word) : (s.setPair r n w).tilePoison = s.tilePoison := rfl
@[simp] theorem State.setPair_errors (s : State) (r : TRef) (n : Nat) (w : Word) : (s.setPair r n w).errors = s.errors := rfl
@[simp] theorem State.setPair_retained (s : State) (r : TRef) (n : Nat) (w : Word) : (s.setPair r n w).retained = s.retained := rfl
@[simp] theorem State.setPair_queue (s : State) (r : TRef) (n : Nat) (w : Word) : (s.setPair r n w).queue = s.queue := rfl
@[simp] theorem State.setPair_l1 (s : State) (r : TRef) (n : Nat) (w : Word) : (s.setPair r n w).l1 = s.l1 := rfl
@[simp] theorem State.setPair_l2 (s : State) (r : TRef) (n : Nat) (w : Word) : (s.setPair r n w).l2 = s.l2 := rfl
@[simp] theorem State.setPair_icache (s : State) (r : TRef) (n : Nat) (w : Word) : (s.setPair r n w).icache = s.icache := rfl
@[simp] theorem State.setPair_tlb (s : State) (r : TRef) (n : Nat) (w : Word) : (s.setPair r n w).tlb = s.tlb := rfl
@[simp] theorem State.setPair_clocks (s : State) (r : TRef) (n : Nat) (w : Word) : (s.setPair r n w).clocks = s.clocks := rfl
@[simp] theorem State.setPair_launches (s : State) (r : TRef) (n : Nat) (w : Word) : (s.setPair r n w).launches = s.launches := rfl
@[simp] theorem State.setPair_nextSeq (s : State) (r : TRef) (n : Nat) (w : Word) : (s.setPair r n w).nextSeq = s.nextSeq := rfl
@[simp] theorem State.setPair_lastTake (s : State) (r : TRef) (n : Nat) (w : Word) : (s.setPair r n w).lastTake = s.lastTake := rfl
@[simp] theorem State.setPair_herd (s : State) (r : TRef) (n : Nat) (w : Word) : (s.setPair r n w).herd = s.herd := rfl
@[simp] theorem State.setPair_fu (s : State) (r : TRef) (n : Nat) (w : Word) : (s.setPair r n w).fu = s.fu := rfl
@[simp] theorem State.setPair_copies (s : State) (r : TRef) (n : Nat) (w : Word) : (s.setPair r n w).copies = s.copies := rfl
@[simp] theorem State.setPair_tiles (s : State) (r : TRef) (n : Nat) (w : Word) : (s.setPair r n w).tiles = s.tiles := rfl
@[simp] theorem State.setPair_smpls (s : State) (r : TRef) (n : Nat) (w : Word) : (s.setPair r n w).smpls = s.smpls := rfl
@[simp] theorem State.setPair_attns (s : State) (r : TRef) (n : Nat) (w : Word) : (s.setPair r n w).attns = s.attns := rfl
@[simp] theorem State.setPair_appends (s : State) (r : TRef) (n : Nat) (w : Word) : (s.setPair r n w).appends = s.appends := rfl
@[simp] theorem State.setPair_seqs (s : State) (r : TRef) (n : Nat) (w : Word) : (s.setPair r n w).seqs = s.seqs := rfl
@[simp] theorem State.setPair_hst (s : State) (r : TRef) (n : Nat) (w : Word) : (s.setPair r n w).hst = s.hst := rfl
@[simp] theorem State.setPair_boot (s : State) (r : TRef) (n : Nat) (w : Word) : (s.setPair r n w).boot = s.boot := rfl
@[simp] theorem State.setPair_cols (s : State) (r : TRef) (n : Nat) (w : Word) : (s.setPair r n w).cols = s.cols := rfl
@[simp] theorem State.setPair_outbound (s : State) (r : TRef) (n : Nat) (w : Word) : (s.setPair r n w).outbound = s.outbound := rfl
@[simp] theorem State.setPair_answers (s : State) (r : TRef) (n : Nat) (w : Word) : (s.setPair r n w).answers = s.answers := rfl
@[simp] theorem State.setPair_drainLimit (s : State) (r : TRef) (n : Nat) (w : Word) : (s.setPair r n w).drainLimit = s.drainLimit := rfl
@[simp] theorem State.setPair_planeReads (s : State) (r : TRef) (n : Nat) (w : Word) : (s.setPair r n w).planeReads = s.planeReads := rfl
@[simp] theorem State.setPair_readFail (s : State) (r : TRef) (n : Nat) (w : Word) : (s.setPair r n w).readFail = s.readFail := rfl
@[simp] theorem State.setPair_agenda (s : State) (r : TRef) (n : Nat) (w : Word) : (s.setPair r n w).agenda = s.agenda := rfl
@[simp] theorem State.setPair_cur (s : State) (r : TRef) (n : Nat) (w : Word) : (s.setPair r n w).cur = s.cur := rfl
@[simp] theorem State.setPair_turn (s : State) (r : TRef) (n : Nat) (w : Word) : (s.setPair r n w).turn = s.turn := rfl
@[simp] theorem State.setPair_free (s : State) (r : TRef) (n : Nat) (w : Word) : (s.setPair r n w).free = s.free := rfl
@[simp] theorem State.setPair_uid (s : State) (r : TRef) (n : Nat) (w : Word) : (s.setPair r n w).uid = s.uid := rfl

/-! `State.setP` -/

@[simp] theorem State.setP_mem (s : State) (r : TRef) (n : Nat) (b : Bool) : (s.setP r n b).mem = s.mem := rfl
@[simp] theorem State.setP_poison (s : State) (r : TRef) (n : Nat) (b : Bool) : (s.setP r n b).poison = s.poison := rfl
@[simp] theorem State.setP_tilePoison (s : State) (r : TRef) (n : Nat) (b : Bool) : (s.setP r n b).tilePoison = s.tilePoison := rfl
@[simp] theorem State.setP_errors (s : State) (r : TRef) (n : Nat) (b : Bool) : (s.setP r n b).errors = s.errors := rfl
@[simp] theorem State.setP_retained (s : State) (r : TRef) (n : Nat) (b : Bool) : (s.setP r n b).retained = s.retained := rfl
@[simp] theorem State.setP_queue (s : State) (r : TRef) (n : Nat) (b : Bool) : (s.setP r n b).queue = s.queue := rfl
@[simp] theorem State.setP_l1 (s : State) (r : TRef) (n : Nat) (b : Bool) : (s.setP r n b).l1 = s.l1 := rfl
@[simp] theorem State.setP_l2 (s : State) (r : TRef) (n : Nat) (b : Bool) : (s.setP r n b).l2 = s.l2 := rfl
@[simp] theorem State.setP_icache (s : State) (r : TRef) (n : Nat) (b : Bool) : (s.setP r n b).icache = s.icache := rfl
@[simp] theorem State.setP_tlb (s : State) (r : TRef) (n : Nat) (b : Bool) : (s.setP r n b).tlb = s.tlb := rfl
@[simp] theorem State.setP_clocks (s : State) (r : TRef) (n : Nat) (b : Bool) : (s.setP r n b).clocks = s.clocks := rfl
@[simp] theorem State.setP_launches (s : State) (r : TRef) (n : Nat) (b : Bool) : (s.setP r n b).launches = s.launches := rfl
@[simp] theorem State.setP_nextSeq (s : State) (r : TRef) (n : Nat) (b : Bool) : (s.setP r n b).nextSeq = s.nextSeq := rfl
@[simp] theorem State.setP_lastTake (s : State) (r : TRef) (n : Nat) (b : Bool) : (s.setP r n b).lastTake = s.lastTake := rfl
@[simp] theorem State.setP_herd (s : State) (r : TRef) (n : Nat) (b : Bool) : (s.setP r n b).herd = s.herd := rfl
@[simp] theorem State.setP_fu (s : State) (r : TRef) (n : Nat) (b : Bool) : (s.setP r n b).fu = s.fu := rfl
@[simp] theorem State.setP_copies (s : State) (r : TRef) (n : Nat) (b : Bool) : (s.setP r n b).copies = s.copies := rfl
@[simp] theorem State.setP_tiles (s : State) (r : TRef) (n : Nat) (b : Bool) : (s.setP r n b).tiles = s.tiles := rfl
@[simp] theorem State.setP_smpls (s : State) (r : TRef) (n : Nat) (b : Bool) : (s.setP r n b).smpls = s.smpls := rfl
@[simp] theorem State.setP_attns (s : State) (r : TRef) (n : Nat) (b : Bool) : (s.setP r n b).attns = s.attns := rfl
@[simp] theorem State.setP_appends (s : State) (r : TRef) (n : Nat) (b : Bool) : (s.setP r n b).appends = s.appends := rfl
@[simp] theorem State.setP_seqs (s : State) (r : TRef) (n : Nat) (b : Bool) : (s.setP r n b).seqs = s.seqs := rfl
@[simp] theorem State.setP_hst (s : State) (r : TRef) (n : Nat) (b : Bool) : (s.setP r n b).hst = s.hst := rfl
@[simp] theorem State.setP_boot (s : State) (r : TRef) (n : Nat) (b : Bool) : (s.setP r n b).boot = s.boot := rfl
@[simp] theorem State.setP_cols (s : State) (r : TRef) (n : Nat) (b : Bool) : (s.setP r n b).cols = s.cols := rfl
@[simp] theorem State.setP_outbound (s : State) (r : TRef) (n : Nat) (b : Bool) : (s.setP r n b).outbound = s.outbound := rfl
@[simp] theorem State.setP_answers (s : State) (r : TRef) (n : Nat) (b : Bool) : (s.setP r n b).answers = s.answers := rfl
@[simp] theorem State.setP_drainLimit (s : State) (r : TRef) (n : Nat) (b : Bool) : (s.setP r n b).drainLimit = s.drainLimit := rfl
@[simp] theorem State.setP_planeReads (s : State) (r : TRef) (n : Nat) (b : Bool) : (s.setP r n b).planeReads = s.planeReads := rfl
@[simp] theorem State.setP_readFail (s : State) (r : TRef) (n : Nat) (b : Bool) : (s.setP r n b).readFail = s.readFail := rfl
@[simp] theorem State.setP_agenda (s : State) (r : TRef) (n : Nat) (b : Bool) : (s.setP r n b).agenda = s.agenda := rfl
@[simp] theorem State.setP_cur (s : State) (r : TRef) (n : Nat) (b : Bool) : (s.setP r n b).cur = s.cur := rfl
@[simp] theorem State.setP_turn (s : State) (r : TRef) (n : Nat) (b : Bool) : (s.setP r n b).turn = s.turn := rfl
@[simp] theorem State.setP_free (s : State) (r : TRef) (n : Nat) (b : Bool) : (s.setP r n b).free = s.free := rfl
@[simp] theorem State.setP_uid (s : State) (r : TRef) (n : Nat) (b : Bool) : (s.setP r n b).uid = s.uid := rfl

/-! `State.setX` -/

@[simp] theorem State.setX_mem (s : State) (r : TRef) (n : Nat) (w : Word) : (s.setX r n w).mem = s.mem := rfl
@[simp] theorem State.setX_poison (s : State) (r : TRef) (n : Nat) (w : Word) : (s.setX r n w).poison = s.poison := rfl
@[simp] theorem State.setX_tilePoison (s : State) (r : TRef) (n : Nat) (w : Word) : (s.setX r n w).tilePoison = s.tilePoison := rfl
@[simp] theorem State.setX_errors (s : State) (r : TRef) (n : Nat) (w : Word) : (s.setX r n w).errors = s.errors := rfl
@[simp] theorem State.setX_retained (s : State) (r : TRef) (n : Nat) (w : Word) : (s.setX r n w).retained = s.retained := rfl
@[simp] theorem State.setX_queue (s : State) (r : TRef) (n : Nat) (w : Word) : (s.setX r n w).queue = s.queue := rfl
@[simp] theorem State.setX_l1 (s : State) (r : TRef) (n : Nat) (w : Word) : (s.setX r n w).l1 = s.l1 := rfl
@[simp] theorem State.setX_l2 (s : State) (r : TRef) (n : Nat) (w : Word) : (s.setX r n w).l2 = s.l2 := rfl
@[simp] theorem State.setX_icache (s : State) (r : TRef) (n : Nat) (w : Word) : (s.setX r n w).icache = s.icache := rfl
@[simp] theorem State.setX_tlb (s : State) (r : TRef) (n : Nat) (w : Word) : (s.setX r n w).tlb = s.tlb := rfl
@[simp] theorem State.setX_clocks (s : State) (r : TRef) (n : Nat) (w : Word) : (s.setX r n w).clocks = s.clocks := rfl
@[simp] theorem State.setX_launches (s : State) (r : TRef) (n : Nat) (w : Word) : (s.setX r n w).launches = s.launches := rfl
@[simp] theorem State.setX_nextSeq (s : State) (r : TRef) (n : Nat) (w : Word) : (s.setX r n w).nextSeq = s.nextSeq := rfl
@[simp] theorem State.setX_lastTake (s : State) (r : TRef) (n : Nat) (w : Word) : (s.setX r n w).lastTake = s.lastTake := rfl
@[simp] theorem State.setX_herd (s : State) (r : TRef) (n : Nat) (w : Word) : (s.setX r n w).herd = s.herd := rfl
@[simp] theorem State.setX_fu (s : State) (r : TRef) (n : Nat) (w : Word) : (s.setX r n w).fu = s.fu := rfl
@[simp] theorem State.setX_copies (s : State) (r : TRef) (n : Nat) (w : Word) : (s.setX r n w).copies = s.copies := rfl
@[simp] theorem State.setX_tiles (s : State) (r : TRef) (n : Nat) (w : Word) : (s.setX r n w).tiles = s.tiles := rfl
@[simp] theorem State.setX_smpls (s : State) (r : TRef) (n : Nat) (w : Word) : (s.setX r n w).smpls = s.smpls := rfl
@[simp] theorem State.setX_attns (s : State) (r : TRef) (n : Nat) (w : Word) : (s.setX r n w).attns = s.attns := rfl
@[simp] theorem State.setX_appends (s : State) (r : TRef) (n : Nat) (w : Word) : (s.setX r n w).appends = s.appends := rfl
@[simp] theorem State.setX_seqs (s : State) (r : TRef) (n : Nat) (w : Word) : (s.setX r n w).seqs = s.seqs := rfl
@[simp] theorem State.setX_hst (s : State) (r : TRef) (n : Nat) (w : Word) : (s.setX r n w).hst = s.hst := rfl
@[simp] theorem State.setX_boot (s : State) (r : TRef) (n : Nat) (w : Word) : (s.setX r n w).boot = s.boot := rfl
@[simp] theorem State.setX_cols (s : State) (r : TRef) (n : Nat) (w : Word) : (s.setX r n w).cols = s.cols := rfl
@[simp] theorem State.setX_outbound (s : State) (r : TRef) (n : Nat) (w : Word) : (s.setX r n w).outbound = s.outbound := rfl
@[simp] theorem State.setX_answers (s : State) (r : TRef) (n : Nat) (w : Word) : (s.setX r n w).answers = s.answers := rfl
@[simp] theorem State.setX_drainLimit (s : State) (r : TRef) (n : Nat) (w : Word) : (s.setX r n w).drainLimit = s.drainLimit := rfl
@[simp] theorem State.setX_planeReads (s : State) (r : TRef) (n : Nat) (w : Word) : (s.setX r n w).planeReads = s.planeReads := rfl
@[simp] theorem State.setX_readFail (s : State) (r : TRef) (n : Nat) (w : Word) : (s.setX r n w).readFail = s.readFail := rfl
@[simp] theorem State.setX_agenda (s : State) (r : TRef) (n : Nat) (w : Word) : (s.setX r n w).agenda = s.agenda := rfl
@[simp] theorem State.setX_cur (s : State) (r : TRef) (n : Nat) (w : Word) : (s.setX r n w).cur = s.cur := rfl
@[simp] theorem State.setX_turn (s : State) (r : TRef) (n : Nat) (w : Word) : (s.setX r n w).turn = s.turn := rfl
@[simp] theorem State.setX_free (s : State) (r : TRef) (n : Nat) (w : Word) : (s.setX r n w).free = s.free := rfl
@[simp] theorem State.setX_uid (s : State) (r : TRef) (n : Nat) (w : Word) : (s.setX r n w).uid = s.uid := rfl

/-! `State.raise` -/

@[simp] theorem State.raise_mem (s : State) (r : TRef) (fl : FpFlags) : (s.raise r fl).mem = s.mem := rfl
@[simp] theorem State.raise_poison (s : State) (r : TRef) (fl : FpFlags) : (s.raise r fl).poison = s.poison := rfl
@[simp] theorem State.raise_tilePoison (s : State) (r : TRef) (fl : FpFlags) : (s.raise r fl).tilePoison = s.tilePoison := rfl
@[simp] theorem State.raise_errors (s : State) (r : TRef) (fl : FpFlags) : (s.raise r fl).errors = s.errors := rfl
@[simp] theorem State.raise_retained (s : State) (r : TRef) (fl : FpFlags) : (s.raise r fl).retained = s.retained := rfl
@[simp] theorem State.raise_queue (s : State) (r : TRef) (fl : FpFlags) : (s.raise r fl).queue = s.queue := rfl
@[simp] theorem State.raise_l1 (s : State) (r : TRef) (fl : FpFlags) : (s.raise r fl).l1 = s.l1 := rfl
@[simp] theorem State.raise_l2 (s : State) (r : TRef) (fl : FpFlags) : (s.raise r fl).l2 = s.l2 := rfl
@[simp] theorem State.raise_icache (s : State) (r : TRef) (fl : FpFlags) : (s.raise r fl).icache = s.icache := rfl
@[simp] theorem State.raise_tlb (s : State) (r : TRef) (fl : FpFlags) : (s.raise r fl).tlb = s.tlb := rfl
@[simp] theorem State.raise_clocks (s : State) (r : TRef) (fl : FpFlags) : (s.raise r fl).clocks = s.clocks := rfl
@[simp] theorem State.raise_launches (s : State) (r : TRef) (fl : FpFlags) : (s.raise r fl).launches = s.launches := rfl
@[simp] theorem State.raise_nextSeq (s : State) (r : TRef) (fl : FpFlags) : (s.raise r fl).nextSeq = s.nextSeq := rfl
@[simp] theorem State.raise_lastTake (s : State) (r : TRef) (fl : FpFlags) : (s.raise r fl).lastTake = s.lastTake := rfl
@[simp] theorem State.raise_herd (s : State) (r : TRef) (fl : FpFlags) : (s.raise r fl).herd = s.herd := rfl
@[simp] theorem State.raise_fu (s : State) (r : TRef) (fl : FpFlags) : (s.raise r fl).fu = s.fu := rfl
@[simp] theorem State.raise_copies (s : State) (r : TRef) (fl : FpFlags) : (s.raise r fl).copies = s.copies := rfl
@[simp] theorem State.raise_tiles (s : State) (r : TRef) (fl : FpFlags) : (s.raise r fl).tiles = s.tiles := rfl
@[simp] theorem State.raise_smpls (s : State) (r : TRef) (fl : FpFlags) : (s.raise r fl).smpls = s.smpls := rfl
@[simp] theorem State.raise_attns (s : State) (r : TRef) (fl : FpFlags) : (s.raise r fl).attns = s.attns := rfl
@[simp] theorem State.raise_appends (s : State) (r : TRef) (fl : FpFlags) : (s.raise r fl).appends = s.appends := rfl
@[simp] theorem State.raise_seqs (s : State) (r : TRef) (fl : FpFlags) : (s.raise r fl).seqs = s.seqs := rfl
@[simp] theorem State.raise_hst (s : State) (r : TRef) (fl : FpFlags) : (s.raise r fl).hst = s.hst := rfl
@[simp] theorem State.raise_boot (s : State) (r : TRef) (fl : FpFlags) : (s.raise r fl).boot = s.boot := rfl
@[simp] theorem State.raise_cols (s : State) (r : TRef) (fl : FpFlags) : (s.raise r fl).cols = s.cols := rfl
@[simp] theorem State.raise_outbound (s : State) (r : TRef) (fl : FpFlags) : (s.raise r fl).outbound = s.outbound := rfl
@[simp] theorem State.raise_answers (s : State) (r : TRef) (fl : FpFlags) : (s.raise r fl).answers = s.answers := rfl
@[simp] theorem State.raise_drainLimit (s : State) (r : TRef) (fl : FpFlags) : (s.raise r fl).drainLimit = s.drainLimit := rfl
@[simp] theorem State.raise_planeReads (s : State) (r : TRef) (fl : FpFlags) : (s.raise r fl).planeReads = s.planeReads := rfl
@[simp] theorem State.raise_readFail (s : State) (r : TRef) (fl : FpFlags) : (s.raise r fl).readFail = s.readFail := rfl
@[simp] theorem State.raise_agenda (s : State) (r : TRef) (fl : FpFlags) : (s.raise r fl).agenda = s.agenda := rfl
@[simp] theorem State.raise_cur (s : State) (r : TRef) (fl : FpFlags) : (s.raise r fl).cur = s.cur := rfl
@[simp] theorem State.raise_turn (s : State) (r : TRef) (fl : FpFlags) : (s.raise r fl).turn = s.turn := rfl
@[simp] theorem State.raise_free (s : State) (r : TRef) (fl : FpFlags) : (s.raise r fl).free = s.free := rfl
@[simp] theorem State.raise_uid (s : State) (r : TRef) (fl : FpFlags) : (s.raise r fl).uid = s.uid := rfl

/-! `State.setPc` -/

@[simp] theorem State.setPc_mem (s : State) (r : TRef) (pc : Word) : (s.setPc r pc).mem = s.mem := rfl
@[simp] theorem State.setPc_poison (s : State) (r : TRef) (pc : Word) : (s.setPc r pc).poison = s.poison := rfl
@[simp] theorem State.setPc_tilePoison (s : State) (r : TRef) (pc : Word) : (s.setPc r pc).tilePoison = s.tilePoison := rfl
@[simp] theorem State.setPc_errors (s : State) (r : TRef) (pc : Word) : (s.setPc r pc).errors = s.errors := rfl
@[simp] theorem State.setPc_retained (s : State) (r : TRef) (pc : Word) : (s.setPc r pc).retained = s.retained := rfl
@[simp] theorem State.setPc_queue (s : State) (r : TRef) (pc : Word) : (s.setPc r pc).queue = s.queue := rfl
@[simp] theorem State.setPc_l1 (s : State) (r : TRef) (pc : Word) : (s.setPc r pc).l1 = s.l1 := rfl
@[simp] theorem State.setPc_l2 (s : State) (r : TRef) (pc : Word) : (s.setPc r pc).l2 = s.l2 := rfl
@[simp] theorem State.setPc_icache (s : State) (r : TRef) (pc : Word) : (s.setPc r pc).icache = s.icache := rfl
@[simp] theorem State.setPc_tlb (s : State) (r : TRef) (pc : Word) : (s.setPc r pc).tlb = s.tlb := rfl
@[simp] theorem State.setPc_clocks (s : State) (r : TRef) (pc : Word) : (s.setPc r pc).clocks = s.clocks := rfl
@[simp] theorem State.setPc_launches (s : State) (r : TRef) (pc : Word) : (s.setPc r pc).launches = s.launches := rfl
@[simp] theorem State.setPc_nextSeq (s : State) (r : TRef) (pc : Word) : (s.setPc r pc).nextSeq = s.nextSeq := rfl
@[simp] theorem State.setPc_lastTake (s : State) (r : TRef) (pc : Word) : (s.setPc r pc).lastTake = s.lastTake := rfl
@[simp] theorem State.setPc_herd (s : State) (r : TRef) (pc : Word) : (s.setPc r pc).herd = s.herd := rfl
@[simp] theorem State.setPc_fu (s : State) (r : TRef) (pc : Word) : (s.setPc r pc).fu = s.fu := rfl
@[simp] theorem State.setPc_copies (s : State) (r : TRef) (pc : Word) : (s.setPc r pc).copies = s.copies := rfl
@[simp] theorem State.setPc_tiles (s : State) (r : TRef) (pc : Word) : (s.setPc r pc).tiles = s.tiles := rfl
@[simp] theorem State.setPc_smpls (s : State) (r : TRef) (pc : Word) : (s.setPc r pc).smpls = s.smpls := rfl
@[simp] theorem State.setPc_attns (s : State) (r : TRef) (pc : Word) : (s.setPc r pc).attns = s.attns := rfl
@[simp] theorem State.setPc_appends (s : State) (r : TRef) (pc : Word) : (s.setPc r pc).appends = s.appends := rfl
@[simp] theorem State.setPc_seqs (s : State) (r : TRef) (pc : Word) : (s.setPc r pc).seqs = s.seqs := rfl
@[simp] theorem State.setPc_hst (s : State) (r : TRef) (pc : Word) : (s.setPc r pc).hst = s.hst := rfl
@[simp] theorem State.setPc_boot (s : State) (r : TRef) (pc : Word) : (s.setPc r pc).boot = s.boot := rfl
@[simp] theorem State.setPc_cols (s : State) (r : TRef) (pc : Word) : (s.setPc r pc).cols = s.cols := rfl
@[simp] theorem State.setPc_outbound (s : State) (r : TRef) (pc : Word) : (s.setPc r pc).outbound = s.outbound := rfl
@[simp] theorem State.setPc_answers (s : State) (r : TRef) (pc : Word) : (s.setPc r pc).answers = s.answers := rfl
@[simp] theorem State.setPc_drainLimit (s : State) (r : TRef) (pc : Word) : (s.setPc r pc).drainLimit = s.drainLimit := rfl
@[simp] theorem State.setPc_planeReads (s : State) (r : TRef) (pc : Word) : (s.setPc r pc).planeReads = s.planeReads := rfl
@[simp] theorem State.setPc_readFail (s : State) (r : TRef) (pc : Word) : (s.setPc r pc).readFail = s.readFail := rfl
@[simp] theorem State.setPc_agenda (s : State) (r : TRef) (pc : Word) : (s.setPc r pc).agenda = s.agenda := rfl
@[simp] theorem State.setPc_cur (s : State) (r : TRef) (pc : Word) : (s.setPc r pc).cur = s.cur := rfl
@[simp] theorem State.setPc_turn (s : State) (r : TRef) (pc : Word) : (s.setPc r pc).turn = s.turn := rfl
@[simp] theorem State.setPc_free (s : State) (r : TRef) (pc : Word) : (s.setPc r pc).free = s.free := rfl
@[simp] theorem State.setPc_uid (s : State) (r : TRef) (pc : Word) : (s.setPc r pc).uid = s.uid := rfl

/-! `State.leaveHandler` -/

@[simp] theorem State.leaveHandler_mem (s : State) (c : Cx) : (s.leaveHandler c).mem = s.mem := rfl
@[simp] theorem State.leaveHandler_poison (s : State) (c : Cx) : (s.leaveHandler c).poison = s.poison := rfl
@[simp] theorem State.leaveHandler_tilePoison (s : State) (c : Cx) : (s.leaveHandler c).tilePoison = s.tilePoison := rfl
@[simp] theorem State.leaveHandler_errors (s : State) (c : Cx) : (s.leaveHandler c).errors = s.errors := rfl
@[simp] theorem State.leaveHandler_retained (s : State) (c : Cx) : (s.leaveHandler c).retained = s.retained := rfl
@[simp] theorem State.leaveHandler_queue (s : State) (c : Cx) : (s.leaveHandler c).queue = s.queue := rfl
@[simp] theorem State.leaveHandler_l1 (s : State) (c : Cx) : (s.leaveHandler c).l1 = s.l1 := rfl
@[simp] theorem State.leaveHandler_l2 (s : State) (c : Cx) : (s.leaveHandler c).l2 = s.l2 := rfl
@[simp] theorem State.leaveHandler_icache (s : State) (c : Cx) : (s.leaveHandler c).icache = s.icache := rfl
@[simp] theorem State.leaveHandler_tlb (s : State) (c : Cx) : (s.leaveHandler c).tlb = s.tlb := rfl
@[simp] theorem State.leaveHandler_clocks (s : State) (c : Cx) : (s.leaveHandler c).clocks = s.clocks := rfl
@[simp] theorem State.leaveHandler_launches (s : State) (c : Cx) : (s.leaveHandler c).launches = s.launches := rfl
@[simp] theorem State.leaveHandler_nextSeq (s : State) (c : Cx) : (s.leaveHandler c).nextSeq = s.nextSeq := rfl
@[simp] theorem State.leaveHandler_lastTake (s : State) (c : Cx) : (s.leaveHandler c).lastTake = s.lastTake := rfl
@[simp] theorem State.leaveHandler_herd (s : State) (c : Cx) : (s.leaveHandler c).herd = s.herd := rfl
@[simp] theorem State.leaveHandler_fu (s : State) (c : Cx) : (s.leaveHandler c).fu = s.fu := rfl
@[simp] theorem State.leaveHandler_copies (s : State) (c : Cx) : (s.leaveHandler c).copies = s.copies := rfl
@[simp] theorem State.leaveHandler_tiles (s : State) (c : Cx) : (s.leaveHandler c).tiles = s.tiles := rfl
@[simp] theorem State.leaveHandler_smpls (s : State) (c : Cx) : (s.leaveHandler c).smpls = s.smpls := rfl
@[simp] theorem State.leaveHandler_attns (s : State) (c : Cx) : (s.leaveHandler c).attns = s.attns := rfl
@[simp] theorem State.leaveHandler_appends (s : State) (c : Cx) : (s.leaveHandler c).appends = s.appends := rfl
@[simp] theorem State.leaveHandler_seqs (s : State) (c : Cx) : (s.leaveHandler c).seqs = s.seqs := rfl
@[simp] theorem State.leaveHandler_hst (s : State) (c : Cx) : (s.leaveHandler c).hst = s.hst := rfl
@[simp] theorem State.leaveHandler_boot (s : State) (c : Cx) : (s.leaveHandler c).boot = s.boot := rfl
@[simp] theorem State.leaveHandler_cols (s : State) (c : Cx) : (s.leaveHandler c).cols = s.cols := rfl
@[simp] theorem State.leaveHandler_outbound (s : State) (c : Cx) : (s.leaveHandler c).outbound = s.outbound := rfl
@[simp] theorem State.leaveHandler_answers (s : State) (c : Cx) : (s.leaveHandler c).answers = s.answers := rfl
@[simp] theorem State.leaveHandler_drainLimit (s : State) (c : Cx) : (s.leaveHandler c).drainLimit = s.drainLimit := rfl
@[simp] theorem State.leaveHandler_planeReads (s : State) (c : Cx) : (s.leaveHandler c).planeReads = s.planeReads := rfl
@[simp] theorem State.leaveHandler_readFail (s : State) (c : Cx) : (s.leaveHandler c).readFail = s.readFail := rfl
@[simp] theorem State.leaveHandler_agenda (s : State) (c : Cx) : (s.leaveHandler c).agenda = s.agenda := rfl
@[simp] theorem State.leaveHandler_cur (s : State) (c : Cx) : (s.leaveHandler c).cur = s.cur := rfl
@[simp] theorem State.leaveHandler_turn (s : State) (c : Cx) : (s.leaveHandler c).turn = s.turn := rfl
@[simp] theorem State.leaveHandler_free (s : State) (c : Cx) : (s.leaveHandler c).free = s.free := rfl
@[simp] theorem State.leaveHandler_uid (s : State) (c : Cx) : (s.leaveHandler c).uid = s.uid := rfl

/-! `State.modLaunch` -/

@[simp] theorem State.modLaunch_mem (s : State) (q : Nat) (f : Launch → Launch) : (s.modLaunch q f).mem = s.mem := rfl
@[simp] theorem State.modLaunch_poison (s : State) (q : Nat) (f : Launch → Launch) : (s.modLaunch q f).poison = s.poison := rfl
@[simp] theorem State.modLaunch_tilePoison (s : State) (q : Nat) (f : Launch → Launch) : (s.modLaunch q f).tilePoison = s.tilePoison := rfl
@[simp] theorem State.modLaunch_errors (s : State) (q : Nat) (f : Launch → Launch) : (s.modLaunch q f).errors = s.errors := rfl
@[simp] theorem State.modLaunch_retained (s : State) (q : Nat) (f : Launch → Launch) : (s.modLaunch q f).retained = s.retained := rfl
@[simp] theorem State.modLaunch_teams (s : State) (q : Nat) (f : Launch → Launch) : (s.modLaunch q f).teams = s.teams := rfl
@[simp] theorem State.modLaunch_queue (s : State) (q : Nat) (f : Launch → Launch) : (s.modLaunch q f).queue = s.queue := rfl
@[simp] theorem State.modLaunch_l1 (s : State) (q : Nat) (f : Launch → Launch) : (s.modLaunch q f).l1 = s.l1 := rfl
@[simp] theorem State.modLaunch_l2 (s : State) (q : Nat) (f : Launch → Launch) : (s.modLaunch q f).l2 = s.l2 := rfl
@[simp] theorem State.modLaunch_icache (s : State) (q : Nat) (f : Launch → Launch) : (s.modLaunch q f).icache = s.icache := rfl
@[simp] theorem State.modLaunch_tlb (s : State) (q : Nat) (f : Launch → Launch) : (s.modLaunch q f).tlb = s.tlb := rfl
@[simp] theorem State.modLaunch_clocks (s : State) (q : Nat) (f : Launch → Launch) : (s.modLaunch q f).clocks = s.clocks := rfl
@[simp] theorem State.modLaunch_nextSeq (s : State) (q : Nat) (f : Launch → Launch) : (s.modLaunch q f).nextSeq = s.nextSeq := rfl
@[simp] theorem State.modLaunch_lastTake (s : State) (q : Nat) (f : Launch → Launch) : (s.modLaunch q f).lastTake = s.lastTake := rfl
@[simp] theorem State.modLaunch_herd (s : State) (q : Nat) (f : Launch → Launch) : (s.modLaunch q f).herd = s.herd := rfl
@[simp] theorem State.modLaunch_fu (s : State) (q : Nat) (f : Launch → Launch) : (s.modLaunch q f).fu = s.fu := rfl
@[simp] theorem State.modLaunch_copies (s : State) (q : Nat) (f : Launch → Launch) : (s.modLaunch q f).copies = s.copies := rfl
@[simp] theorem State.modLaunch_tiles (s : State) (q : Nat) (f : Launch → Launch) : (s.modLaunch q f).tiles = s.tiles := rfl
@[simp] theorem State.modLaunch_smpls (s : State) (q : Nat) (f : Launch → Launch) : (s.modLaunch q f).smpls = s.smpls := rfl
@[simp] theorem State.modLaunch_attns (s : State) (q : Nat) (f : Launch → Launch) : (s.modLaunch q f).attns = s.attns := rfl
@[simp] theorem State.modLaunch_appends (s : State) (q : Nat) (f : Launch → Launch) : (s.modLaunch q f).appends = s.appends := rfl
@[simp] theorem State.modLaunch_seqs (s : State) (q : Nat) (f : Launch → Launch) : (s.modLaunch q f).seqs = s.seqs := rfl
@[simp] theorem State.modLaunch_hst (s : State) (q : Nat) (f : Launch → Launch) : (s.modLaunch q f).hst = s.hst := rfl
@[simp] theorem State.modLaunch_boot (s : State) (q : Nat) (f : Launch → Launch) : (s.modLaunch q f).boot = s.boot := rfl
@[simp] theorem State.modLaunch_cols (s : State) (q : Nat) (f : Launch → Launch) : (s.modLaunch q f).cols = s.cols := rfl
@[simp] theorem State.modLaunch_outbound (s : State) (q : Nat) (f : Launch → Launch) : (s.modLaunch q f).outbound = s.outbound := rfl
@[simp] theorem State.modLaunch_answers (s : State) (q : Nat) (f : Launch → Launch) : (s.modLaunch q f).answers = s.answers := rfl
@[simp] theorem State.modLaunch_drainLimit (s : State) (q : Nat) (f : Launch → Launch) : (s.modLaunch q f).drainLimit = s.drainLimit := rfl
@[simp] theorem State.modLaunch_planeReads (s : State) (q : Nat) (f : Launch → Launch) : (s.modLaunch q f).planeReads = s.planeReads := rfl
@[simp] theorem State.modLaunch_readFail (s : State) (q : Nat) (f : Launch → Launch) : (s.modLaunch q f).readFail = s.readFail := rfl
@[simp] theorem State.modLaunch_agenda (s : State) (q : Nat) (f : Launch → Launch) : (s.modLaunch q f).agenda = s.agenda := rfl
@[simp] theorem State.modLaunch_cur (s : State) (q : Nat) (f : Launch → Launch) : (s.modLaunch q f).cur = s.cur := rfl
@[simp] theorem State.modLaunch_turn (s : State) (q : Nat) (f : Launch → Launch) : (s.modLaunch q f).turn = s.turn := rfl
@[simp] theorem State.modLaunch_free (s : State) (q : Nat) (f : Launch → Launch) : (s.modLaunch q f).free = s.free := rfl
@[simp] theorem State.modLaunch_uid (s : State) (q : Nat) (f : Launch → Launch) : (s.modLaunch q f).uid = s.uid := rfl

/-! `State.fresh` -/

@[simp] theorem State.fresh_mem (s : State) : (s.fresh).mem = s.mem := rfl
@[simp] theorem State.fresh_poison (s : State) : (s.fresh).poison = s.poison := rfl
@[simp] theorem State.fresh_tilePoison (s : State) : (s.fresh).tilePoison = s.tilePoison := rfl
@[simp] theorem State.fresh_errors (s : State) : (s.fresh).errors = s.errors := rfl
@[simp] theorem State.fresh_retained (s : State) : (s.fresh).retained = s.retained := rfl
@[simp] theorem State.fresh_teams (s : State) : (s.fresh).teams = s.teams := rfl
@[simp] theorem State.fresh_queue (s : State) : (s.fresh).queue = s.queue := rfl
@[simp] theorem State.fresh_l1 (s : State) : (s.fresh).l1 = s.l1 := rfl
@[simp] theorem State.fresh_l2 (s : State) : (s.fresh).l2 = s.l2 := rfl
@[simp] theorem State.fresh_icache (s : State) : (s.fresh).icache = s.icache := rfl
@[simp] theorem State.fresh_tlb (s : State) : (s.fresh).tlb = s.tlb := rfl
@[simp] theorem State.fresh_clocks (s : State) : (s.fresh).clocks = s.clocks := rfl
@[simp] theorem State.fresh_launches (s : State) : (s.fresh).launches = s.launches := rfl
@[simp] theorem State.fresh_nextSeq (s : State) : (s.fresh).nextSeq = s.nextSeq := rfl
@[simp] theorem State.fresh_lastTake (s : State) : (s.fresh).lastTake = s.lastTake := rfl
@[simp] theorem State.fresh_herd (s : State) : (s.fresh).herd = s.herd := rfl
@[simp] theorem State.fresh_fu (s : State) : (s.fresh).fu = s.fu := rfl
@[simp] theorem State.fresh_copies (s : State) : (s.fresh).copies = s.copies := rfl
@[simp] theorem State.fresh_tiles (s : State) : (s.fresh).tiles = s.tiles := rfl
@[simp] theorem State.fresh_smpls (s : State) : (s.fresh).smpls = s.smpls := rfl
@[simp] theorem State.fresh_attns (s : State) : (s.fresh).attns = s.attns := rfl
@[simp] theorem State.fresh_appends (s : State) : (s.fresh).appends = s.appends := rfl
@[simp] theorem State.fresh_seqs (s : State) : (s.fresh).seqs = s.seqs := rfl
@[simp] theorem State.fresh_hst (s : State) : (s.fresh).hst = s.hst := rfl
@[simp] theorem State.fresh_boot (s : State) : (s.fresh).boot = s.boot := rfl
@[simp] theorem State.fresh_cols (s : State) : (s.fresh).cols = s.cols := rfl
@[simp] theorem State.fresh_outbound (s : State) : (s.fresh).outbound = s.outbound := rfl
@[simp] theorem State.fresh_answers (s : State) : (s.fresh).answers = s.answers := rfl
@[simp] theorem State.fresh_drainLimit (s : State) : (s.fresh).drainLimit = s.drainLimit := rfl
@[simp] theorem State.fresh_planeReads (s : State) : (s.fresh).planeReads = s.planeReads := rfl
@[simp] theorem State.fresh_readFail (s : State) : (s.fresh).readFail = s.readFail := rfl
@[simp] theorem State.fresh_agenda (s : State) : (s.fresh).agenda = s.agenda := rfl
@[simp] theorem State.fresh_cur (s : State) : (s.fresh).cur = s.cur := rfl
@[simp] theorem State.fresh_turn (s : State) : (s.fresh).turn = s.turn := rfl
@[simp] theorem State.fresh_free (s : State) : (s.fresh).free = s.free := rfl

/-! `State.sendHerd` -/

@[simp] theorem State.sendHerd_mem (s : State) (q : HReq) : (s.sendHerd q).mem = s.mem := rfl
@[simp] theorem State.sendHerd_poison (s : State) (q : HReq) : (s.sendHerd q).poison = s.poison := rfl
@[simp] theorem State.sendHerd_tilePoison (s : State) (q : HReq) : (s.sendHerd q).tilePoison = s.tilePoison := rfl
@[simp] theorem State.sendHerd_errors (s : State) (q : HReq) : (s.sendHerd q).errors = s.errors := rfl
@[simp] theorem State.sendHerd_retained (s : State) (q : HReq) : (s.sendHerd q).retained = s.retained := rfl
@[simp] theorem State.sendHerd_teams (s : State) (q : HReq) : (s.sendHerd q).teams = s.teams := rfl
@[simp] theorem State.sendHerd_queue (s : State) (q : HReq) : (s.sendHerd q).queue = s.queue := rfl
@[simp] theorem State.sendHerd_l1 (s : State) (q : HReq) : (s.sendHerd q).l1 = s.l1 := rfl
@[simp] theorem State.sendHerd_l2 (s : State) (q : HReq) : (s.sendHerd q).l2 = s.l2 := rfl
@[simp] theorem State.sendHerd_icache (s : State) (q : HReq) : (s.sendHerd q).icache = s.icache := rfl
@[simp] theorem State.sendHerd_tlb (s : State) (q : HReq) : (s.sendHerd q).tlb = s.tlb := rfl
@[simp] theorem State.sendHerd_clocks (s : State) (q : HReq) : (s.sendHerd q).clocks = s.clocks := rfl
@[simp] theorem State.sendHerd_launches (s : State) (q : HReq) : (s.sendHerd q).launches = s.launches := rfl
@[simp] theorem State.sendHerd_nextSeq (s : State) (q : HReq) : (s.sendHerd q).nextSeq = s.nextSeq := rfl
@[simp] theorem State.sendHerd_lastTake (s : State) (q : HReq) : (s.sendHerd q).lastTake = s.lastTake := rfl
@[simp] theorem State.sendHerd_fu (s : State) (q : HReq) : (s.sendHerd q).fu = s.fu := rfl
@[simp] theorem State.sendHerd_copies (s : State) (q : HReq) : (s.sendHerd q).copies = s.copies := rfl
@[simp] theorem State.sendHerd_tiles (s : State) (q : HReq) : (s.sendHerd q).tiles = s.tiles := rfl
@[simp] theorem State.sendHerd_smpls (s : State) (q : HReq) : (s.sendHerd q).smpls = s.smpls := rfl
@[simp] theorem State.sendHerd_attns (s : State) (q : HReq) : (s.sendHerd q).attns = s.attns := rfl
@[simp] theorem State.sendHerd_appends (s : State) (q : HReq) : (s.sendHerd q).appends = s.appends := rfl
@[simp] theorem State.sendHerd_seqs (s : State) (q : HReq) : (s.sendHerd q).seqs = s.seqs := rfl
@[simp] theorem State.sendHerd_hst (s : State) (q : HReq) : (s.sendHerd q).hst = s.hst := rfl
@[simp] theorem State.sendHerd_boot (s : State) (q : HReq) : (s.sendHerd q).boot = s.boot := rfl
@[simp] theorem State.sendHerd_cols (s : State) (q : HReq) : (s.sendHerd q).cols = s.cols := rfl
@[simp] theorem State.sendHerd_outbound (s : State) (q : HReq) : (s.sendHerd q).outbound = s.outbound := rfl
@[simp] theorem State.sendHerd_answers (s : State) (q : HReq) : (s.sendHerd q).answers = s.answers := rfl
@[simp] theorem State.sendHerd_drainLimit (s : State) (q : HReq) : (s.sendHerd q).drainLimit = s.drainLimit := rfl
@[simp] theorem State.sendHerd_planeReads (s : State) (q : HReq) : (s.sendHerd q).planeReads = s.planeReads := rfl
@[simp] theorem State.sendHerd_readFail (s : State) (q : HReq) : (s.sendHerd q).readFail = s.readFail := rfl
@[simp] theorem State.sendHerd_agenda (s : State) (q : HReq) : (s.sendHerd q).agenda = s.agenda := rfl
@[simp] theorem State.sendHerd_cur (s : State) (q : HReq) : (s.sendHerd q).cur = s.cur := rfl
@[simp] theorem State.sendHerd_turn (s : State) (q : HReq) : (s.sendHerd q).turn = s.turn := rfl
@[simp] theorem State.sendHerd_free (s : State) (q : HReq) : (s.sendHerd q).free = s.free := rfl
@[simp] theorem State.sendHerd_uid (s : State) (q : HReq) : (s.sendHerd q).uid = s.uid := rfl

/-! `State.writeHome` -/

@[simp] theorem State.writeHome_retained (s : State) (ws : List Host.Cell) : (s.writeHome ws).retained = s.retained := rfl
@[simp] theorem State.writeHome_teams (s : State) (ws : List Host.Cell) : (s.writeHome ws).teams = s.teams := rfl
@[simp] theorem State.writeHome_queue (s : State) (ws : List Host.Cell) : (s.writeHome ws).queue = s.queue := rfl
@[simp] theorem State.writeHome_l1 (s : State) (ws : List Host.Cell) : (s.writeHome ws).l1 = s.l1 := rfl
@[simp] theorem State.writeHome_icache (s : State) (ws : List Host.Cell) : (s.writeHome ws).icache = s.icache := rfl
@[simp] theorem State.writeHome_tlb (s : State) (ws : List Host.Cell) : (s.writeHome ws).tlb = s.tlb := rfl
@[simp] theorem State.writeHome_clocks (s : State) (ws : List Host.Cell) : (s.writeHome ws).clocks = s.clocks := rfl
@[simp] theorem State.writeHome_launches (s : State) (ws : List Host.Cell) : (s.writeHome ws).launches = s.launches := rfl
@[simp] theorem State.writeHome_nextSeq (s : State) (ws : List Host.Cell) : (s.writeHome ws).nextSeq = s.nextSeq := rfl
@[simp] theorem State.writeHome_lastTake (s : State) (ws : List Host.Cell) : (s.writeHome ws).lastTake = s.lastTake := rfl
@[simp] theorem State.writeHome_fu (s : State) (ws : List Host.Cell) : (s.writeHome ws).fu = s.fu := rfl
@[simp] theorem State.writeHome_copies (s : State) (ws : List Host.Cell) : (s.writeHome ws).copies = s.copies := rfl
@[simp] theorem State.writeHome_tiles (s : State) (ws : List Host.Cell) : (s.writeHome ws).tiles = s.tiles := rfl
@[simp] theorem State.writeHome_smpls (s : State) (ws : List Host.Cell) : (s.writeHome ws).smpls = s.smpls := rfl
@[simp] theorem State.writeHome_attns (s : State) (ws : List Host.Cell) : (s.writeHome ws).attns = s.attns := rfl
@[simp] theorem State.writeHome_appends (s : State) (ws : List Host.Cell) : (s.writeHome ws).appends = s.appends := rfl
@[simp] theorem State.writeHome_seqs (s : State) (ws : List Host.Cell) : (s.writeHome ws).seqs = s.seqs := rfl
@[simp] theorem State.writeHome_hst (s : State) (ws : List Host.Cell) : (s.writeHome ws).hst = s.hst := rfl
@[simp] theorem State.writeHome_boot (s : State) (ws : List Host.Cell) : (s.writeHome ws).boot = s.boot := rfl
@[simp] theorem State.writeHome_cols (s : State) (ws : List Host.Cell) : (s.writeHome ws).cols = s.cols := rfl
@[simp] theorem State.writeHome_answers (s : State) (ws : List Host.Cell) : (s.writeHome ws).answers = s.answers := rfl
@[simp] theorem State.writeHome_drainLimit (s : State) (ws : List Host.Cell) : (s.writeHome ws).drainLimit = s.drainLimit := rfl
@[simp] theorem State.writeHome_planeReads (s : State) (ws : List Host.Cell) : (s.writeHome ws).planeReads = s.planeReads := rfl
@[simp] theorem State.writeHome_readFail (s : State) (ws : List Host.Cell) : (s.writeHome ws).readFail = s.readFail := rfl
@[simp] theorem State.writeHome_agenda (s : State) (ws : List Host.Cell) : (s.writeHome ws).agenda = s.agenda := rfl
@[simp] theorem State.writeHome_cur (s : State) (ws : List Host.Cell) : (s.writeHome ws).cur = s.cur := rfl
@[simp] theorem State.writeHome_turn (s : State) (ws : List Host.Cell) : (s.writeHome ws).turn = s.turn := rfl
@[simp] theorem State.writeHome_free (s : State) (ws : List Host.Cell) : (s.writeHome ws).free = s.free := rfl
@[simp] theorem State.writeHome_uid (s : State) (ws : List Host.Cell) : (s.writeHome ws).uid = s.uid := rfl

/-! `State.poisonAt` -/

@[simp] theorem State.poisonAt_mem (s : State) (ls : List Nat) : (s.poisonAt ls).mem = s.mem := rfl
@[simp] theorem State.poisonAt_errors (s : State) (ls : List Nat) : (s.poisonAt ls).errors = s.errors := rfl
@[simp] theorem State.poisonAt_retained (s : State) (ls : List Nat) : (s.poisonAt ls).retained = s.retained := rfl
@[simp] theorem State.poisonAt_teams (s : State) (ls : List Nat) : (s.poisonAt ls).teams = s.teams := rfl
@[simp] theorem State.poisonAt_queue (s : State) (ls : List Nat) : (s.poisonAt ls).queue = s.queue := rfl
@[simp] theorem State.poisonAt_l1 (s : State) (ls : List Nat) : (s.poisonAt ls).l1 = s.l1 := rfl
@[simp] theorem State.poisonAt_l2 (s : State) (ls : List Nat) : (s.poisonAt ls).l2 = s.l2 := rfl
@[simp] theorem State.poisonAt_icache (s : State) (ls : List Nat) : (s.poisonAt ls).icache = s.icache := rfl
@[simp] theorem State.poisonAt_tlb (s : State) (ls : List Nat) : (s.poisonAt ls).tlb = s.tlb := rfl
@[simp] theorem State.poisonAt_clocks (s : State) (ls : List Nat) : (s.poisonAt ls).clocks = s.clocks := rfl
@[simp] theorem State.poisonAt_launches (s : State) (ls : List Nat) : (s.poisonAt ls).launches = s.launches := rfl
@[simp] theorem State.poisonAt_nextSeq (s : State) (ls : List Nat) : (s.poisonAt ls).nextSeq = s.nextSeq := rfl
@[simp] theorem State.poisonAt_lastTake (s : State) (ls : List Nat) : (s.poisonAt ls).lastTake = s.lastTake := rfl
@[simp] theorem State.poisonAt_herd (s : State) (ls : List Nat) : (s.poisonAt ls).herd = s.herd := rfl
@[simp] theorem State.poisonAt_fu (s : State) (ls : List Nat) : (s.poisonAt ls).fu = s.fu := rfl
@[simp] theorem State.poisonAt_copies (s : State) (ls : List Nat) : (s.poisonAt ls).copies = s.copies := rfl
@[simp] theorem State.poisonAt_tiles (s : State) (ls : List Nat) : (s.poisonAt ls).tiles = s.tiles := rfl
@[simp] theorem State.poisonAt_smpls (s : State) (ls : List Nat) : (s.poisonAt ls).smpls = s.smpls := rfl
@[simp] theorem State.poisonAt_attns (s : State) (ls : List Nat) : (s.poisonAt ls).attns = s.attns := rfl
@[simp] theorem State.poisonAt_appends (s : State) (ls : List Nat) : (s.poisonAt ls).appends = s.appends := rfl
@[simp] theorem State.poisonAt_seqs (s : State) (ls : List Nat) : (s.poisonAt ls).seqs = s.seqs := rfl
@[simp] theorem State.poisonAt_hst (s : State) (ls : List Nat) : (s.poisonAt ls).hst = s.hst := rfl
@[simp] theorem State.poisonAt_boot (s : State) (ls : List Nat) : (s.poisonAt ls).boot = s.boot := rfl
@[simp] theorem State.poisonAt_cols (s : State) (ls : List Nat) : (s.poisonAt ls).cols = s.cols := rfl
@[simp] theorem State.poisonAt_outbound (s : State) (ls : List Nat) : (s.poisonAt ls).outbound = s.outbound := rfl
@[simp] theorem State.poisonAt_answers (s : State) (ls : List Nat) : (s.poisonAt ls).answers = s.answers := rfl
@[simp] theorem State.poisonAt_drainLimit (s : State) (ls : List Nat) : (s.poisonAt ls).drainLimit = s.drainLimit := rfl
@[simp] theorem State.poisonAt_planeReads (s : State) (ls : List Nat) : (s.poisonAt ls).planeReads = s.planeReads := rfl
@[simp] theorem State.poisonAt_readFail (s : State) (ls : List Nat) : (s.poisonAt ls).readFail = s.readFail := rfl
@[simp] theorem State.poisonAt_agenda (s : State) (ls : List Nat) : (s.poisonAt ls).agenda = s.agenda := rfl
@[simp] theorem State.poisonAt_cur (s : State) (ls : List Nat) : (s.poisonAt ls).cur = s.cur := rfl
@[simp] theorem State.poisonAt_turn (s : State) (ls : List Nat) : (s.poisonAt ls).turn = s.turn := rfl
@[simp] theorem State.poisonAt_free (s : State) (ls : List Nat) : (s.poisonAt ls).free = s.free := rfl
@[simp] theorem State.poisonAt_uid (s : State) (ls : List Nat) : (s.poisonAt ls).uid = s.uid := rfl

/-! `State.postRecord` -/

@[simp] theorem State.postRecord_mem (s : State) (die kind unitNo : Nat) (d0 d1 : Word) : (s.postRecord die kind unitNo d0 d1).mem = s.mem := rfl
@[simp] theorem State.postRecord_poison (s : State) (die kind unitNo : Nat) (d0 d1 : Word) : (s.postRecord die kind unitNo d0 d1).poison = s.poison := rfl
@[simp] theorem State.postRecord_tilePoison (s : State) (die kind unitNo : Nat) (d0 d1 : Word) : (s.postRecord die kind unitNo d0 d1).tilePoison = s.tilePoison := rfl
@[simp] theorem State.postRecord_errors (s : State) (die kind unitNo : Nat) (d0 d1 : Word) : (s.postRecord die kind unitNo d0 d1).errors = s.errors := rfl
@[simp] theorem State.postRecord_retained (s : State) (die kind unitNo : Nat) (d0 d1 : Word) : (s.postRecord die kind unitNo d0 d1).retained = s.retained := rfl
@[simp] theorem State.postRecord_teams (s : State) (die kind unitNo : Nat) (d0 d1 : Word) : (s.postRecord die kind unitNo d0 d1).teams = s.teams := rfl
@[simp] theorem State.postRecord_queue (s : State) (die kind unitNo : Nat) (d0 d1 : Word) : (s.postRecord die kind unitNo d0 d1).queue = s.queue := rfl
@[simp] theorem State.postRecord_l1 (s : State) (die kind unitNo : Nat) (d0 d1 : Word) : (s.postRecord die kind unitNo d0 d1).l1 = s.l1 := rfl
@[simp] theorem State.postRecord_l2 (s : State) (die kind unitNo : Nat) (d0 d1 : Word) : (s.postRecord die kind unitNo d0 d1).l2 = s.l2 := rfl
@[simp] theorem State.postRecord_icache (s : State) (die kind unitNo : Nat) (d0 d1 : Word) : (s.postRecord die kind unitNo d0 d1).icache = s.icache := rfl
@[simp] theorem State.postRecord_tlb (s : State) (die kind unitNo : Nat) (d0 d1 : Word) : (s.postRecord die kind unitNo d0 d1).tlb = s.tlb := rfl
@[simp] theorem State.postRecord_clocks (s : State) (die kind unitNo : Nat) (d0 d1 : Word) : (s.postRecord die kind unitNo d0 d1).clocks = s.clocks := rfl
@[simp] theorem State.postRecord_launches (s : State) (die kind unitNo : Nat) (d0 d1 : Word) : (s.postRecord die kind unitNo d0 d1).launches = s.launches := rfl
@[simp] theorem State.postRecord_nextSeq (s : State) (die kind unitNo : Nat) (d0 d1 : Word) : (s.postRecord die kind unitNo d0 d1).nextSeq = s.nextSeq := rfl
@[simp] theorem State.postRecord_lastTake (s : State) (die kind unitNo : Nat) (d0 d1 : Word) : (s.postRecord die kind unitNo d0 d1).lastTake = s.lastTake := rfl
@[simp] theorem State.postRecord_herd (s : State) (die kind unitNo : Nat) (d0 d1 : Word) : (s.postRecord die kind unitNo d0 d1).herd = s.herd := rfl
@[simp] theorem State.postRecord_fu (s : State) (die kind unitNo : Nat) (d0 d1 : Word) : (s.postRecord die kind unitNo d0 d1).fu = s.fu := rfl
@[simp] theorem State.postRecord_copies (s : State) (die kind unitNo : Nat) (d0 d1 : Word) : (s.postRecord die kind unitNo d0 d1).copies = s.copies := rfl
@[simp] theorem State.postRecord_tiles (s : State) (die kind unitNo : Nat) (d0 d1 : Word) : (s.postRecord die kind unitNo d0 d1).tiles = s.tiles := rfl
@[simp] theorem State.postRecord_smpls (s : State) (die kind unitNo : Nat) (d0 d1 : Word) : (s.postRecord die kind unitNo d0 d1).smpls = s.smpls := rfl
@[simp] theorem State.postRecord_attns (s : State) (die kind unitNo : Nat) (d0 d1 : Word) : (s.postRecord die kind unitNo d0 d1).attns = s.attns := rfl
@[simp] theorem State.postRecord_appends (s : State) (die kind unitNo : Nat) (d0 d1 : Word) : (s.postRecord die kind unitNo d0 d1).appends = s.appends := rfl
@[simp] theorem State.postRecord_seqs (s : State) (die kind unitNo : Nat) (d0 d1 : Word) : (s.postRecord die kind unitNo d0 d1).seqs = s.seqs := rfl
@[simp] theorem State.postRecord_boot (s : State) (die kind unitNo : Nat) (d0 d1 : Word) : (s.postRecord die kind unitNo d0 d1).boot = s.boot := rfl
@[simp] theorem State.postRecord_cols (s : State) (die kind unitNo : Nat) (d0 d1 : Word) : (s.postRecord die kind unitNo d0 d1).cols = s.cols := rfl
@[simp] theorem State.postRecord_outbound (s : State) (die kind unitNo : Nat) (d0 d1 : Word) : (s.postRecord die kind unitNo d0 d1).outbound = s.outbound := rfl
@[simp] theorem State.postRecord_answers (s : State) (die kind unitNo : Nat) (d0 d1 : Word) : (s.postRecord die kind unitNo d0 d1).answers = s.answers := rfl
@[simp] theorem State.postRecord_drainLimit (s : State) (die kind unitNo : Nat) (d0 d1 : Word) : (s.postRecord die kind unitNo d0 d1).drainLimit = s.drainLimit := rfl
@[simp] theorem State.postRecord_planeReads (s : State) (die kind unitNo : Nat) (d0 d1 : Word) : (s.postRecord die kind unitNo d0 d1).planeReads = s.planeReads := rfl
@[simp] theorem State.postRecord_readFail (s : State) (die kind unitNo : Nat) (d0 d1 : Word) : (s.postRecord die kind unitNo d0 d1).readFail = s.readFail := rfl
@[simp] theorem State.postRecord_agenda (s : State) (die kind unitNo : Nat) (d0 d1 : Word) : (s.postRecord die kind unitNo d0 d1).agenda = s.agenda := rfl
@[simp] theorem State.postRecord_cur (s : State) (die kind unitNo : Nat) (d0 d1 : Word) : (s.postRecord die kind unitNo d0 d1).cur = s.cur := rfl
@[simp] theorem State.postRecord_turn (s : State) (die kind unitNo : Nat) (d0 d1 : Word) : (s.postRecord die kind unitNo d0 d1).turn = s.turn := rfl
@[simp] theorem State.postRecord_uid (s : State) (die kind unitNo : Nat) (d0 d1 : Word) : (s.postRecord die kind unitNo d0 d1).uid = s.uid := rfl

/-! `State.leaveQueue` -/

@[simp] theorem State.leaveQueue_mem (s : State) (core : Nat) : (s.leaveQueue core).mem = s.mem := rfl
@[simp] theorem State.leaveQueue_poison (s : State) (core : Nat) : (s.leaveQueue core).poison = s.poison := rfl
@[simp] theorem State.leaveQueue_tilePoison (s : State) (core : Nat) : (s.leaveQueue core).tilePoison = s.tilePoison := rfl
@[simp] theorem State.leaveQueue_errors (s : State) (core : Nat) : (s.leaveQueue core).errors = s.errors := rfl
@[simp] theorem State.leaveQueue_retained (s : State) (core : Nat) : (s.leaveQueue core).retained = s.retained := rfl
@[simp] theorem State.leaveQueue_teams (s : State) (core : Nat) : (s.leaveQueue core).teams = s.teams := rfl
@[simp] theorem State.leaveQueue_l1 (s : State) (core : Nat) : (s.leaveQueue core).l1 = s.l1 := rfl
@[simp] theorem State.leaveQueue_l2 (s : State) (core : Nat) : (s.leaveQueue core).l2 = s.l2 := rfl
@[simp] theorem State.leaveQueue_icache (s : State) (core : Nat) : (s.leaveQueue core).icache = s.icache := rfl
@[simp] theorem State.leaveQueue_tlb (s : State) (core : Nat) : (s.leaveQueue core).tlb = s.tlb := rfl
@[simp] theorem State.leaveQueue_clocks (s : State) (core : Nat) : (s.leaveQueue core).clocks = s.clocks := rfl
@[simp] theorem State.leaveQueue_launches (s : State) (core : Nat) : (s.leaveQueue core).launches = s.launches := rfl
@[simp] theorem State.leaveQueue_nextSeq (s : State) (core : Nat) : (s.leaveQueue core).nextSeq = s.nextSeq := rfl
@[simp] theorem State.leaveQueue_lastTake (s : State) (core : Nat) : (s.leaveQueue core).lastTake = s.lastTake := rfl
@[simp] theorem State.leaveQueue_herd (s : State) (core : Nat) : (s.leaveQueue core).herd = s.herd := rfl
@[simp] theorem State.leaveQueue_fu (s : State) (core : Nat) : (s.leaveQueue core).fu = s.fu := rfl
@[simp] theorem State.leaveQueue_copies (s : State) (core : Nat) : (s.leaveQueue core).copies = s.copies := rfl
@[simp] theorem State.leaveQueue_tiles (s : State) (core : Nat) : (s.leaveQueue core).tiles = s.tiles := rfl
@[simp] theorem State.leaveQueue_smpls (s : State) (core : Nat) : (s.leaveQueue core).smpls = s.smpls := rfl
@[simp] theorem State.leaveQueue_attns (s : State) (core : Nat) : (s.leaveQueue core).attns = s.attns := rfl
@[simp] theorem State.leaveQueue_appends (s : State) (core : Nat) : (s.leaveQueue core).appends = s.appends := rfl
@[simp] theorem State.leaveQueue_seqs (s : State) (core : Nat) : (s.leaveQueue core).seqs = s.seqs := rfl
@[simp] theorem State.leaveQueue_hst (s : State) (core : Nat) : (s.leaveQueue core).hst = s.hst := rfl
@[simp] theorem State.leaveQueue_boot (s : State) (core : Nat) : (s.leaveQueue core).boot = s.boot := rfl
@[simp] theorem State.leaveQueue_cols (s : State) (core : Nat) : (s.leaveQueue core).cols = s.cols := rfl
@[simp] theorem State.leaveQueue_outbound (s : State) (core : Nat) : (s.leaveQueue core).outbound = s.outbound := rfl
@[simp] theorem State.leaveQueue_answers (s : State) (core : Nat) : (s.leaveQueue core).answers = s.answers := rfl
@[simp] theorem State.leaveQueue_drainLimit (s : State) (core : Nat) : (s.leaveQueue core).drainLimit = s.drainLimit := rfl
@[simp] theorem State.leaveQueue_planeReads (s : State) (core : Nat) : (s.leaveQueue core).planeReads = s.planeReads := rfl
@[simp] theorem State.leaveQueue_readFail (s : State) (core : Nat) : (s.leaveQueue core).readFail = s.readFail := rfl
@[simp] theorem State.leaveQueue_agenda (s : State) (core : Nat) : (s.leaveQueue core).agenda = s.agenda := rfl
@[simp] theorem State.leaveQueue_cur (s : State) (core : Nat) : (s.leaveQueue core).cur = s.cur := rfl
@[simp] theorem State.leaveQueue_turn (s : State) (core : Nat) : (s.leaveQueue core).turn = s.turn := rfl
@[simp] theorem State.leaveQueue_free (s : State) (core : Nat) : (s.leaveQueue core).free = s.free := rfl
@[simp] theorem State.leaveQueue_uid (s : State) (core : Nat) : (s.leaveQueue core).uid = s.uid := rfl

/-! `State.releaseTeam` -/

@[simp] theorem State.releaseTeam_mem (s : State) (c : Cx) : (s.releaseTeam c).mem = s.mem := rfl
@[simp] theorem State.releaseTeam_poison (s : State) (c : Cx) : (s.releaseTeam c).poison = s.poison := rfl
@[simp] theorem State.releaseTeam_tilePoison (s : State) (c : Cx) : (s.releaseTeam c).tilePoison = s.tilePoison := rfl
@[simp] theorem State.releaseTeam_errors (s : State) (c : Cx) : (s.releaseTeam c).errors = s.errors := rfl
@[simp] theorem State.releaseTeam_retained (s : State) (c : Cx) : (s.releaseTeam c).retained = s.retained := rfl
@[simp] theorem State.releaseTeam_l1 (s : State) (c : Cx) : (s.releaseTeam c).l1 = s.l1 := rfl
@[simp] theorem State.releaseTeam_l2 (s : State) (c : Cx) : (s.releaseTeam c).l2 = s.l2 := rfl
@[simp] theorem State.releaseTeam_icache (s : State) (c : Cx) : (s.releaseTeam c).icache = s.icache := rfl
@[simp] theorem State.releaseTeam_tlb (s : State) (c : Cx) : (s.releaseTeam c).tlb = s.tlb := rfl
@[simp] theorem State.releaseTeam_clocks (s : State) (c : Cx) : (s.releaseTeam c).clocks = s.clocks := rfl
@[simp] theorem State.releaseTeam_launches (s : State) (c : Cx) : (s.releaseTeam c).launches = s.launches := rfl
@[simp] theorem State.releaseTeam_nextSeq (s : State) (c : Cx) : (s.releaseTeam c).nextSeq = s.nextSeq := rfl
@[simp] theorem State.releaseTeam_lastTake (s : State) (c : Cx) : (s.releaseTeam c).lastTake = s.lastTake := rfl
@[simp] theorem State.releaseTeam_herd (s : State) (c : Cx) : (s.releaseTeam c).herd = s.herd := rfl
@[simp] theorem State.releaseTeam_fu (s : State) (c : Cx) : (s.releaseTeam c).fu = s.fu := rfl
@[simp] theorem State.releaseTeam_copies (s : State) (c : Cx) : (s.releaseTeam c).copies = s.copies := rfl
@[simp] theorem State.releaseTeam_tiles (s : State) (c : Cx) : (s.releaseTeam c).tiles = s.tiles := rfl
@[simp] theorem State.releaseTeam_smpls (s : State) (c : Cx) : (s.releaseTeam c).smpls = s.smpls := rfl
@[simp] theorem State.releaseTeam_attns (s : State) (c : Cx) : (s.releaseTeam c).attns = s.attns := rfl
@[simp] theorem State.releaseTeam_appends (s : State) (c : Cx) : (s.releaseTeam c).appends = s.appends := rfl
@[simp] theorem State.releaseTeam_seqs (s : State) (c : Cx) : (s.releaseTeam c).seqs = s.seqs := rfl
@[simp] theorem State.releaseTeam_hst (s : State) (c : Cx) : (s.releaseTeam c).hst = s.hst := rfl
@[simp] theorem State.releaseTeam_boot (s : State) (c : Cx) : (s.releaseTeam c).boot = s.boot := rfl
@[simp] theorem State.releaseTeam_cols (s : State) (c : Cx) : (s.releaseTeam c).cols = s.cols := rfl
@[simp] theorem State.releaseTeam_outbound (s : State) (c : Cx) : (s.releaseTeam c).outbound = s.outbound := rfl
@[simp] theorem State.releaseTeam_answers (s : State) (c : Cx) : (s.releaseTeam c).answers = s.answers := rfl
@[simp] theorem State.releaseTeam_drainLimit (s : State) (c : Cx) : (s.releaseTeam c).drainLimit = s.drainLimit := rfl
@[simp] theorem State.releaseTeam_planeReads (s : State) (c : Cx) : (s.releaseTeam c).planeReads = s.planeReads := rfl
@[simp] theorem State.releaseTeam_readFail (s : State) (c : Cx) : (s.releaseTeam c).readFail = s.readFail := rfl
@[simp] theorem State.releaseTeam_agenda (s : State) (c : Cx) : (s.releaseTeam c).agenda = s.agenda := rfl
@[simp] theorem State.releaseTeam_cur (s : State) (c : Cx) : (s.releaseTeam c).cur = s.cur := rfl
@[simp] theorem State.releaseTeam_turn (s : State) (c : Cx) : (s.releaseTeam c).turn = s.turn := rfl
@[simp] theorem State.releaseTeam_free (s : State) (c : Cx) : (s.releaseTeam c).free = s.free := rfl
@[simp] theorem State.releaseTeam_uid (s : State) (c : Cx) : (s.releaseTeam c).uid = s.uid := rfl

/-! `State.dropL1` -/

@[simp] theorem State.dropL1_mem (s : State) (core : Nat) : (s.dropL1 core).mem = s.mem := rfl
@[simp] theorem State.dropL1_poison (s : State) (core : Nat) : (s.dropL1 core).poison = s.poison := rfl
@[simp] theorem State.dropL1_tilePoison (s : State) (core : Nat) : (s.dropL1 core).tilePoison = s.tilePoison := rfl
@[simp] theorem State.dropL1_errors (s : State) (core : Nat) : (s.dropL1 core).errors = s.errors := rfl
@[simp] theorem State.dropL1_retained (s : State) (core : Nat) : (s.dropL1 core).retained = s.retained := rfl
@[simp] theorem State.dropL1_teams (s : State) (core : Nat) : (s.dropL1 core).teams = s.teams := rfl
@[simp] theorem State.dropL1_queue (s : State) (core : Nat) : (s.dropL1 core).queue = s.queue := rfl
@[simp] theorem State.dropL1_l2 (s : State) (core : Nat) : (s.dropL1 core).l2 = s.l2 := rfl
@[simp] theorem State.dropL1_icache (s : State) (core : Nat) : (s.dropL1 core).icache = s.icache := rfl
@[simp] theorem State.dropL1_tlb (s : State) (core : Nat) : (s.dropL1 core).tlb = s.tlb := rfl
@[simp] theorem State.dropL1_clocks (s : State) (core : Nat) : (s.dropL1 core).clocks = s.clocks := rfl
@[simp] theorem State.dropL1_launches (s : State) (core : Nat) : (s.dropL1 core).launches = s.launches := rfl
@[simp] theorem State.dropL1_nextSeq (s : State) (core : Nat) : (s.dropL1 core).nextSeq = s.nextSeq := rfl
@[simp] theorem State.dropL1_lastTake (s : State) (core : Nat) : (s.dropL1 core).lastTake = s.lastTake := rfl
@[simp] theorem State.dropL1_herd (s : State) (core : Nat) : (s.dropL1 core).herd = s.herd := rfl
@[simp] theorem State.dropL1_fu (s : State) (core : Nat) : (s.dropL1 core).fu = s.fu := rfl
@[simp] theorem State.dropL1_copies (s : State) (core : Nat) : (s.dropL1 core).copies = s.copies := rfl
@[simp] theorem State.dropL1_tiles (s : State) (core : Nat) : (s.dropL1 core).tiles = s.tiles := rfl
@[simp] theorem State.dropL1_smpls (s : State) (core : Nat) : (s.dropL1 core).smpls = s.smpls := rfl
@[simp] theorem State.dropL1_attns (s : State) (core : Nat) : (s.dropL1 core).attns = s.attns := rfl
@[simp] theorem State.dropL1_appends (s : State) (core : Nat) : (s.dropL1 core).appends = s.appends := rfl
@[simp] theorem State.dropL1_seqs (s : State) (core : Nat) : (s.dropL1 core).seqs = s.seqs := rfl
@[simp] theorem State.dropL1_hst (s : State) (core : Nat) : (s.dropL1 core).hst = s.hst := rfl
@[simp] theorem State.dropL1_boot (s : State) (core : Nat) : (s.dropL1 core).boot = s.boot := rfl
@[simp] theorem State.dropL1_cols (s : State) (core : Nat) : (s.dropL1 core).cols = s.cols := rfl
@[simp] theorem State.dropL1_outbound (s : State) (core : Nat) : (s.dropL1 core).outbound = s.outbound := rfl
@[simp] theorem State.dropL1_answers (s : State) (core : Nat) : (s.dropL1 core).answers = s.answers := rfl
@[simp] theorem State.dropL1_drainLimit (s : State) (core : Nat) : (s.dropL1 core).drainLimit = s.drainLimit := rfl
@[simp] theorem State.dropL1_planeReads (s : State) (core : Nat) : (s.dropL1 core).planeReads = s.planeReads := rfl
@[simp] theorem State.dropL1_readFail (s : State) (core : Nat) : (s.dropL1 core).readFail = s.readFail := rfl
@[simp] theorem State.dropL1_agenda (s : State) (core : Nat) : (s.dropL1 core).agenda = s.agenda := rfl
@[simp] theorem State.dropL1_cur (s : State) (core : Nat) : (s.dropL1 core).cur = s.cur := rfl
@[simp] theorem State.dropL1_turn (s : State) (core : Nat) : (s.dropL1 core).turn = s.turn := rfl
@[simp] theorem State.dropL1_free (s : State) (core : Nat) : (s.dropL1 core).free = s.free := rfl
@[simp] theorem State.dropL1_uid (s : State) (core : Nat) : (s.dropL1 core).uid = s.uid := rfl

/-! `State.enqueue` -/

@[simp] theorem State.enqueue_mem (s : State) (e : QEntry) : (s.enqueue e).mem = s.mem := rfl
@[simp] theorem State.enqueue_poison (s : State) (e : QEntry) : (s.enqueue e).poison = s.poison := rfl
@[simp] theorem State.enqueue_tilePoison (s : State) (e : QEntry) : (s.enqueue e).tilePoison = s.tilePoison := rfl
@[simp] theorem State.enqueue_errors (s : State) (e : QEntry) : (s.enqueue e).errors = s.errors := rfl
@[simp] theorem State.enqueue_retained (s : State) (e : QEntry) : (s.enqueue e).retained = s.retained := rfl
@[simp] theorem State.enqueue_teams (s : State) (e : QEntry) : (s.enqueue e).teams = s.teams := rfl
@[simp] theorem State.enqueue_l1 (s : State) (e : QEntry) : (s.enqueue e).l1 = s.l1 := rfl
@[simp] theorem State.enqueue_l2 (s : State) (e : QEntry) : (s.enqueue e).l2 = s.l2 := rfl
@[simp] theorem State.enqueue_icache (s : State) (e : QEntry) : (s.enqueue e).icache = s.icache := rfl
@[simp] theorem State.enqueue_tlb (s : State) (e : QEntry) : (s.enqueue e).tlb = s.tlb := rfl
@[simp] theorem State.enqueue_clocks (s : State) (e : QEntry) : (s.enqueue e).clocks = s.clocks := rfl
@[simp] theorem State.enqueue_launches (s : State) (e : QEntry) : (s.enqueue e).launches = s.launches := rfl
@[simp] theorem State.enqueue_nextSeq (s : State) (e : QEntry) : (s.enqueue e).nextSeq = s.nextSeq := rfl
@[simp] theorem State.enqueue_lastTake (s : State) (e : QEntry) : (s.enqueue e).lastTake = s.lastTake := rfl
@[simp] theorem State.enqueue_herd (s : State) (e : QEntry) : (s.enqueue e).herd = s.herd := rfl
@[simp] theorem State.enqueue_fu (s : State) (e : QEntry) : (s.enqueue e).fu = s.fu := rfl
@[simp] theorem State.enqueue_copies (s : State) (e : QEntry) : (s.enqueue e).copies = s.copies := rfl
@[simp] theorem State.enqueue_tiles (s : State) (e : QEntry) : (s.enqueue e).tiles = s.tiles := rfl
@[simp] theorem State.enqueue_smpls (s : State) (e : QEntry) : (s.enqueue e).smpls = s.smpls := rfl
@[simp] theorem State.enqueue_attns (s : State) (e : QEntry) : (s.enqueue e).attns = s.attns := rfl
@[simp] theorem State.enqueue_appends (s : State) (e : QEntry) : (s.enqueue e).appends = s.appends := rfl
@[simp] theorem State.enqueue_seqs (s : State) (e : QEntry) : (s.enqueue e).seqs = s.seqs := rfl
@[simp] theorem State.enqueue_hst (s : State) (e : QEntry) : (s.enqueue e).hst = s.hst := rfl
@[simp] theorem State.enqueue_boot (s : State) (e : QEntry) : (s.enqueue e).boot = s.boot := rfl
@[simp] theorem State.enqueue_cols (s : State) (e : QEntry) : (s.enqueue e).cols = s.cols := rfl
@[simp] theorem State.enqueue_outbound (s : State) (e : QEntry) : (s.enqueue e).outbound = s.outbound := rfl
@[simp] theorem State.enqueue_answers (s : State) (e : QEntry) : (s.enqueue e).answers = s.answers := rfl
@[simp] theorem State.enqueue_drainLimit (s : State) (e : QEntry) : (s.enqueue e).drainLimit = s.drainLimit := rfl
@[simp] theorem State.enqueue_planeReads (s : State) (e : QEntry) : (s.enqueue e).planeReads = s.planeReads := rfl
@[simp] theorem State.enqueue_readFail (s : State) (e : QEntry) : (s.enqueue e).readFail = s.readFail := rfl
@[simp] theorem State.enqueue_agenda (s : State) (e : QEntry) : (s.enqueue e).agenda = s.agenda := rfl
@[simp] theorem State.enqueue_cur (s : State) (e : QEntry) : (s.enqueue e).cur = s.cur := rfl
@[simp] theorem State.enqueue_turn (s : State) (e : QEntry) : (s.enqueue e).turn = s.turn := rfl
@[simp] theorem State.enqueue_free (s : State) (e : QEntry) : (s.enqueue e).free = s.free := rfl

/-! `State.addPending` -/

@[simp] theorem State.addPending_mem (s : State) (r : TRef) (p : Pending) : (s.addPending r p).mem = s.mem := rfl
@[simp] theorem State.addPending_poison (s : State) (r : TRef) (p : Pending) : (s.addPending r p).poison = s.poison := rfl
@[simp] theorem State.addPending_tilePoison (s : State) (r : TRef) (p : Pending) : (s.addPending r p).tilePoison = s.tilePoison := rfl
@[simp] theorem State.addPending_errors (s : State) (r : TRef) (p : Pending) : (s.addPending r p).errors = s.errors := rfl
@[simp] theorem State.addPending_retained (s : State) (r : TRef) (p : Pending) : (s.addPending r p).retained = s.retained := rfl
@[simp] theorem State.addPending_queue (s : State) (r : TRef) (p : Pending) : (s.addPending r p).queue = s.queue := rfl
@[simp] theorem State.addPending_l1 (s : State) (r : TRef) (p : Pending) : (s.addPending r p).l1 = s.l1 := rfl
@[simp] theorem State.addPending_l2 (s : State) (r : TRef) (p : Pending) : (s.addPending r p).l2 = s.l2 := rfl
@[simp] theorem State.addPending_icache (s : State) (r : TRef) (p : Pending) : (s.addPending r p).icache = s.icache := rfl
@[simp] theorem State.addPending_tlb (s : State) (r : TRef) (p : Pending) : (s.addPending r p).tlb = s.tlb := rfl
@[simp] theorem State.addPending_clocks (s : State) (r : TRef) (p : Pending) : (s.addPending r p).clocks = s.clocks := rfl
@[simp] theorem State.addPending_launches (s : State) (r : TRef) (p : Pending) : (s.addPending r p).launches = s.launches := rfl
@[simp] theorem State.addPending_nextSeq (s : State) (r : TRef) (p : Pending) : (s.addPending r p).nextSeq = s.nextSeq := rfl
@[simp] theorem State.addPending_lastTake (s : State) (r : TRef) (p : Pending) : (s.addPending r p).lastTake = s.lastTake := rfl
@[simp] theorem State.addPending_herd (s : State) (r : TRef) (p : Pending) : (s.addPending r p).herd = s.herd := rfl
@[simp] theorem State.addPending_fu (s : State) (r : TRef) (p : Pending) : (s.addPending r p).fu = s.fu := rfl
@[simp] theorem State.addPending_copies (s : State) (r : TRef) (p : Pending) : (s.addPending r p).copies = s.copies := rfl
@[simp] theorem State.addPending_tiles (s : State) (r : TRef) (p : Pending) : (s.addPending r p).tiles = s.tiles := rfl
@[simp] theorem State.addPending_smpls (s : State) (r : TRef) (p : Pending) : (s.addPending r p).smpls = s.smpls := rfl
@[simp] theorem State.addPending_attns (s : State) (r : TRef) (p : Pending) : (s.addPending r p).attns = s.attns := rfl
@[simp] theorem State.addPending_appends (s : State) (r : TRef) (p : Pending) : (s.addPending r p).appends = s.appends := rfl
@[simp] theorem State.addPending_seqs (s : State) (r : TRef) (p : Pending) : (s.addPending r p).seqs = s.seqs := rfl
@[simp] theorem State.addPending_hst (s : State) (r : TRef) (p : Pending) : (s.addPending r p).hst = s.hst := rfl
@[simp] theorem State.addPending_boot (s : State) (r : TRef) (p : Pending) : (s.addPending r p).boot = s.boot := rfl
@[simp] theorem State.addPending_cols (s : State) (r : TRef) (p : Pending) : (s.addPending r p).cols = s.cols := rfl
@[simp] theorem State.addPending_outbound (s : State) (r : TRef) (p : Pending) : (s.addPending r p).outbound = s.outbound := rfl
@[simp] theorem State.addPending_answers (s : State) (r : TRef) (p : Pending) : (s.addPending r p).answers = s.answers := rfl
@[simp] theorem State.addPending_drainLimit (s : State) (r : TRef) (p : Pending) : (s.addPending r p).drainLimit = s.drainLimit := rfl
@[simp] theorem State.addPending_planeReads (s : State) (r : TRef) (p : Pending) : (s.addPending r p).planeReads = s.planeReads := rfl
@[simp] theorem State.addPending_readFail (s : State) (r : TRef) (p : Pending) : (s.addPending r p).readFail = s.readFail := rfl
@[simp] theorem State.addPending_agenda (s : State) (r : TRef) (p : Pending) : (s.addPending r p).agenda = s.agenda := rfl
@[simp] theorem State.addPending_cur (s : State) (r : TRef) (p : Pending) : (s.addPending r p).cur = s.cur := rfl
@[simp] theorem State.addPending_turn (s : State) (r : TRef) (p : Pending) : (s.addPending r p).turn = s.turn := rfl
@[simp] theorem State.addPending_free (s : State) (r : TRef) (p : Pending) : (s.addPending r p).free = s.free := rfl

/-! `State.issueStore` -/

@[simp] theorem State.issueStore_mem (s : State) (c : Cx) (va : Word) (bs : List Host.Cell) (rel : Bool) : (s.issueStore c va bs rel).mem = s.mem := rfl
@[simp] theorem State.issueStore_poison (s : State) (c : Cx) (va : Word) (bs : List Host.Cell) (rel : Bool) : (s.issueStore c va bs rel).poison = s.poison := rfl
@[simp] theorem State.issueStore_tilePoison (s : State) (c : Cx) (va : Word) (bs : List Host.Cell) (rel : Bool) : (s.issueStore c va bs rel).tilePoison = s.tilePoison := rfl
@[simp] theorem State.issueStore_errors (s : State) (c : Cx) (va : Word) (bs : List Host.Cell) (rel : Bool) : (s.issueStore c va bs rel).errors = s.errors := rfl
@[simp] theorem State.issueStore_retained (s : State) (c : Cx) (va : Word) (bs : List Host.Cell) (rel : Bool) : (s.issueStore c va bs rel).retained = s.retained := rfl
@[simp] theorem State.issueStore_l1 (s : State) (c : Cx) (va : Word) (bs : List Host.Cell) (rel : Bool) : (s.issueStore c va bs rel).l1 = s.l1 := rfl
@[simp] theorem State.issueStore_l2 (s : State) (c : Cx) (va : Word) (bs : List Host.Cell) (rel : Bool) : (s.issueStore c va bs rel).l2 = s.l2 := rfl
@[simp] theorem State.issueStore_icache (s : State) (c : Cx) (va : Word) (bs : List Host.Cell) (rel : Bool) : (s.issueStore c va bs rel).icache = s.icache := rfl
@[simp] theorem State.issueStore_tlb (s : State) (c : Cx) (va : Word) (bs : List Host.Cell) (rel : Bool) : (s.issueStore c va bs rel).tlb = s.tlb := rfl
@[simp] theorem State.issueStore_clocks (s : State) (c : Cx) (va : Word) (bs : List Host.Cell) (rel : Bool) : (s.issueStore c va bs rel).clocks = s.clocks := rfl
@[simp] theorem State.issueStore_launches (s : State) (c : Cx) (va : Word) (bs : List Host.Cell) (rel : Bool) : (s.issueStore c va bs rel).launches = s.launches := rfl
@[simp] theorem State.issueStore_nextSeq (s : State) (c : Cx) (va : Word) (bs : List Host.Cell) (rel : Bool) : (s.issueStore c va bs rel).nextSeq = s.nextSeq := rfl
@[simp] theorem State.issueStore_lastTake (s : State) (c : Cx) (va : Word) (bs : List Host.Cell) (rel : Bool) : (s.issueStore c va bs rel).lastTake = s.lastTake := rfl
@[simp] theorem State.issueStore_herd (s : State) (c : Cx) (va : Word) (bs : List Host.Cell) (rel : Bool) : (s.issueStore c va bs rel).herd = s.herd := rfl
@[simp] theorem State.issueStore_fu (s : State) (c : Cx) (va : Word) (bs : List Host.Cell) (rel : Bool) : (s.issueStore c va bs rel).fu = s.fu := rfl
@[simp] theorem State.issueStore_copies (s : State) (c : Cx) (va : Word) (bs : List Host.Cell) (rel : Bool) : (s.issueStore c va bs rel).copies = s.copies := rfl
@[simp] theorem State.issueStore_tiles (s : State) (c : Cx) (va : Word) (bs : List Host.Cell) (rel : Bool) : (s.issueStore c va bs rel).tiles = s.tiles := rfl
@[simp] theorem State.issueStore_smpls (s : State) (c : Cx) (va : Word) (bs : List Host.Cell) (rel : Bool) : (s.issueStore c va bs rel).smpls = s.smpls := rfl
@[simp] theorem State.issueStore_attns (s : State) (c : Cx) (va : Word) (bs : List Host.Cell) (rel : Bool) : (s.issueStore c va bs rel).attns = s.attns := rfl
@[simp] theorem State.issueStore_appends (s : State) (c : Cx) (va : Word) (bs : List Host.Cell) (rel : Bool) : (s.issueStore c va bs rel).appends = s.appends := rfl
@[simp] theorem State.issueStore_seqs (s : State) (c : Cx) (va : Word) (bs : List Host.Cell) (rel : Bool) : (s.issueStore c va bs rel).seqs = s.seqs := rfl
@[simp] theorem State.issueStore_hst (s : State) (c : Cx) (va : Word) (bs : List Host.Cell) (rel : Bool) : (s.issueStore c va bs rel).hst = s.hst := rfl
@[simp] theorem State.issueStore_boot (s : State) (c : Cx) (va : Word) (bs : List Host.Cell) (rel : Bool) : (s.issueStore c va bs rel).boot = s.boot := rfl
@[simp] theorem State.issueStore_cols (s : State) (c : Cx) (va : Word) (bs : List Host.Cell) (rel : Bool) : (s.issueStore c va bs rel).cols = s.cols := rfl
@[simp] theorem State.issueStore_outbound (s : State) (c : Cx) (va : Word) (bs : List Host.Cell) (rel : Bool) : (s.issueStore c va bs rel).outbound = s.outbound := rfl
@[simp] theorem State.issueStore_answers (s : State) (c : Cx) (va : Word) (bs : List Host.Cell) (rel : Bool) : (s.issueStore c va bs rel).answers = s.answers := rfl
@[simp] theorem State.issueStore_drainLimit (s : State) (c : Cx) (va : Word) (bs : List Host.Cell) (rel : Bool) : (s.issueStore c va bs rel).drainLimit = s.drainLimit := rfl
@[simp] theorem State.issueStore_planeReads (s : State) (c : Cx) (va : Word) (bs : List Host.Cell) (rel : Bool) : (s.issueStore c va bs rel).planeReads = s.planeReads := rfl
@[simp] theorem State.issueStore_readFail (s : State) (c : Cx) (va : Word) (bs : List Host.Cell) (rel : Bool) : (s.issueStore c va bs rel).readFail = s.readFail := rfl
@[simp] theorem State.issueStore_agenda (s : State) (c : Cx) (va : Word) (bs : List Host.Cell) (rel : Bool) : (s.issueStore c va bs rel).agenda = s.agenda := rfl
@[simp] theorem State.issueStore_cur (s : State) (c : Cx) (va : Word) (bs : List Host.Cell) (rel : Bool) : (s.issueStore c va bs rel).cur = s.cur := rfl
@[simp] theorem State.issueStore_turn (s : State) (c : Cx) (va : Word) (bs : List Host.Cell) (rel : Bool) : (s.issueStore c va bs rel).turn = s.turn := rfl
@[simp] theorem State.issueStore_free (s : State) (c : Cx) (va : Word) (bs : List Host.Cell) (rel : Bool) : (s.issueStore c va bs rel).free = s.free := rfl
@[simp] theorem State.issuePlanes_mem (s : State) (c : Cx) (vas : List Word) (bs : List Host.Cell) : (s.issuePlanes c vas bs).mem = s.mem := rfl
@[simp] theorem State.issuePlanes_poison (s : State) (c : Cx) (vas : List Word) (bs : List Host.Cell) : (s.issuePlanes c vas bs).poison = s.poison := rfl
@[simp] theorem State.issuePlanes_tilePoison (s : State) (c : Cx) (vas : List Word) (bs : List Host.Cell) : (s.issuePlanes c vas bs).tilePoison = s.tilePoison := rfl
@[simp] theorem State.issuePlanes_errors (s : State) (c : Cx) (vas : List Word) (bs : List Host.Cell) : (s.issuePlanes c vas bs).errors = s.errors := rfl
@[simp] theorem State.issuePlanes_retained (s : State) (c : Cx) (vas : List Word) (bs : List Host.Cell) : (s.issuePlanes c vas bs).retained = s.retained := rfl
@[simp] theorem State.issuePlanes_l1 (s : State) (c : Cx) (vas : List Word) (bs : List Host.Cell) : (s.issuePlanes c vas bs).l1 = s.l1 := rfl
@[simp] theorem State.issuePlanes_l2 (s : State) (c : Cx) (vas : List Word) (bs : List Host.Cell) : (s.issuePlanes c vas bs).l2 = s.l2 := rfl
@[simp] theorem State.issuePlanes_icache (s : State) (c : Cx) (vas : List Word) (bs : List Host.Cell) : (s.issuePlanes c vas bs).icache = s.icache := rfl
@[simp] theorem State.issuePlanes_tlb (s : State) (c : Cx) (vas : List Word) (bs : List Host.Cell) : (s.issuePlanes c vas bs).tlb = s.tlb := rfl
@[simp] theorem State.issuePlanes_clocks (s : State) (c : Cx) (vas : List Word) (bs : List Host.Cell) : (s.issuePlanes c vas bs).clocks = s.clocks := rfl
@[simp] theorem State.issuePlanes_launches (s : State) (c : Cx) (vas : List Word) (bs : List Host.Cell) : (s.issuePlanes c vas bs).launches = s.launches := rfl
@[simp] theorem State.issuePlanes_nextSeq (s : State) (c : Cx) (vas : List Word) (bs : List Host.Cell) : (s.issuePlanes c vas bs).nextSeq = s.nextSeq := rfl
@[simp] theorem State.issuePlanes_lastTake (s : State) (c : Cx) (vas : List Word) (bs : List Host.Cell) : (s.issuePlanes c vas bs).lastTake = s.lastTake := rfl
@[simp] theorem State.issuePlanes_herd (s : State) (c : Cx) (vas : List Word) (bs : List Host.Cell) : (s.issuePlanes c vas bs).herd = s.herd := rfl
@[simp] theorem State.issuePlanes_fu (s : State) (c : Cx) (vas : List Word) (bs : List Host.Cell) : (s.issuePlanes c vas bs).fu = s.fu := rfl
@[simp] theorem State.issuePlanes_copies (s : State) (c : Cx) (vas : List Word) (bs : List Host.Cell) : (s.issuePlanes c vas bs).copies = s.copies := rfl
@[simp] theorem State.issuePlanes_tiles (s : State) (c : Cx) (vas : List Word) (bs : List Host.Cell) : (s.issuePlanes c vas bs).tiles = s.tiles := rfl
@[simp] theorem State.issuePlanes_smpls (s : State) (c : Cx) (vas : List Word) (bs : List Host.Cell) : (s.issuePlanes c vas bs).smpls = s.smpls := rfl
@[simp] theorem State.issuePlanes_attns (s : State) (c : Cx) (vas : List Word) (bs : List Host.Cell) : (s.issuePlanes c vas bs).attns = s.attns := rfl
@[simp] theorem State.issuePlanes_appends (s : State) (c : Cx) (vas : List Word) (bs : List Host.Cell) : (s.issuePlanes c vas bs).appends = s.appends := rfl
@[simp] theorem State.issuePlanes_seqs (s : State) (c : Cx) (vas : List Word) (bs : List Host.Cell) : (s.issuePlanes c vas bs).seqs = s.seqs := rfl
@[simp] theorem State.issuePlanes_hst (s : State) (c : Cx) (vas : List Word) (bs : List Host.Cell) : (s.issuePlanes c vas bs).hst = s.hst := rfl
@[simp] theorem State.issuePlanes_boot (s : State) (c : Cx) (vas : List Word) (bs : List Host.Cell) : (s.issuePlanes c vas bs).boot = s.boot := rfl
@[simp] theorem State.issuePlanes_cols (s : State) (c : Cx) (vas : List Word) (bs : List Host.Cell) : (s.issuePlanes c vas bs).cols = s.cols := rfl
@[simp] theorem State.issuePlanes_outbound (s : State) (c : Cx) (vas : List Word) (bs : List Host.Cell) : (s.issuePlanes c vas bs).outbound = s.outbound := rfl
@[simp] theorem State.issuePlanes_answers (s : State) (c : Cx) (vas : List Word) (bs : List Host.Cell) : (s.issuePlanes c vas bs).answers = s.answers := rfl
@[simp] theorem State.issuePlanes_drainLimit (s : State) (c : Cx) (vas : List Word) (bs : List Host.Cell) : (s.issuePlanes c vas bs).drainLimit = s.drainLimit := rfl
@[simp] theorem State.issuePlanes_planeReads (s : State) (c : Cx) (vas : List Word) (bs : List Host.Cell) : (s.issuePlanes c vas bs).planeReads = s.planeReads := rfl
@[simp] theorem State.issuePlanes_readFail (s : State) (c : Cx) (vas : List Word) (bs : List Host.Cell) : (s.issuePlanes c vas bs).readFail = s.readFail := rfl
@[simp] theorem State.issuePlanes_agenda (s : State) (c : Cx) (vas : List Word) (bs : List Host.Cell) : (s.issuePlanes c vas bs).agenda = s.agenda := rfl
@[simp] theorem State.issuePlanes_cur (s : State) (c : Cx) (vas : List Word) (bs : List Host.Cell) : (s.issuePlanes c vas bs).cur = s.cur := rfl
@[simp] theorem State.issuePlanes_turn (s : State) (c : Cx) (vas : List Word) (bs : List Host.Cell) : (s.issuePlanes c vas bs).turn = s.turn := rfl
@[simp] theorem State.issuePlanes_free (s : State) (c : Cx) (vas : List Word) (bs : List Host.Cell) : (s.issuePlanes c vas bs).free = s.free := rfl

/-! `State.dequeue` -/

@[simp] theorem State.dequeue_mem (s : State) (e : QEntry) : (s.dequeue e).mem = s.mem := rfl
@[simp] theorem State.dequeue_poison (s : State) (e : QEntry) : (s.dequeue e).poison = s.poison := rfl
@[simp] theorem State.dequeue_tilePoison (s : State) (e : QEntry) : (s.dequeue e).tilePoison = s.tilePoison := rfl
@[simp] theorem State.dequeue_errors (s : State) (e : QEntry) : (s.dequeue e).errors = s.errors := rfl
@[simp] theorem State.dequeue_retained (s : State) (e : QEntry) : (s.dequeue e).retained = s.retained := rfl
@[simp] theorem State.dequeue_teams (s : State) (e : QEntry) : (s.dequeue e).teams = s.teams := rfl
@[simp] theorem State.dequeue_l1 (s : State) (e : QEntry) : (s.dequeue e).l1 = s.l1 := rfl
@[simp] theorem State.dequeue_l2 (s : State) (e : QEntry) : (s.dequeue e).l2 = s.l2 := rfl
@[simp] theorem State.dequeue_icache (s : State) (e : QEntry) : (s.dequeue e).icache = s.icache := rfl
@[simp] theorem State.dequeue_tlb (s : State) (e : QEntry) : (s.dequeue e).tlb = s.tlb := rfl
@[simp] theorem State.dequeue_clocks (s : State) (e : QEntry) : (s.dequeue e).clocks = s.clocks := rfl
@[simp] theorem State.dequeue_launches (s : State) (e : QEntry) : (s.dequeue e).launches = s.launches := rfl
@[simp] theorem State.dequeue_nextSeq (s : State) (e : QEntry) : (s.dequeue e).nextSeq = s.nextSeq := rfl
@[simp] theorem State.dequeue_lastTake (s : State) (e : QEntry) : (s.dequeue e).lastTake = s.lastTake := rfl
@[simp] theorem State.dequeue_herd (s : State) (e : QEntry) : (s.dequeue e).herd = s.herd := rfl
@[simp] theorem State.dequeue_fu (s : State) (e : QEntry) : (s.dequeue e).fu = s.fu := rfl
@[simp] theorem State.dequeue_copies (s : State) (e : QEntry) : (s.dequeue e).copies = s.copies := rfl
@[simp] theorem State.dequeue_tiles (s : State) (e : QEntry) : (s.dequeue e).tiles = s.tiles := rfl
@[simp] theorem State.dequeue_smpls (s : State) (e : QEntry) : (s.dequeue e).smpls = s.smpls := rfl
@[simp] theorem State.dequeue_attns (s : State) (e : QEntry) : (s.dequeue e).attns = s.attns := rfl
@[simp] theorem State.dequeue_appends (s : State) (e : QEntry) : (s.dequeue e).appends = s.appends := rfl
@[simp] theorem State.dequeue_seqs (s : State) (e : QEntry) : (s.dequeue e).seqs = s.seqs := rfl
@[simp] theorem State.dequeue_hst (s : State) (e : QEntry) : (s.dequeue e).hst = s.hst := rfl
@[simp] theorem State.dequeue_boot (s : State) (e : QEntry) : (s.dequeue e).boot = s.boot := rfl
@[simp] theorem State.dequeue_cols (s : State) (e : QEntry) : (s.dequeue e).cols = s.cols := rfl
@[simp] theorem State.dequeue_outbound (s : State) (e : QEntry) : (s.dequeue e).outbound = s.outbound := rfl
@[simp] theorem State.dequeue_answers (s : State) (e : QEntry) : (s.dequeue e).answers = s.answers := rfl
@[simp] theorem State.dequeue_drainLimit (s : State) (e : QEntry) : (s.dequeue e).drainLimit = s.drainLimit := rfl
@[simp] theorem State.dequeue_planeReads (s : State) (e : QEntry) : (s.dequeue e).planeReads = s.planeReads := rfl
@[simp] theorem State.dequeue_readFail (s : State) (e : QEntry) : (s.dequeue e).readFail = s.readFail := rfl
@[simp] theorem State.dequeue_agenda (s : State) (e : QEntry) : (s.dequeue e).agenda = s.agenda := rfl
@[simp] theorem State.dequeue_cur (s : State) (e : QEntry) : (s.dequeue e).cur = s.cur := rfl
@[simp] theorem State.dequeue_turn (s : State) (e : QEntry) : (s.dequeue e).turn = s.turn := rfl
@[simp] theorem State.dequeue_free (s : State) (e : QEntry) : (s.dequeue e).free = s.free := rfl
@[simp] theorem State.dequeue_uid (s : State) (e : QEntry) : (s.dequeue e).uid = s.uid := rfl

/-! `State.queueCopy` -/

@[simp] theorem State.queueCopy_mem (s : State) (c : Cx) (x : CopyCmd) : (s.queueCopy c x).mem = s.mem := rfl
@[simp] theorem State.queueCopy_poison (s : State) (c : Cx) (x : CopyCmd) : (s.queueCopy c x).poison = s.poison := rfl
@[simp] theorem State.queueCopy_tilePoison (s : State) (c : Cx) (x : CopyCmd) : (s.queueCopy c x).tilePoison = s.tilePoison := rfl
@[simp] theorem State.queueCopy_errors (s : State) (c : Cx) (x : CopyCmd) : (s.queueCopy c x).errors = s.errors := rfl
@[simp] theorem State.queueCopy_retained (s : State) (c : Cx) (x : CopyCmd) : (s.queueCopy c x).retained = s.retained := rfl
@[simp] theorem State.queueCopy_queue (s : State) (c : Cx) (x : CopyCmd) : (s.queueCopy c x).queue = s.queue := rfl
@[simp] theorem State.queueCopy_l1 (s : State) (c : Cx) (x : CopyCmd) : (s.queueCopy c x).l1 = s.l1 := rfl
@[simp] theorem State.queueCopy_l2 (s : State) (c : Cx) (x : CopyCmd) : (s.queueCopy c x).l2 = s.l2 := rfl
@[simp] theorem State.queueCopy_icache (s : State) (c : Cx) (x : CopyCmd) : (s.queueCopy c x).icache = s.icache := rfl
@[simp] theorem State.queueCopy_tlb (s : State) (c : Cx) (x : CopyCmd) : (s.queueCopy c x).tlb = s.tlb := rfl
@[simp] theorem State.queueCopy_clocks (s : State) (c : Cx) (x : CopyCmd) : (s.queueCopy c x).clocks = s.clocks := rfl
@[simp] theorem State.queueCopy_launches (s : State) (c : Cx) (x : CopyCmd) : (s.queueCopy c x).launches = s.launches := rfl
@[simp] theorem State.queueCopy_nextSeq (s : State) (c : Cx) (x : CopyCmd) : (s.queueCopy c x).nextSeq = s.nextSeq := rfl
@[simp] theorem State.queueCopy_lastTake (s : State) (c : Cx) (x : CopyCmd) : (s.queueCopy c x).lastTake = s.lastTake := rfl
@[simp] theorem State.queueCopy_herd (s : State) (c : Cx) (x : CopyCmd) : (s.queueCopy c x).herd = s.herd := rfl
@[simp] theorem State.queueCopy_fu (s : State) (c : Cx) (x : CopyCmd) : (s.queueCopy c x).fu = s.fu := rfl
@[simp] theorem State.queueCopy_tiles (s : State) (c : Cx) (x : CopyCmd) : (s.queueCopy c x).tiles = s.tiles := rfl
@[simp] theorem State.queueCopy_smpls (s : State) (c : Cx) (x : CopyCmd) : (s.queueCopy c x).smpls = s.smpls := rfl
@[simp] theorem State.queueCopy_attns (s : State) (c : Cx) (x : CopyCmd) : (s.queueCopy c x).attns = s.attns := rfl
@[simp] theorem State.queueCopy_appends (s : State) (c : Cx) (x : CopyCmd) : (s.queueCopy c x).appends = s.appends := rfl
@[simp] theorem State.queueCopy_seqs (s : State) (c : Cx) (x : CopyCmd) : (s.queueCopy c x).seqs = s.seqs := rfl
@[simp] theorem State.queueCopy_hst (s : State) (c : Cx) (x : CopyCmd) : (s.queueCopy c x).hst = s.hst := rfl
@[simp] theorem State.queueCopy_boot (s : State) (c : Cx) (x : CopyCmd) : (s.queueCopy c x).boot = s.boot := rfl
@[simp] theorem State.queueCopy_cols (s : State) (c : Cx) (x : CopyCmd) : (s.queueCopy c x).cols = s.cols := rfl
@[simp] theorem State.queueCopy_outbound (s : State) (c : Cx) (x : CopyCmd) : (s.queueCopy c x).outbound = s.outbound := rfl
@[simp] theorem State.queueCopy_answers (s : State) (c : Cx) (x : CopyCmd) : (s.queueCopy c x).answers = s.answers := rfl
@[simp] theorem State.queueCopy_drainLimit (s : State) (c : Cx) (x : CopyCmd) : (s.queueCopy c x).drainLimit = s.drainLimit := rfl
@[simp] theorem State.queueCopy_planeReads (s : State) (c : Cx) (x : CopyCmd) : (s.queueCopy c x).planeReads = s.planeReads := rfl
@[simp] theorem State.queueCopy_readFail (s : State) (c : Cx) (x : CopyCmd) : (s.queueCopy c x).readFail = s.readFail := rfl
@[simp] theorem State.queueCopy_agenda (s : State) (c : Cx) (x : CopyCmd) : (s.queueCopy c x).agenda = s.agenda := rfl
@[simp] theorem State.queueCopy_cur (s : State) (c : Cx) (x : CopyCmd) : (s.queueCopy c x).cur = s.cur := rfl
@[simp] theorem State.queueCopy_turn (s : State) (c : Cx) (x : CopyCmd) : (s.queueCopy c x).turn = s.turn := rfl
@[simp] theorem State.queueCopy_free (s : State) (c : Cx) (x : CopyCmd) : (s.queueCopy c x).free = s.free := rfl

/-! `State.setStrm` -/

@[simp] theorem State.setStrm_mem (s : State) (team q : Nat) (k : StreamReg) : (s.setStrm team q k).mem = s.mem := rfl
@[simp] theorem State.setStrm_poison (s : State) (team q : Nat) (k : StreamReg) : (s.setStrm team q k).poison = s.poison := rfl
@[simp] theorem State.setStrm_tilePoison (s : State) (team q : Nat) (k : StreamReg) : (s.setStrm team q k).tilePoison = s.tilePoison := rfl
@[simp] theorem State.setStrm_errors (s : State) (team q : Nat) (k : StreamReg) : (s.setStrm team q k).errors = s.errors := rfl
@[simp] theorem State.setStrm_retained (s : State) (team q : Nat) (k : StreamReg) : (s.setStrm team q k).retained = s.retained := rfl
@[simp] theorem State.setStrm_queue (s : State) (team q : Nat) (k : StreamReg) : (s.setStrm team q k).queue = s.queue := rfl
@[simp] theorem State.setStrm_l1 (s : State) (team q : Nat) (k : StreamReg) : (s.setStrm team q k).l1 = s.l1 := rfl
@[simp] theorem State.setStrm_l2 (s : State) (team q : Nat) (k : StreamReg) : (s.setStrm team q k).l2 = s.l2 := rfl
@[simp] theorem State.setStrm_icache (s : State) (team q : Nat) (k : StreamReg) : (s.setStrm team q k).icache = s.icache := rfl
@[simp] theorem State.setStrm_tlb (s : State) (team q : Nat) (k : StreamReg) : (s.setStrm team q k).tlb = s.tlb := rfl
@[simp] theorem State.setStrm_clocks (s : State) (team q : Nat) (k : StreamReg) : (s.setStrm team q k).clocks = s.clocks := rfl
@[simp] theorem State.setStrm_launches (s : State) (team q : Nat) (k : StreamReg) : (s.setStrm team q k).launches = s.launches := rfl
@[simp] theorem State.setStrm_nextSeq (s : State) (team q : Nat) (k : StreamReg) : (s.setStrm team q k).nextSeq = s.nextSeq := rfl
@[simp] theorem State.setStrm_lastTake (s : State) (team q : Nat) (k : StreamReg) : (s.setStrm team q k).lastTake = s.lastTake := rfl
@[simp] theorem State.setStrm_herd (s : State) (team q : Nat) (k : StreamReg) : (s.setStrm team q k).herd = s.herd := rfl
@[simp] theorem State.setStrm_fu (s : State) (team q : Nat) (k : StreamReg) : (s.setStrm team q k).fu = s.fu := rfl
@[simp] theorem State.setStrm_copies (s : State) (team q : Nat) (k : StreamReg) : (s.setStrm team q k).copies = s.copies := rfl
@[simp] theorem State.setStrm_tiles (s : State) (team q : Nat) (k : StreamReg) : (s.setStrm team q k).tiles = s.tiles := rfl
@[simp] theorem State.setStrm_smpls (s : State) (team q : Nat) (k : StreamReg) : (s.setStrm team q k).smpls = s.smpls := rfl
@[simp] theorem State.setStrm_attns (s : State) (team q : Nat) (k : StreamReg) : (s.setStrm team q k).attns = s.attns := rfl
@[simp] theorem State.setStrm_appends (s : State) (team q : Nat) (k : StreamReg) : (s.setStrm team q k).appends = s.appends := rfl
@[simp] theorem State.setStrm_seqs (s : State) (team q : Nat) (k : StreamReg) : (s.setStrm team q k).seqs = s.seqs := rfl
@[simp] theorem State.setStrm_hst (s : State) (team q : Nat) (k : StreamReg) : (s.setStrm team q k).hst = s.hst := rfl
@[simp] theorem State.setStrm_boot (s : State) (team q : Nat) (k : StreamReg) : (s.setStrm team q k).boot = s.boot := rfl
@[simp] theorem State.setStrm_cols (s : State) (team q : Nat) (k : StreamReg) : (s.setStrm team q k).cols = s.cols := rfl
@[simp] theorem State.setStrm_outbound (s : State) (team q : Nat) (k : StreamReg) : (s.setStrm team q k).outbound = s.outbound := rfl
@[simp] theorem State.setStrm_answers (s : State) (team q : Nat) (k : StreamReg) : (s.setStrm team q k).answers = s.answers := rfl
@[simp] theorem State.setStrm_drainLimit (s : State) (team q : Nat) (k : StreamReg) : (s.setStrm team q k).drainLimit = s.drainLimit := rfl
@[simp] theorem State.setStrm_planeReads (s : State) (team q : Nat) (k : StreamReg) : (s.setStrm team q k).planeReads = s.planeReads := rfl
@[simp] theorem State.setStrm_readFail (s : State) (team q : Nat) (k : StreamReg) : (s.setStrm team q k).readFail = s.readFail := rfl
@[simp] theorem State.setStrm_agenda (s : State) (team q : Nat) (k : StreamReg) : (s.setStrm team q k).agenda = s.agenda := rfl
@[simp] theorem State.setStrm_cur (s : State) (team q : Nat) (k : StreamReg) : (s.setStrm team q k).cur = s.cur := rfl
@[simp] theorem State.setStrm_turn (s : State) (team q : Nat) (k : StreamReg) : (s.setStrm team q k).turn = s.turn := rfl
@[simp] theorem State.setStrm_free (s : State) (team q : Nat) (k : StreamReg) : (s.setStrm team q k).free = s.free := rfl
@[simp] theorem State.setStrm_uid (s : State) (team q : Nat) (k : StreamReg) : (s.setStrm team q k).uid = s.uid := rfl

/-! `State.modCopy` -/

@[simp] theorem State.modCopy_mem (s : State) (uid : Nat) (f : CopyCmd → CopyCmd) : (s.modCopy uid f).mem = s.mem := rfl
@[simp] theorem State.modCopy_poison (s : State) (uid : Nat) (f : CopyCmd → CopyCmd) : (s.modCopy uid f).poison = s.poison := rfl
@[simp] theorem State.modCopy_tilePoison (s : State) (uid : Nat) (f : CopyCmd → CopyCmd) : (s.modCopy uid f).tilePoison = s.tilePoison := rfl
@[simp] theorem State.modCopy_errors (s : State) (uid : Nat) (f : CopyCmd → CopyCmd) : (s.modCopy uid f).errors = s.errors := rfl
@[simp] theorem State.modCopy_retained (s : State) (uid : Nat) (f : CopyCmd → CopyCmd) : (s.modCopy uid f).retained = s.retained := rfl
@[simp] theorem State.modCopy_teams (s : State) (uid : Nat) (f : CopyCmd → CopyCmd) : (s.modCopy uid f).teams = s.teams := rfl
@[simp] theorem State.modCopy_queue (s : State) (uid : Nat) (f : CopyCmd → CopyCmd) : (s.modCopy uid f).queue = s.queue := rfl
@[simp] theorem State.modCopy_l1 (s : State) (uid : Nat) (f : CopyCmd → CopyCmd) : (s.modCopy uid f).l1 = s.l1 := rfl
@[simp] theorem State.modCopy_l2 (s : State) (uid : Nat) (f : CopyCmd → CopyCmd) : (s.modCopy uid f).l2 = s.l2 := rfl
@[simp] theorem State.modCopy_icache (s : State) (uid : Nat) (f : CopyCmd → CopyCmd) : (s.modCopy uid f).icache = s.icache := rfl
@[simp] theorem State.modCopy_tlb (s : State) (uid : Nat) (f : CopyCmd → CopyCmd) : (s.modCopy uid f).tlb = s.tlb := rfl
@[simp] theorem State.modCopy_clocks (s : State) (uid : Nat) (f : CopyCmd → CopyCmd) : (s.modCopy uid f).clocks = s.clocks := rfl
@[simp] theorem State.modCopy_launches (s : State) (uid : Nat) (f : CopyCmd → CopyCmd) : (s.modCopy uid f).launches = s.launches := rfl
@[simp] theorem State.modCopy_nextSeq (s : State) (uid : Nat) (f : CopyCmd → CopyCmd) : (s.modCopy uid f).nextSeq = s.nextSeq := rfl
@[simp] theorem State.modCopy_lastTake (s : State) (uid : Nat) (f : CopyCmd → CopyCmd) : (s.modCopy uid f).lastTake = s.lastTake := rfl
@[simp] theorem State.modCopy_herd (s : State) (uid : Nat) (f : CopyCmd → CopyCmd) : (s.modCopy uid f).herd = s.herd := rfl
@[simp] theorem State.modCopy_fu (s : State) (uid : Nat) (f : CopyCmd → CopyCmd) : (s.modCopy uid f).fu = s.fu := rfl
@[simp] theorem State.modCopy_tiles (s : State) (uid : Nat) (f : CopyCmd → CopyCmd) : (s.modCopy uid f).tiles = s.tiles := rfl
@[simp] theorem State.modCopy_smpls (s : State) (uid : Nat) (f : CopyCmd → CopyCmd) : (s.modCopy uid f).smpls = s.smpls := rfl
@[simp] theorem State.modCopy_attns (s : State) (uid : Nat) (f : CopyCmd → CopyCmd) : (s.modCopy uid f).attns = s.attns := rfl
@[simp] theorem State.modCopy_appends (s : State) (uid : Nat) (f : CopyCmd → CopyCmd) : (s.modCopy uid f).appends = s.appends := rfl
@[simp] theorem State.modCopy_seqs (s : State) (uid : Nat) (f : CopyCmd → CopyCmd) : (s.modCopy uid f).seqs = s.seqs := rfl
@[simp] theorem State.modCopy_hst (s : State) (uid : Nat) (f : CopyCmd → CopyCmd) : (s.modCopy uid f).hst = s.hst := rfl
@[simp] theorem State.modCopy_boot (s : State) (uid : Nat) (f : CopyCmd → CopyCmd) : (s.modCopy uid f).boot = s.boot := rfl
@[simp] theorem State.modCopy_cols (s : State) (uid : Nat) (f : CopyCmd → CopyCmd) : (s.modCopy uid f).cols = s.cols := rfl
@[simp] theorem State.modCopy_outbound (s : State) (uid : Nat) (f : CopyCmd → CopyCmd) : (s.modCopy uid f).outbound = s.outbound := rfl
@[simp] theorem State.modCopy_answers (s : State) (uid : Nat) (f : CopyCmd → CopyCmd) : (s.modCopy uid f).answers = s.answers := rfl
@[simp] theorem State.modCopy_drainLimit (s : State) (uid : Nat) (f : CopyCmd → CopyCmd) : (s.modCopy uid f).drainLimit = s.drainLimit := rfl
@[simp] theorem State.modCopy_planeReads (s : State) (uid : Nat) (f : CopyCmd → CopyCmd) : (s.modCopy uid f).planeReads = s.planeReads := rfl
@[simp] theorem State.modCopy_readFail (s : State) (uid : Nat) (f : CopyCmd → CopyCmd) : (s.modCopy uid f).readFail = s.readFail := rfl
@[simp] theorem State.modCopy_agenda (s : State) (uid : Nat) (f : CopyCmd → CopyCmd) : (s.modCopy uid f).agenda = s.agenda := rfl
@[simp] theorem State.modCopy_cur (s : State) (uid : Nat) (f : CopyCmd → CopyCmd) : (s.modCopy uid f).cur = s.cur := rfl
@[simp] theorem State.modCopy_turn (s : State) (uid : Nat) (f : CopyCmd → CopyCmd) : (s.modCopy uid f).turn = s.turn := rfl
@[simp] theorem State.modCopy_free (s : State) (uid : Nat) (f : CopyCmd → CopyCmd) : (s.modCopy uid f).free = s.free := rfl
@[simp] theorem State.modCopy_uid (s : State) (uid : Nat) (f : CopyCmd → CopyCmd) : (s.modCopy uid f).uid = s.uid := rfl

/-! `State.modTile` -/

@[simp] theorem State.modTile_mem (s : State) (uid : Nat) (f : TileCmd → TileCmd) : (s.modTile uid f).mem = s.mem := rfl
@[simp] theorem State.modTile_poison (s : State) (uid : Nat) (f : TileCmd → TileCmd) : (s.modTile uid f).poison = s.poison := rfl
@[simp] theorem State.modTile_tilePoison (s : State) (uid : Nat) (f : TileCmd → TileCmd) : (s.modTile uid f).tilePoison = s.tilePoison := rfl
@[simp] theorem State.modTile_errors (s : State) (uid : Nat) (f : TileCmd → TileCmd) : (s.modTile uid f).errors = s.errors := rfl
@[simp] theorem State.modTile_retained (s : State) (uid : Nat) (f : TileCmd → TileCmd) : (s.modTile uid f).retained = s.retained := rfl
@[simp] theorem State.modTile_teams (s : State) (uid : Nat) (f : TileCmd → TileCmd) : (s.modTile uid f).teams = s.teams := rfl
@[simp] theorem State.modTile_queue (s : State) (uid : Nat) (f : TileCmd → TileCmd) : (s.modTile uid f).queue = s.queue := rfl
@[simp] theorem State.modTile_l1 (s : State) (uid : Nat) (f : TileCmd → TileCmd) : (s.modTile uid f).l1 = s.l1 := rfl
@[simp] theorem State.modTile_l2 (s : State) (uid : Nat) (f : TileCmd → TileCmd) : (s.modTile uid f).l2 = s.l2 := rfl
@[simp] theorem State.modTile_icache (s : State) (uid : Nat) (f : TileCmd → TileCmd) : (s.modTile uid f).icache = s.icache := rfl
@[simp] theorem State.modTile_tlb (s : State) (uid : Nat) (f : TileCmd → TileCmd) : (s.modTile uid f).tlb = s.tlb := rfl
@[simp] theorem State.modTile_clocks (s : State) (uid : Nat) (f : TileCmd → TileCmd) : (s.modTile uid f).clocks = s.clocks := rfl
@[simp] theorem State.modTile_launches (s : State) (uid : Nat) (f : TileCmd → TileCmd) : (s.modTile uid f).launches = s.launches := rfl
@[simp] theorem State.modTile_nextSeq (s : State) (uid : Nat) (f : TileCmd → TileCmd) : (s.modTile uid f).nextSeq = s.nextSeq := rfl
@[simp] theorem State.modTile_lastTake (s : State) (uid : Nat) (f : TileCmd → TileCmd) : (s.modTile uid f).lastTake = s.lastTake := rfl
@[simp] theorem State.modTile_herd (s : State) (uid : Nat) (f : TileCmd → TileCmd) : (s.modTile uid f).herd = s.herd := rfl
@[simp] theorem State.modTile_fu (s : State) (uid : Nat) (f : TileCmd → TileCmd) : (s.modTile uid f).fu = s.fu := rfl
@[simp] theorem State.modTile_copies (s : State) (uid : Nat) (f : TileCmd → TileCmd) : (s.modTile uid f).copies = s.copies := rfl
@[simp] theorem State.modTile_smpls (s : State) (uid : Nat) (f : TileCmd → TileCmd) : (s.modTile uid f).smpls = s.smpls := rfl
@[simp] theorem State.modTile_attns (s : State) (uid : Nat) (f : TileCmd → TileCmd) : (s.modTile uid f).attns = s.attns := rfl
@[simp] theorem State.modTile_appends (s : State) (uid : Nat) (f : TileCmd → TileCmd) : (s.modTile uid f).appends = s.appends := rfl
@[simp] theorem State.modTile_seqs (s : State) (uid : Nat) (f : TileCmd → TileCmd) : (s.modTile uid f).seqs = s.seqs := rfl
@[simp] theorem State.modTile_hst (s : State) (uid : Nat) (f : TileCmd → TileCmd) : (s.modTile uid f).hst = s.hst := rfl
@[simp] theorem State.modTile_boot (s : State) (uid : Nat) (f : TileCmd → TileCmd) : (s.modTile uid f).boot = s.boot := rfl
@[simp] theorem State.modTile_cols (s : State) (uid : Nat) (f : TileCmd → TileCmd) : (s.modTile uid f).cols = s.cols := rfl
@[simp] theorem State.modTile_outbound (s : State) (uid : Nat) (f : TileCmd → TileCmd) : (s.modTile uid f).outbound = s.outbound := rfl
@[simp] theorem State.modTile_answers (s : State) (uid : Nat) (f : TileCmd → TileCmd) : (s.modTile uid f).answers = s.answers := rfl
@[simp] theorem State.modTile_drainLimit (s : State) (uid : Nat) (f : TileCmd → TileCmd) : (s.modTile uid f).drainLimit = s.drainLimit := rfl
@[simp] theorem State.modTile_planeReads (s : State) (uid : Nat) (f : TileCmd → TileCmd) : (s.modTile uid f).planeReads = s.planeReads := rfl
@[simp] theorem State.modTile_readFail (s : State) (uid : Nat) (f : TileCmd → TileCmd) : (s.modTile uid f).readFail = s.readFail := rfl
@[simp] theorem State.modTile_agenda (s : State) (uid : Nat) (f : TileCmd → TileCmd) : (s.modTile uid f).agenda = s.agenda := rfl
@[simp] theorem State.modTile_cur (s : State) (uid : Nat) (f : TileCmd → TileCmd) : (s.modTile uid f).cur = s.cur := rfl
@[simp] theorem State.modTile_turn (s : State) (uid : Nat) (f : TileCmd → TileCmd) : (s.modTile uid f).turn = s.turn := rfl
@[simp] theorem State.modTile_free (s : State) (uid : Nat) (f : TileCmd → TileCmd) : (s.modTile uid f).free = s.free := rfl
@[simp] theorem State.modTile_uid (s : State) (uid : Nat) (f : TileCmd → TileCmd) : (s.modTile uid f).uid = s.uid := rfl

/-! `State.modSeq` -/

@[simp] theorem State.modSeq_mem (s : State) (n : Nat) (f : SeqRec → SeqRec) : (s.modSeq n f).mem = s.mem := rfl
@[simp] theorem State.modSeq_poison (s : State) (n : Nat) (f : SeqRec → SeqRec) : (s.modSeq n f).poison = s.poison := rfl
@[simp] theorem State.modSeq_tilePoison (s : State) (n : Nat) (f : SeqRec → SeqRec) : (s.modSeq n f).tilePoison = s.tilePoison := rfl
@[simp] theorem State.modSeq_errors (s : State) (n : Nat) (f : SeqRec → SeqRec) : (s.modSeq n f).errors = s.errors := rfl
@[simp] theorem State.modSeq_retained (s : State) (n : Nat) (f : SeqRec → SeqRec) : (s.modSeq n f).retained = s.retained := rfl
@[simp] theorem State.modSeq_teams (s : State) (n : Nat) (f : SeqRec → SeqRec) : (s.modSeq n f).teams = s.teams := rfl
@[simp] theorem State.modSeq_queue (s : State) (n : Nat) (f : SeqRec → SeqRec) : (s.modSeq n f).queue = s.queue := rfl
@[simp] theorem State.modSeq_l1 (s : State) (n : Nat) (f : SeqRec → SeqRec) : (s.modSeq n f).l1 = s.l1 := rfl
@[simp] theorem State.modSeq_l2 (s : State) (n : Nat) (f : SeqRec → SeqRec) : (s.modSeq n f).l2 = s.l2 := rfl
@[simp] theorem State.modSeq_icache (s : State) (n : Nat) (f : SeqRec → SeqRec) : (s.modSeq n f).icache = s.icache := rfl
@[simp] theorem State.modSeq_tlb (s : State) (n : Nat) (f : SeqRec → SeqRec) : (s.modSeq n f).tlb = s.tlb := rfl
@[simp] theorem State.modSeq_clocks (s : State) (n : Nat) (f : SeqRec → SeqRec) : (s.modSeq n f).clocks = s.clocks := rfl
@[simp] theorem State.modSeq_launches (s : State) (n : Nat) (f : SeqRec → SeqRec) : (s.modSeq n f).launches = s.launches := rfl
@[simp] theorem State.modSeq_nextSeq (s : State) (n : Nat) (f : SeqRec → SeqRec) : (s.modSeq n f).nextSeq = s.nextSeq := rfl
@[simp] theorem State.modSeq_lastTake (s : State) (n : Nat) (f : SeqRec → SeqRec) : (s.modSeq n f).lastTake = s.lastTake := rfl
@[simp] theorem State.modSeq_herd (s : State) (n : Nat) (f : SeqRec → SeqRec) : (s.modSeq n f).herd = s.herd := rfl
@[simp] theorem State.modSeq_fu (s : State) (n : Nat) (f : SeqRec → SeqRec) : (s.modSeq n f).fu = s.fu := rfl
@[simp] theorem State.modSeq_copies (s : State) (n : Nat) (f : SeqRec → SeqRec) : (s.modSeq n f).copies = s.copies := rfl
@[simp] theorem State.modSeq_tiles (s : State) (n : Nat) (f : SeqRec → SeqRec) : (s.modSeq n f).tiles = s.tiles := rfl
@[simp] theorem State.modSeq_smpls (s : State) (n : Nat) (f : SeqRec → SeqRec) : (s.modSeq n f).smpls = s.smpls := rfl
@[simp] theorem State.modSeq_attns (s : State) (n : Nat) (f : SeqRec → SeqRec) : (s.modSeq n f).attns = s.attns := rfl
@[simp] theorem State.modSeq_appends (s : State) (n : Nat) (f : SeqRec → SeqRec) : (s.modSeq n f).appends = s.appends := rfl
@[simp] theorem State.modSeq_hst (s : State) (n : Nat) (f : SeqRec → SeqRec) : (s.modSeq n f).hst = s.hst := rfl
@[simp] theorem State.modSeq_boot (s : State) (n : Nat) (f : SeqRec → SeqRec) : (s.modSeq n f).boot = s.boot := rfl
@[simp] theorem State.modSeq_cols (s : State) (n : Nat) (f : SeqRec → SeqRec) : (s.modSeq n f).cols = s.cols := rfl
@[simp] theorem State.modSeq_outbound (s : State) (n : Nat) (f : SeqRec → SeqRec) : (s.modSeq n f).outbound = s.outbound := rfl
@[simp] theorem State.modSeq_answers (s : State) (n : Nat) (f : SeqRec → SeqRec) : (s.modSeq n f).answers = s.answers := rfl
@[simp] theorem State.modSeq_drainLimit (s : State) (n : Nat) (f : SeqRec → SeqRec) : (s.modSeq n f).drainLimit = s.drainLimit := rfl
@[simp] theorem State.modSeq_planeReads (s : State) (n : Nat) (f : SeqRec → SeqRec) : (s.modSeq n f).planeReads = s.planeReads := rfl
@[simp] theorem State.modSeq_readFail (s : State) (n : Nat) (f : SeqRec → SeqRec) : (s.modSeq n f).readFail = s.readFail := rfl
@[simp] theorem State.modSeq_agenda (s : State) (n : Nat) (f : SeqRec → SeqRec) : (s.modSeq n f).agenda = s.agenda := rfl
@[simp] theorem State.modSeq_cur (s : State) (n : Nat) (f : SeqRec → SeqRec) : (s.modSeq n f).cur = s.cur := rfl
@[simp] theorem State.modSeq_turn (s : State) (n : Nat) (f : SeqRec → SeqRec) : (s.modSeq n f).turn = s.turn := rfl
@[simp] theorem State.modSeq_free (s : State) (n : Nat) (f : SeqRec → SeqRec) : (s.modSeq n f).free = s.free := rfl
@[simp] theorem State.modSeq_uid (s : State) (n : Nat) (f : SeqRec → SeqRec) : (s.modSeq n f).uid = s.uid := rfl

/-! `State.putPage` -/

@[simp] theorem State.putPage_retained (s : State) (pn off n v : Nat) : (s.putPage pn off n v).retained = s.retained := rfl
@[simp] theorem State.putPage_teams (s : State) (pn off n v : Nat) : (s.putPage pn off n v).teams = s.teams := rfl
@[simp] theorem State.putPage_queue (s : State) (pn off n v : Nat) : (s.putPage pn off n v).queue = s.queue := rfl
@[simp] theorem State.putPage_l1 (s : State) (pn off n v : Nat) : (s.putPage pn off n v).l1 = s.l1 := rfl
@[simp] theorem State.putPage_icache (s : State) (pn off n v : Nat) : (s.putPage pn off n v).icache = s.icache := rfl
@[simp] theorem State.putPage_tlb (s : State) (pn off n v : Nat) : (s.putPage pn off n v).tlb = s.tlb := rfl
@[simp] theorem State.putPage_clocks (s : State) (pn off n v : Nat) : (s.putPage pn off n v).clocks = s.clocks := rfl
@[simp] theorem State.putPage_launches (s : State) (pn off n v : Nat) : (s.putPage pn off n v).launches = s.launches := rfl
@[simp] theorem State.putPage_nextSeq (s : State) (pn off n v : Nat) : (s.putPage pn off n v).nextSeq = s.nextSeq := rfl
@[simp] theorem State.putPage_lastTake (s : State) (pn off n v : Nat) : (s.putPage pn off n v).lastTake = s.lastTake := rfl
@[simp] theorem State.putPage_fu (s : State) (pn off n v : Nat) : (s.putPage pn off n v).fu = s.fu := rfl
@[simp] theorem State.putPage_copies (s : State) (pn off n v : Nat) : (s.putPage pn off n v).copies = s.copies := rfl
@[simp] theorem State.putPage_tiles (s : State) (pn off n v : Nat) : (s.putPage pn off n v).tiles = s.tiles := rfl
@[simp] theorem State.putPage_smpls (s : State) (pn off n v : Nat) : (s.putPage pn off n v).smpls = s.smpls := rfl
@[simp] theorem State.putPage_attns (s : State) (pn off n v : Nat) : (s.putPage pn off n v).attns = s.attns := rfl
@[simp] theorem State.putPage_appends (s : State) (pn off n v : Nat) : (s.putPage pn off n v).appends = s.appends := rfl
@[simp] theorem State.putPage_seqs (s : State) (pn off n v : Nat) : (s.putPage pn off n v).seqs = s.seqs := rfl
@[simp] theorem State.putPage_hst (s : State) (pn off n v : Nat) : (s.putPage pn off n v).hst = s.hst := rfl
@[simp] theorem State.putPage_boot (s : State) (pn off n v : Nat) : (s.putPage pn off n v).boot = s.boot := rfl
@[simp] theorem State.putPage_cols (s : State) (pn off n v : Nat) : (s.putPage pn off n v).cols = s.cols := rfl
@[simp] theorem State.putPage_answers (s : State) (pn off n v : Nat) : (s.putPage pn off n v).answers = s.answers := rfl
@[simp] theorem State.putPage_drainLimit (s : State) (pn off n v : Nat) : (s.putPage pn off n v).drainLimit = s.drainLimit := rfl
@[simp] theorem State.putPage_planeReads (s : State) (pn off n v : Nat) : (s.putPage pn off n v).planeReads = s.planeReads := rfl
@[simp] theorem State.putPage_readFail (s : State) (pn off n v : Nat) : (s.putPage pn off n v).readFail = s.readFail := rfl
@[simp] theorem State.putPage_agenda (s : State) (pn off n v : Nat) : (s.putPage pn off n v).agenda = s.agenda := rfl
@[simp] theorem State.putPage_cur (s : State) (pn off n v : Nat) : (s.putPage pn off n v).cur = s.cur := rfl
@[simp] theorem State.putPage_turn (s : State) (pn off n v : Nat) : (s.putPage pn off n v).turn = s.turn := rfl
@[simp] theorem State.putPage_free (s : State) (pn off n v : Nat) : (s.putPage pn off n v).free = s.free := rfl
@[simp] theorem State.putPage_uid (s : State) (pn off n v : Nat) : (s.putPage pn off n v).uid = s.uid := rfl

/-! `State.putWork` -/

@[simp] theorem State.putWork_mem (s : State) (e : WorkEntry) : (s.putWork e).mem = s.mem := rfl
@[simp] theorem State.putWork_poison (s : State) (e : WorkEntry) : (s.putWork e).poison = s.poison := rfl
@[simp] theorem State.putWork_tilePoison (s : State) (e : WorkEntry) : (s.putWork e).tilePoison = s.tilePoison := rfl
@[simp] theorem State.putWork_errors (s : State) (e : WorkEntry) : (s.putWork e).errors = s.errors := rfl
@[simp] theorem State.putWork_retained (s : State) (e : WorkEntry) : (s.putWork e).retained = s.retained := rfl
@[simp] theorem State.putWork_teams (s : State) (e : WorkEntry) : (s.putWork e).teams = s.teams := rfl
@[simp] theorem State.putWork_queue (s : State) (e : WorkEntry) : (s.putWork e).queue = s.queue := rfl
@[simp] theorem State.putWork_l1 (s : State) (e : WorkEntry) : (s.putWork e).l1 = s.l1 := rfl
@[simp] theorem State.putWork_l2 (s : State) (e : WorkEntry) : (s.putWork e).l2 = s.l2 := rfl
@[simp] theorem State.putWork_icache (s : State) (e : WorkEntry) : (s.putWork e).icache = s.icache := rfl
@[simp] theorem State.putWork_tlb (s : State) (e : WorkEntry) : (s.putWork e).tlb = s.tlb := rfl
@[simp] theorem State.putWork_clocks (s : State) (e : WorkEntry) : (s.putWork e).clocks = s.clocks := rfl
@[simp] theorem State.putWork_launches (s : State) (e : WorkEntry) : (s.putWork e).launches = s.launches := rfl
@[simp] theorem State.putWork_nextSeq (s : State) (e : WorkEntry) : (s.putWork e).nextSeq = s.nextSeq := rfl
@[simp] theorem State.putWork_lastTake (s : State) (e : WorkEntry) : (s.putWork e).lastTake = s.lastTake := rfl
@[simp] theorem State.putWork_herd (s : State) (e : WorkEntry) : (s.putWork e).herd = s.herd := rfl
@[simp] theorem State.putWork_fu (s : State) (e : WorkEntry) : (s.putWork e).fu = s.fu := rfl
@[simp] theorem State.putWork_copies (s : State) (e : WorkEntry) : (s.putWork e).copies = s.copies := rfl
@[simp] theorem State.putWork_tiles (s : State) (e : WorkEntry) : (s.putWork e).tiles = s.tiles := rfl
@[simp] theorem State.putWork_smpls (s : State) (e : WorkEntry) : (s.putWork e).smpls = s.smpls := rfl
@[simp] theorem State.putWork_attns (s : State) (e : WorkEntry) : (s.putWork e).attns = s.attns := rfl
@[simp] theorem State.putWork_appends (s : State) (e : WorkEntry) : (s.putWork e).appends = s.appends := rfl
@[simp] theorem State.putWork_seqs (s : State) (e : WorkEntry) : (s.putWork e).seqs = s.seqs := rfl
@[simp] theorem State.putWork_boot (s : State) (e : WorkEntry) : (s.putWork e).boot = s.boot := rfl
@[simp] theorem State.putWork_cols (s : State) (e : WorkEntry) : (s.putWork e).cols = s.cols := rfl
@[simp] theorem State.putWork_outbound (s : State) (e : WorkEntry) : (s.putWork e).outbound = s.outbound := rfl
@[simp] theorem State.putWork_answers (s : State) (e : WorkEntry) : (s.putWork e).answers = s.answers := rfl
@[simp] theorem State.putWork_drainLimit (s : State) (e : WorkEntry) : (s.putWork e).drainLimit = s.drainLimit := rfl
@[simp] theorem State.putWork_planeReads (s : State) (e : WorkEntry) : (s.putWork e).planeReads = s.planeReads := rfl
@[simp] theorem State.putWork_readFail (s : State) (e : WorkEntry) : (s.putWork e).readFail = s.readFail := rfl
@[simp] theorem State.putWork_agenda (s : State) (e : WorkEntry) : (s.putWork e).agenda = s.agenda := rfl
@[simp] theorem State.putWork_cur (s : State) (e : WorkEntry) : (s.putWork e).cur = s.cur := rfl
@[simp] theorem State.putWork_turn (s : State) (e : WorkEntry) : (s.putWork e).turn = s.turn := rfl
@[simp] theorem State.putWork_free (s : State) (e : WorkEntry) : (s.putWork e).free = s.free := rfl
@[simp] theorem State.putWork_uid (s : State) (e : WorkEntry) : (s.putWork e).uid = s.uid := rfl

/-! `State.putWindow` -/

@[simp] theorem State.putWindow_mem (s : State) (w : WindowCount) : (s.putWindow w).mem = s.mem := rfl
@[simp] theorem State.putWindow_poison (s : State) (w : WindowCount) : (s.putWindow w).poison = s.poison := rfl
@[simp] theorem State.putWindow_tilePoison (s : State) (w : WindowCount) : (s.putWindow w).tilePoison = s.tilePoison := rfl
@[simp] theorem State.putWindow_errors (s : State) (w : WindowCount) : (s.putWindow w).errors = s.errors := rfl
@[simp] theorem State.putWindow_retained (s : State) (w : WindowCount) : (s.putWindow w).retained = s.retained := rfl
@[simp] theorem State.putWindow_teams (s : State) (w : WindowCount) : (s.putWindow w).teams = s.teams := rfl
@[simp] theorem State.putWindow_queue (s : State) (w : WindowCount) : (s.putWindow w).queue = s.queue := rfl
@[simp] theorem State.putWindow_l1 (s : State) (w : WindowCount) : (s.putWindow w).l1 = s.l1 := rfl
@[simp] theorem State.putWindow_l2 (s : State) (w : WindowCount) : (s.putWindow w).l2 = s.l2 := rfl
@[simp] theorem State.putWindow_icache (s : State) (w : WindowCount) : (s.putWindow w).icache = s.icache := rfl
@[simp] theorem State.putWindow_tlb (s : State) (w : WindowCount) : (s.putWindow w).tlb = s.tlb := rfl
@[simp] theorem State.putWindow_clocks (s : State) (w : WindowCount) : (s.putWindow w).clocks = s.clocks := rfl
@[simp] theorem State.putWindow_launches (s : State) (w : WindowCount) : (s.putWindow w).launches = s.launches := rfl
@[simp] theorem State.putWindow_nextSeq (s : State) (w : WindowCount) : (s.putWindow w).nextSeq = s.nextSeq := rfl
@[simp] theorem State.putWindow_lastTake (s : State) (w : WindowCount) : (s.putWindow w).lastTake = s.lastTake := rfl
@[simp] theorem State.putWindow_herd (s : State) (w : WindowCount) : (s.putWindow w).herd = s.herd := rfl
@[simp] theorem State.putWindow_fu (s : State) (w : WindowCount) : (s.putWindow w).fu = s.fu := rfl
@[simp] theorem State.putWindow_copies (s : State) (w : WindowCount) : (s.putWindow w).copies = s.copies := rfl
@[simp] theorem State.putWindow_tiles (s : State) (w : WindowCount) : (s.putWindow w).tiles = s.tiles := rfl
@[simp] theorem State.putWindow_smpls (s : State) (w : WindowCount) : (s.putWindow w).smpls = s.smpls := rfl
@[simp] theorem State.putWindow_attns (s : State) (w : WindowCount) : (s.putWindow w).attns = s.attns := rfl
@[simp] theorem State.putWindow_appends (s : State) (w : WindowCount) : (s.putWindow w).appends = s.appends := rfl
@[simp] theorem State.putWindow_seqs (s : State) (w : WindowCount) : (s.putWindow w).seqs = s.seqs := rfl
@[simp] theorem State.putWindow_boot (s : State) (w : WindowCount) : (s.putWindow w).boot = s.boot := rfl
@[simp] theorem State.putWindow_cols (s : State) (w : WindowCount) : (s.putWindow w).cols = s.cols := rfl
@[simp] theorem State.putWindow_outbound (s : State) (w : WindowCount) : (s.putWindow w).outbound = s.outbound := rfl
@[simp] theorem State.putWindow_answers (s : State) (w : WindowCount) : (s.putWindow w).answers = s.answers := rfl
@[simp] theorem State.putWindow_drainLimit (s : State) (w : WindowCount) : (s.putWindow w).drainLimit = s.drainLimit := rfl
@[simp] theorem State.putWindow_planeReads (s : State) (w : WindowCount) : (s.putWindow w).planeReads = s.planeReads := rfl
@[simp] theorem State.putWindow_readFail (s : State) (w : WindowCount) : (s.putWindow w).readFail = s.readFail := rfl
@[simp] theorem State.putWindow_agenda (s : State) (w : WindowCount) : (s.putWindow w).agenda = s.agenda := rfl
@[simp] theorem State.putWindow_cur (s : State) (w : WindowCount) : (s.putWindow w).cur = s.cur := rfl
@[simp] theorem State.putWindow_turn (s : State) (w : WindowCount) : (s.putWindow w).turn = s.turn := rfl
@[simp] theorem State.putWindow_free (s : State) (w : WindowCount) : (s.putWindow w).free = s.free := rfl
@[simp] theorem State.putWindow_uid (s : State) (w : WindowCount) : (s.putWindow w).uid = s.uid := rfl

/-! `State.tick` -/

@[simp] theorem State.tick_mem (s : State) (core : Nat) : (s.tick core).mem = s.mem := rfl
@[simp] theorem State.tick_poison (s : State) (core : Nat) : (s.tick core).poison = s.poison := rfl
@[simp] theorem State.tick_tilePoison (s : State) (core : Nat) : (s.tick core).tilePoison = s.tilePoison := rfl
@[simp] theorem State.tick_errors (s : State) (core : Nat) : (s.tick core).errors = s.errors := rfl
@[simp] theorem State.tick_retained (s : State) (core : Nat) : (s.tick core).retained = s.retained := rfl
@[simp] theorem State.tick_teams (s : State) (core : Nat) : (s.tick core).teams = s.teams := rfl
@[simp] theorem State.tick_queue (s : State) (core : Nat) : (s.tick core).queue = s.queue := rfl
@[simp] theorem State.tick_l1 (s : State) (core : Nat) : (s.tick core).l1 = s.l1 := rfl
@[simp] theorem State.tick_l2 (s : State) (core : Nat) : (s.tick core).l2 = s.l2 := rfl
@[simp] theorem State.tick_icache (s : State) (core : Nat) : (s.tick core).icache = s.icache := rfl
@[simp] theorem State.tick_tlb (s : State) (core : Nat) : (s.tick core).tlb = s.tlb := rfl
@[simp] theorem State.tick_launches (s : State) (core : Nat) : (s.tick core).launches = s.launches := rfl
@[simp] theorem State.tick_nextSeq (s : State) (core : Nat) : (s.tick core).nextSeq = s.nextSeq := rfl
@[simp] theorem State.tick_lastTake (s : State) (core : Nat) : (s.tick core).lastTake = s.lastTake := rfl
@[simp] theorem State.tick_herd (s : State) (core : Nat) : (s.tick core).herd = s.herd := rfl
@[simp] theorem State.tick_fu (s : State) (core : Nat) : (s.tick core).fu = s.fu := rfl
@[simp] theorem State.tick_copies (s : State) (core : Nat) : (s.tick core).copies = s.copies := rfl
@[simp] theorem State.tick_tiles (s : State) (core : Nat) : (s.tick core).tiles = s.tiles := rfl
@[simp] theorem State.tick_smpls (s : State) (core : Nat) : (s.tick core).smpls = s.smpls := rfl
@[simp] theorem State.tick_attns (s : State) (core : Nat) : (s.tick core).attns = s.attns := rfl
@[simp] theorem State.tick_appends (s : State) (core : Nat) : (s.tick core).appends = s.appends := rfl
@[simp] theorem State.tick_seqs (s : State) (core : Nat) : (s.tick core).seqs = s.seqs := rfl
@[simp] theorem State.tick_hst (s : State) (core : Nat) : (s.tick core).hst = s.hst := rfl
@[simp] theorem State.tick_boot (s : State) (core : Nat) : (s.tick core).boot = s.boot := rfl
@[simp] theorem State.tick_cols (s : State) (core : Nat) : (s.tick core).cols = s.cols := rfl
@[simp] theorem State.tick_outbound (s : State) (core : Nat) : (s.tick core).outbound = s.outbound := rfl
@[simp] theorem State.tick_answers (s : State) (core : Nat) : (s.tick core).answers = s.answers := rfl
@[simp] theorem State.tick_drainLimit (s : State) (core : Nat) : (s.tick core).drainLimit = s.drainLimit := rfl
@[simp] theorem State.tick_planeReads (s : State) (core : Nat) : (s.tick core).planeReads = s.planeReads := rfl
@[simp] theorem State.tick_readFail (s : State) (core : Nat) : (s.tick core).readFail = s.readFail := rfl
@[simp] theorem State.tick_agenda (s : State) (core : Nat) : (s.tick core).agenda = s.agenda := rfl
@[simp] theorem State.tick_cur (s : State) (core : Nat) : (s.tick core).cur = s.cur := rfl
@[simp] theorem State.tick_turn (s : State) (core : Nat) : (s.tick core).turn = s.turn := rfl
@[simp] theorem State.tick_uid (s : State) (core : Nat) : (s.tick core).uid = s.uid := rfl

/-! `State.awaitX` -/

@[simp] theorem State.awaitX_mem (s : State) (r : TRef) (ns : List Nat) (uid : Nat) : (s.awaitX r ns uid).mem = s.mem := rfl
@[simp] theorem State.awaitX_poison (s : State) (r : TRef) (ns : List Nat) (uid : Nat) : (s.awaitX r ns uid).poison = s.poison := rfl
@[simp] theorem State.awaitX_tilePoison (s : State) (r : TRef) (ns : List Nat) (uid : Nat) : (s.awaitX r ns uid).tilePoison = s.tilePoison := rfl
@[simp] theorem State.awaitX_errors (s : State) (r : TRef) (ns : List Nat) (uid : Nat) : (s.awaitX r ns uid).errors = s.errors := rfl
@[simp] theorem State.awaitX_retained (s : State) (r : TRef) (ns : List Nat) (uid : Nat) : (s.awaitX r ns uid).retained = s.retained := rfl
@[simp] theorem State.awaitX_queue (s : State) (r : TRef) (ns : List Nat) (uid : Nat) : (s.awaitX r ns uid).queue = s.queue := rfl
@[simp] theorem State.awaitX_l1 (s : State) (r : TRef) (ns : List Nat) (uid : Nat) : (s.awaitX r ns uid).l1 = s.l1 := rfl
@[simp] theorem State.awaitX_l2 (s : State) (r : TRef) (ns : List Nat) (uid : Nat) : (s.awaitX r ns uid).l2 = s.l2 := rfl
@[simp] theorem State.awaitX_icache (s : State) (r : TRef) (ns : List Nat) (uid : Nat) : (s.awaitX r ns uid).icache = s.icache := rfl
@[simp] theorem State.awaitX_tlb (s : State) (r : TRef) (ns : List Nat) (uid : Nat) : (s.awaitX r ns uid).tlb = s.tlb := rfl
@[simp] theorem State.awaitX_clocks (s : State) (r : TRef) (ns : List Nat) (uid : Nat) : (s.awaitX r ns uid).clocks = s.clocks := rfl
@[simp] theorem State.awaitX_launches (s : State) (r : TRef) (ns : List Nat) (uid : Nat) : (s.awaitX r ns uid).launches = s.launches := rfl
@[simp] theorem State.awaitX_nextSeq (s : State) (r : TRef) (ns : List Nat) (uid : Nat) : (s.awaitX r ns uid).nextSeq = s.nextSeq := rfl
@[simp] theorem State.awaitX_lastTake (s : State) (r : TRef) (ns : List Nat) (uid : Nat) : (s.awaitX r ns uid).lastTake = s.lastTake := rfl
@[simp] theorem State.awaitX_herd (s : State) (r : TRef) (ns : List Nat) (uid : Nat) : (s.awaitX r ns uid).herd = s.herd := rfl
@[simp] theorem State.awaitX_fu (s : State) (r : TRef) (ns : List Nat) (uid : Nat) : (s.awaitX r ns uid).fu = s.fu := rfl
@[simp] theorem State.awaitX_copies (s : State) (r : TRef) (ns : List Nat) (uid : Nat) : (s.awaitX r ns uid).copies = s.copies := rfl
@[simp] theorem State.awaitX_tiles (s : State) (r : TRef) (ns : List Nat) (uid : Nat) : (s.awaitX r ns uid).tiles = s.tiles := rfl
@[simp] theorem State.awaitX_smpls (s : State) (r : TRef) (ns : List Nat) (uid : Nat) : (s.awaitX r ns uid).smpls = s.smpls := rfl
@[simp] theorem State.awaitX_attns (s : State) (r : TRef) (ns : List Nat) (uid : Nat) : (s.awaitX r ns uid).attns = s.attns := rfl
@[simp] theorem State.awaitX_appends (s : State) (r : TRef) (ns : List Nat) (uid : Nat) : (s.awaitX r ns uid).appends = s.appends := rfl
@[simp] theorem State.awaitX_seqs (s : State) (r : TRef) (ns : List Nat) (uid : Nat) : (s.awaitX r ns uid).seqs = s.seqs := rfl
@[simp] theorem State.awaitX_hst (s : State) (r : TRef) (ns : List Nat) (uid : Nat) : (s.awaitX r ns uid).hst = s.hst := rfl
@[simp] theorem State.awaitX_boot (s : State) (r : TRef) (ns : List Nat) (uid : Nat) : (s.awaitX r ns uid).boot = s.boot := rfl
@[simp] theorem State.awaitX_cols (s : State) (r : TRef) (ns : List Nat) (uid : Nat) : (s.awaitX r ns uid).cols = s.cols := rfl
@[simp] theorem State.awaitX_outbound (s : State) (r : TRef) (ns : List Nat) (uid : Nat) : (s.awaitX r ns uid).outbound = s.outbound := rfl
@[simp] theorem State.awaitX_answers (s : State) (r : TRef) (ns : List Nat) (uid : Nat) : (s.awaitX r ns uid).answers = s.answers := rfl
@[simp] theorem State.awaitX_drainLimit (s : State) (r : TRef) (ns : List Nat) (uid : Nat) : (s.awaitX r ns uid).drainLimit = s.drainLimit := rfl
@[simp] theorem State.awaitX_planeReads (s : State) (r : TRef) (ns : List Nat) (uid : Nat) : (s.awaitX r ns uid).planeReads = s.planeReads := rfl
@[simp] theorem State.awaitX_readFail (s : State) (r : TRef) (ns : List Nat) (uid : Nat) : (s.awaitX r ns uid).readFail = s.readFail := rfl
@[simp] theorem State.awaitX_agenda (s : State) (r : TRef) (ns : List Nat) (uid : Nat) : (s.awaitX r ns uid).agenda = s.agenda := rfl
@[simp] theorem State.awaitX_cur (s : State) (r : TRef) (ns : List Nat) (uid : Nat) : (s.awaitX r ns uid).cur = s.cur := rfl
@[simp] theorem State.awaitX_turn (s : State) (r : TRef) (ns : List Nat) (uid : Nat) : (s.awaitX r ns uid).turn = s.turn := rfl
@[simp] theorem State.awaitX_free (s : State) (r : TRef) (ns : List Nat) (uid : Nat) : (s.awaitX r ns uid).free = s.free := rfl
@[simp] theorem State.awaitX_uid (s : State) (r : TRef) (ns : List Nat) (uid : Nat) : (s.awaitX r ns uid).uid = s.uid := rfl

/-! `State.giveX` -/

@[simp] theorem State.giveX_mem (s : State) (r : TRef) (uid : Nat) (w : Word) : (s.giveX r uid w).mem = s.mem := rfl
@[simp] theorem State.giveX_poison (s : State) (r : TRef) (uid : Nat) (w : Word) : (s.giveX r uid w).poison = s.poison := rfl
@[simp] theorem State.giveX_tilePoison (s : State) (r : TRef) (uid : Nat) (w : Word) : (s.giveX r uid w).tilePoison = s.tilePoison := rfl
@[simp] theorem State.giveX_errors (s : State) (r : TRef) (uid : Nat) (w : Word) : (s.giveX r uid w).errors = s.errors := rfl
@[simp] theorem State.giveX_retained (s : State) (r : TRef) (uid : Nat) (w : Word) : (s.giveX r uid w).retained = s.retained := rfl
@[simp] theorem State.giveX_queue (s : State) (r : TRef) (uid : Nat) (w : Word) : (s.giveX r uid w).queue = s.queue := rfl
@[simp] theorem State.giveX_l1 (s : State) (r : TRef) (uid : Nat) (w : Word) : (s.giveX r uid w).l1 = s.l1 := rfl
@[simp] theorem State.giveX_l2 (s : State) (r : TRef) (uid : Nat) (w : Word) : (s.giveX r uid w).l2 = s.l2 := rfl
@[simp] theorem State.giveX_icache (s : State) (r : TRef) (uid : Nat) (w : Word) : (s.giveX r uid w).icache = s.icache := rfl
@[simp] theorem State.giveX_tlb (s : State) (r : TRef) (uid : Nat) (w : Word) : (s.giveX r uid w).tlb = s.tlb := rfl
@[simp] theorem State.giveX_clocks (s : State) (r : TRef) (uid : Nat) (w : Word) : (s.giveX r uid w).clocks = s.clocks := rfl
@[simp] theorem State.giveX_launches (s : State) (r : TRef) (uid : Nat) (w : Word) : (s.giveX r uid w).launches = s.launches := rfl
@[simp] theorem State.giveX_nextSeq (s : State) (r : TRef) (uid : Nat) (w : Word) : (s.giveX r uid w).nextSeq = s.nextSeq := rfl
@[simp] theorem State.giveX_lastTake (s : State) (r : TRef) (uid : Nat) (w : Word) : (s.giveX r uid w).lastTake = s.lastTake := rfl
@[simp] theorem State.giveX_herd (s : State) (r : TRef) (uid : Nat) (w : Word) : (s.giveX r uid w).herd = s.herd := rfl
@[simp] theorem State.giveX_fu (s : State) (r : TRef) (uid : Nat) (w : Word) : (s.giveX r uid w).fu = s.fu := rfl
@[simp] theorem State.giveX_copies (s : State) (r : TRef) (uid : Nat) (w : Word) : (s.giveX r uid w).copies = s.copies := rfl
@[simp] theorem State.giveX_tiles (s : State) (r : TRef) (uid : Nat) (w : Word) : (s.giveX r uid w).tiles = s.tiles := rfl
@[simp] theorem State.giveX_smpls (s : State) (r : TRef) (uid : Nat) (w : Word) : (s.giveX r uid w).smpls = s.smpls := rfl
@[simp] theorem State.giveX_attns (s : State) (r : TRef) (uid : Nat) (w : Word) : (s.giveX r uid w).attns = s.attns := rfl
@[simp] theorem State.giveX_appends (s : State) (r : TRef) (uid : Nat) (w : Word) : (s.giveX r uid w).appends = s.appends := rfl
@[simp] theorem State.giveX_seqs (s : State) (r : TRef) (uid : Nat) (w : Word) : (s.giveX r uid w).seqs = s.seqs := rfl
@[simp] theorem State.giveX_hst (s : State) (r : TRef) (uid : Nat) (w : Word) : (s.giveX r uid w).hst = s.hst := rfl
@[simp] theorem State.giveX_boot (s : State) (r : TRef) (uid : Nat) (w : Word) : (s.giveX r uid w).boot = s.boot := rfl
@[simp] theorem State.giveX_cols (s : State) (r : TRef) (uid : Nat) (w : Word) : (s.giveX r uid w).cols = s.cols := rfl
@[simp] theorem State.giveX_outbound (s : State) (r : TRef) (uid : Nat) (w : Word) : (s.giveX r uid w).outbound = s.outbound := rfl
@[simp] theorem State.giveX_answers (s : State) (r : TRef) (uid : Nat) (w : Word) : (s.giveX r uid w).answers = s.answers := rfl
@[simp] theorem State.giveX_drainLimit (s : State) (r : TRef) (uid : Nat) (w : Word) : (s.giveX r uid w).drainLimit = s.drainLimit := rfl
@[simp] theorem State.giveX_planeReads (s : State) (r : TRef) (uid : Nat) (w : Word) : (s.giveX r uid w).planeReads = s.planeReads := rfl
@[simp] theorem State.giveX_readFail (s : State) (r : TRef) (uid : Nat) (w : Word) : (s.giveX r uid w).readFail = s.readFail := rfl
@[simp] theorem State.giveX_agenda (s : State) (r : TRef) (uid : Nat) (w : Word) : (s.giveX r uid w).agenda = s.agenda := rfl
@[simp] theorem State.giveX_cur (s : State) (r : TRef) (uid : Nat) (w : Word) : (s.giveX r uid w).cur = s.cur := rfl
@[simp] theorem State.giveX_turn (s : State) (r : TRef) (uid : Nat) (w : Word) : (s.giveX r uid w).turn = s.turn := rfl
@[simp] theorem State.giveX_free (s : State) (r : TRef) (uid : Nat) (w : Word) : (s.giveX r uid w).free = s.free := rfl
@[simp] theorem State.giveX_uid (s : State) (r : TRef) (uid : Nat) (w : Word) : (s.giveX r uid w).uid = s.uid := rfl

/-! `State.dropX` -/

@[simp] theorem State.dropX_mem (s : State) (r : TRef) (uid : Nat) : (s.dropX r uid).mem = s.mem := rfl
@[simp] theorem State.dropX_poison (s : State) (r : TRef) (uid : Nat) : (s.dropX r uid).poison = s.poison := rfl
@[simp] theorem State.dropX_tilePoison (s : State) (r : TRef) (uid : Nat) : (s.dropX r uid).tilePoison = s.tilePoison := rfl
@[simp] theorem State.dropX_errors (s : State) (r : TRef) (uid : Nat) : (s.dropX r uid).errors = s.errors := rfl
@[simp] theorem State.dropX_retained (s : State) (r : TRef) (uid : Nat) : (s.dropX r uid).retained = s.retained := rfl
@[simp] theorem State.dropX_queue (s : State) (r : TRef) (uid : Nat) : (s.dropX r uid).queue = s.queue := rfl
@[simp] theorem State.dropX_l1 (s : State) (r : TRef) (uid : Nat) : (s.dropX r uid).l1 = s.l1 := rfl
@[simp] theorem State.dropX_l2 (s : State) (r : TRef) (uid : Nat) : (s.dropX r uid).l2 = s.l2 := rfl
@[simp] theorem State.dropX_icache (s : State) (r : TRef) (uid : Nat) : (s.dropX r uid).icache = s.icache := rfl
@[simp] theorem State.dropX_tlb (s : State) (r : TRef) (uid : Nat) : (s.dropX r uid).tlb = s.tlb := rfl
@[simp] theorem State.dropX_clocks (s : State) (r : TRef) (uid : Nat) : (s.dropX r uid).clocks = s.clocks := rfl
@[simp] theorem State.dropX_launches (s : State) (r : TRef) (uid : Nat) : (s.dropX r uid).launches = s.launches := rfl
@[simp] theorem State.dropX_nextSeq (s : State) (r : TRef) (uid : Nat) : (s.dropX r uid).nextSeq = s.nextSeq := rfl
@[simp] theorem State.dropX_lastTake (s : State) (r : TRef) (uid : Nat) : (s.dropX r uid).lastTake = s.lastTake := rfl
@[simp] theorem State.dropX_herd (s : State) (r : TRef) (uid : Nat) : (s.dropX r uid).herd = s.herd := rfl
@[simp] theorem State.dropX_fu (s : State) (r : TRef) (uid : Nat) : (s.dropX r uid).fu = s.fu := rfl
@[simp] theorem State.dropX_copies (s : State) (r : TRef) (uid : Nat) : (s.dropX r uid).copies = s.copies := rfl
@[simp] theorem State.dropX_tiles (s : State) (r : TRef) (uid : Nat) : (s.dropX r uid).tiles = s.tiles := rfl
@[simp] theorem State.dropX_smpls (s : State) (r : TRef) (uid : Nat) : (s.dropX r uid).smpls = s.smpls := rfl
@[simp] theorem State.dropX_attns (s : State) (r : TRef) (uid : Nat) : (s.dropX r uid).attns = s.attns := rfl
@[simp] theorem State.dropX_appends (s : State) (r : TRef) (uid : Nat) : (s.dropX r uid).appends = s.appends := rfl
@[simp] theorem State.dropX_seqs (s : State) (r : TRef) (uid : Nat) : (s.dropX r uid).seqs = s.seqs := rfl
@[simp] theorem State.dropX_hst (s : State) (r : TRef) (uid : Nat) : (s.dropX r uid).hst = s.hst := rfl
@[simp] theorem State.dropX_boot (s : State) (r : TRef) (uid : Nat) : (s.dropX r uid).boot = s.boot := rfl
@[simp] theorem State.dropX_cols (s : State) (r : TRef) (uid : Nat) : (s.dropX r uid).cols = s.cols := rfl
@[simp] theorem State.dropX_outbound (s : State) (r : TRef) (uid : Nat) : (s.dropX r uid).outbound = s.outbound := rfl
@[simp] theorem State.dropX_answers (s : State) (r : TRef) (uid : Nat) : (s.dropX r uid).answers = s.answers := rfl
@[simp] theorem State.dropX_drainLimit (s : State) (r : TRef) (uid : Nat) : (s.dropX r uid).drainLimit = s.drainLimit := rfl
@[simp] theorem State.dropX_planeReads (s : State) (r : TRef) (uid : Nat) : (s.dropX r uid).planeReads = s.planeReads := rfl
@[simp] theorem State.dropX_readFail (s : State) (r : TRef) (uid : Nat) : (s.dropX r uid).readFail = s.readFail := rfl
@[simp] theorem State.dropX_agenda (s : State) (r : TRef) (uid : Nat) : (s.dropX r uid).agenda = s.agenda := rfl
@[simp] theorem State.dropX_cur (s : State) (r : TRef) (uid : Nat) : (s.dropX r uid).cur = s.cur := rfl
@[simp] theorem State.dropX_turn (s : State) (r : TRef) (uid : Nat) : (s.dropX r uid).turn = s.turn := rfl
@[simp] theorem State.dropX_free (s : State) (r : TRef) (uid : Nat) : (s.dropX r uid).free = s.free := rfl
@[simp] theorem State.dropX_uid (s : State) (r : TRef) (uid : Nat) : (s.dropX r uid).uid = s.uid := rfl

/-! `State.wake` -/

@[simp] theorem State.wake_mem (s : State) (locs : List Nat) : (s.wake locs).mem = s.mem := by
  unfold State.wake; split <;> rfl
@[simp] theorem State.wake_poison (s : State) (locs : List Nat) : (s.wake locs).poison = s.poison := by
  unfold State.wake; split <;> rfl
@[simp] theorem State.wake_tilePoison (s : State) (locs : List Nat) : (s.wake locs).tilePoison = s.tilePoison := by
  unfold State.wake; split <;> rfl
@[simp] theorem State.wake_errors (s : State) (locs : List Nat) : (s.wake locs).errors = s.errors := by
  unfold State.wake; split <;> rfl
@[simp] theorem State.wake_teams (s : State) (locs : List Nat) : (s.wake locs).teams = s.teams := by
  unfold State.wake; split <;> rfl
@[simp] theorem State.wake_queue (s : State) (locs : List Nat) : (s.wake locs).queue = s.queue := by
  unfold State.wake; split <;> rfl
@[simp] theorem State.wake_l1 (s : State) (locs : List Nat) : (s.wake locs).l1 = s.l1 := by
  unfold State.wake; split <;> rfl
@[simp] theorem State.wake_l2 (s : State) (locs : List Nat) : (s.wake locs).l2 = s.l2 := by
  unfold State.wake; split <;> rfl
@[simp] theorem State.wake_icache (s : State) (locs : List Nat) : (s.wake locs).icache = s.icache := by
  unfold State.wake; split <;> rfl
@[simp] theorem State.wake_tlb (s : State) (locs : List Nat) : (s.wake locs).tlb = s.tlb := by
  unfold State.wake; split <;> rfl
@[simp] theorem State.wake_clocks (s : State) (locs : List Nat) : (s.wake locs).clocks = s.clocks := by
  unfold State.wake; split <;> rfl
@[simp] theorem State.wake_launches (s : State) (locs : List Nat) : (s.wake locs).launches = s.launches := by
  unfold State.wake; split <;> rfl
@[simp] theorem State.wake_nextSeq (s : State) (locs : List Nat) : (s.wake locs).nextSeq = s.nextSeq := by
  unfold State.wake; split <;> rfl
@[simp] theorem State.wake_lastTake (s : State) (locs : List Nat) : (s.wake locs).lastTake = s.lastTake := by
  unfold State.wake; split <;> rfl
@[simp] theorem State.wake_herd (s : State) (locs : List Nat) : (s.wake locs).herd = s.herd := by
  unfold State.wake; split <;> rfl
@[simp] theorem State.wake_fu (s : State) (locs : List Nat) : (s.wake locs).fu = s.fu := by
  unfold State.wake; split <;> rfl
@[simp] theorem State.wake_copies (s : State) (locs : List Nat) : (s.wake locs).copies = s.copies := by
  unfold State.wake; split <;> rfl
@[simp] theorem State.wake_tiles (s : State) (locs : List Nat) : (s.wake locs).tiles = s.tiles := by
  unfold State.wake; split <;> rfl
@[simp] theorem State.wake_smpls (s : State) (locs : List Nat) : (s.wake locs).smpls = s.smpls := by
  unfold State.wake; split <;> rfl
@[simp] theorem State.wake_attns (s : State) (locs : List Nat) : (s.wake locs).attns = s.attns := by
  unfold State.wake; split <;> rfl
@[simp] theorem State.wake_appends (s : State) (locs : List Nat) : (s.wake locs).appends = s.appends := by
  unfold State.wake; split <;> rfl
@[simp] theorem State.wake_seqs (s : State) (locs : List Nat) : (s.wake locs).seqs = s.seqs := by
  unfold State.wake; split <;> rfl
@[simp] theorem State.wake_hst (s : State) (locs : List Nat) : (s.wake locs).hst = s.hst := by
  unfold State.wake; split <;> rfl
@[simp] theorem State.wake_boot (s : State) (locs : List Nat) : (s.wake locs).boot = s.boot := by
  unfold State.wake; split <;> rfl
@[simp] theorem State.wake_cols (s : State) (locs : List Nat) : (s.wake locs).cols = s.cols := by
  unfold State.wake; split <;> rfl
@[simp] theorem State.wake_outbound (s : State) (locs : List Nat) : (s.wake locs).outbound = s.outbound := by
  unfold State.wake; split <;> rfl
@[simp] theorem State.wake_answers (s : State) (locs : List Nat) : (s.wake locs).answers = s.answers := by
  unfold State.wake; split <;> rfl
@[simp] theorem State.wake_drainLimit (s : State) (locs : List Nat) : (s.wake locs).drainLimit = s.drainLimit := by
  unfold State.wake; split <;> rfl
@[simp] theorem State.wake_planeReads (s : State) (locs : List Nat) : (s.wake locs).planeReads = s.planeReads := by
  unfold State.wake; split <;> rfl
@[simp] theorem State.wake_readFail (s : State) (locs : List Nat) : (s.wake locs).readFail = s.readFail := by
  unfold State.wake; split <;> rfl
@[simp] theorem State.wake_agenda (s : State) (locs : List Nat) : (s.wake locs).agenda = s.agenda := by
  unfold State.wake; split <;> rfl
@[simp] theorem State.wake_cur (s : State) (locs : List Nat) : (s.wake locs).cur = s.cur := by
  unfold State.wake; split <;> rfl
@[simp] theorem State.wake_turn (s : State) (locs : List Nat) : (s.wake locs).turn = s.turn := by
  unfold State.wake; split <;> rfl
@[simp] theorem State.wake_free (s : State) (locs : List Nat) : (s.wake locs).free = s.free := by
  unfold State.wake; split <;> rfl
@[simp] theorem State.wake_uid (s : State) (locs : List Nat) : (s.wake locs).uid = s.uid := by
  unfold State.wake; split <;> rfl

/-! `State.wakeBanks` -/

@[simp] theorem State.wakeBanks_mem (s : State) (core : Nat) (vs : List Nat) : (s.wakeBanks core vs).mem = s.mem := by
  unfold State.wakeBanks; split <;> rfl
@[simp] theorem State.wakeBanks_poison (s : State) (core : Nat) (vs : List Nat) : (s.wakeBanks core vs).poison = s.poison := by
  unfold State.wakeBanks; split <;> rfl
@[simp] theorem State.wakeBanks_tilePoison (s : State) (core : Nat) (vs : List Nat) : (s.wakeBanks core vs).tilePoison = s.tilePoison := by
  unfold State.wakeBanks; split <;> rfl
@[simp] theorem State.wakeBanks_errors (s : State) (core : Nat) (vs : List Nat) : (s.wakeBanks core vs).errors = s.errors := by
  unfold State.wakeBanks; split <;> rfl
@[simp] theorem State.wakeBanks_teams (s : State) (core : Nat) (vs : List Nat) : (s.wakeBanks core vs).teams = s.teams := by
  unfold State.wakeBanks; split <;> rfl
@[simp] theorem State.wakeBanks_queue (s : State) (core : Nat) (vs : List Nat) : (s.wakeBanks core vs).queue = s.queue := by
  unfold State.wakeBanks; split <;> rfl
@[simp] theorem State.wakeBanks_l1 (s : State) (core : Nat) (vs : List Nat) : (s.wakeBanks core vs).l1 = s.l1 := by
  unfold State.wakeBanks; split <;> rfl
@[simp] theorem State.wakeBanks_l2 (s : State) (core : Nat) (vs : List Nat) : (s.wakeBanks core vs).l2 = s.l2 := by
  unfold State.wakeBanks; split <;> rfl
@[simp] theorem State.wakeBanks_icache (s : State) (core : Nat) (vs : List Nat) : (s.wakeBanks core vs).icache = s.icache := by
  unfold State.wakeBanks; split <;> rfl
@[simp] theorem State.wakeBanks_tlb (s : State) (core : Nat) (vs : List Nat) : (s.wakeBanks core vs).tlb = s.tlb := by
  unfold State.wakeBanks; split <;> rfl
@[simp] theorem State.wakeBanks_clocks (s : State) (core : Nat) (vs : List Nat) : (s.wakeBanks core vs).clocks = s.clocks := by
  unfold State.wakeBanks; split <;> rfl
@[simp] theorem State.wakeBanks_launches (s : State) (core : Nat) (vs : List Nat) : (s.wakeBanks core vs).launches = s.launches := by
  unfold State.wakeBanks; split <;> rfl
@[simp] theorem State.wakeBanks_nextSeq (s : State) (core : Nat) (vs : List Nat) : (s.wakeBanks core vs).nextSeq = s.nextSeq := by
  unfold State.wakeBanks; split <;> rfl
@[simp] theorem State.wakeBanks_lastTake (s : State) (core : Nat) (vs : List Nat) : (s.wakeBanks core vs).lastTake = s.lastTake := by
  unfold State.wakeBanks; split <;> rfl
@[simp] theorem State.wakeBanks_herd (s : State) (core : Nat) (vs : List Nat) : (s.wakeBanks core vs).herd = s.herd := by
  unfold State.wakeBanks; split <;> rfl
@[simp] theorem State.wakeBanks_fu (s : State) (core : Nat) (vs : List Nat) : (s.wakeBanks core vs).fu = s.fu := by
  unfold State.wakeBanks; split <;> rfl
@[simp] theorem State.wakeBanks_copies (s : State) (core : Nat) (vs : List Nat) : (s.wakeBanks core vs).copies = s.copies := by
  unfold State.wakeBanks; split <;> rfl
@[simp] theorem State.wakeBanks_tiles (s : State) (core : Nat) (vs : List Nat) : (s.wakeBanks core vs).tiles = s.tiles := by
  unfold State.wakeBanks; split <;> rfl
@[simp] theorem State.wakeBanks_smpls (s : State) (core : Nat) (vs : List Nat) : (s.wakeBanks core vs).smpls = s.smpls := by
  unfold State.wakeBanks; split <;> rfl
@[simp] theorem State.wakeBanks_attns (s : State) (core : Nat) (vs : List Nat) : (s.wakeBanks core vs).attns = s.attns := by
  unfold State.wakeBanks; split <;> rfl
@[simp] theorem State.wakeBanks_appends (s : State) (core : Nat) (vs : List Nat) : (s.wakeBanks core vs).appends = s.appends := by
  unfold State.wakeBanks; split <;> rfl
@[simp] theorem State.wakeBanks_seqs (s : State) (core : Nat) (vs : List Nat) : (s.wakeBanks core vs).seqs = s.seqs := by
  unfold State.wakeBanks; split <;> rfl
@[simp] theorem State.wakeBanks_hst (s : State) (core : Nat) (vs : List Nat) : (s.wakeBanks core vs).hst = s.hst := by
  unfold State.wakeBanks; split <;> rfl
@[simp] theorem State.wakeBanks_boot (s : State) (core : Nat) (vs : List Nat) : (s.wakeBanks core vs).boot = s.boot := by
  unfold State.wakeBanks; split <;> rfl
@[simp] theorem State.wakeBanks_cols (s : State) (core : Nat) (vs : List Nat) : (s.wakeBanks core vs).cols = s.cols := by
  unfold State.wakeBanks; split <;> rfl
@[simp] theorem State.wakeBanks_outbound (s : State) (core : Nat) (vs : List Nat) : (s.wakeBanks core vs).outbound = s.outbound := by
  unfold State.wakeBanks; split <;> rfl
@[simp] theorem State.wakeBanks_answers (s : State) (core : Nat) (vs : List Nat) : (s.wakeBanks core vs).answers = s.answers := by
  unfold State.wakeBanks; split <;> rfl
@[simp] theorem State.wakeBanks_drainLimit (s : State) (core : Nat) (vs : List Nat) : (s.wakeBanks core vs).drainLimit = s.drainLimit := by
  unfold State.wakeBanks; split <;> rfl
@[simp] theorem State.wakeBanks_planeReads (s : State) (core : Nat) (vs : List Nat) : (s.wakeBanks core vs).planeReads = s.planeReads := by
  unfold State.wakeBanks; split <;> rfl
@[simp] theorem State.wakeBanks_readFail (s : State) (core : Nat) (vs : List Nat) : (s.wakeBanks core vs).readFail = s.readFail := by
  unfold State.wakeBanks; split <;> rfl
@[simp] theorem State.wakeBanks_agenda (s : State) (core : Nat) (vs : List Nat) : (s.wakeBanks core vs).agenda = s.agenda := by
  unfold State.wakeBanks; split <;> rfl
@[simp] theorem State.wakeBanks_cur (s : State) (core : Nat) (vs : List Nat) : (s.wakeBanks core vs).cur = s.cur := by
  unfold State.wakeBanks; split <;> rfl
@[simp] theorem State.wakeBanks_turn (s : State) (core : Nat) (vs : List Nat) : (s.wakeBanks core vs).turn = s.turn := by
  unfold State.wakeBanks; split <;> rfl
@[simp] theorem State.wakeBanks_free (s : State) (core : Nat) (vs : List Nat) : (s.wakeBanks core vs).free = s.free := by
  unfold State.wakeBanks; split <;> rfl
@[simp] theorem State.wakeBanks_uid (s : State) (core : Nat) (vs : List Nat) : (s.wakeBanks core vs).uid = s.uid := by
  unfold State.wakeBanks; split <;> rfl

/-! `State.readL2` -/

@[simp] theorem State.readL2_mem (s : State) (plane : Nat) (locs : List Nat) : (s.readL2 plane locs).mem = s.mem := rfl
@[simp] theorem State.readL2_poison (s : State) (plane : Nat) (locs : List Nat) : (s.readL2 plane locs).poison = s.poison := rfl
@[simp] theorem State.readL2_tilePoison (s : State) (plane : Nat) (locs : List Nat) : (s.readL2 plane locs).tilePoison = s.tilePoison := rfl
@[simp] theorem State.readL2_errors (s : State) (plane : Nat) (locs : List Nat) : (s.readL2 plane locs).errors = s.errors := rfl
@[simp] theorem State.readL2_retained (s : State) (plane : Nat) (locs : List Nat) : (s.readL2 plane locs).retained = s.retained := rfl
@[simp] theorem State.readL2_teams (s : State) (plane : Nat) (locs : List Nat) : (s.readL2 plane locs).teams = s.teams := rfl
@[simp] theorem State.readL2_queue (s : State) (plane : Nat) (locs : List Nat) : (s.readL2 plane locs).queue = s.queue := rfl
@[simp] theorem State.readL2_l1 (s : State) (plane : Nat) (locs : List Nat) : (s.readL2 plane locs).l1 = s.l1 := rfl
@[simp] theorem State.readL2_icache (s : State) (plane : Nat) (locs : List Nat) : (s.readL2 plane locs).icache = s.icache := rfl
@[simp] theorem State.readL2_tlb (s : State) (plane : Nat) (locs : List Nat) : (s.readL2 plane locs).tlb = s.tlb := rfl
@[simp] theorem State.readL2_clocks (s : State) (plane : Nat) (locs : List Nat) : (s.readL2 plane locs).clocks = s.clocks := rfl
@[simp] theorem State.readL2_launches (s : State) (plane : Nat) (locs : List Nat) : (s.readL2 plane locs).launches = s.launches := rfl
@[simp] theorem State.readL2_nextSeq (s : State) (plane : Nat) (locs : List Nat) : (s.readL2 plane locs).nextSeq = s.nextSeq := rfl
@[simp] theorem State.readL2_lastTake (s : State) (plane : Nat) (locs : List Nat) : (s.readL2 plane locs).lastTake = s.lastTake := rfl
@[simp] theorem State.readL2_herd (s : State) (plane : Nat) (locs : List Nat) : (s.readL2 plane locs).herd = s.herd := rfl
@[simp] theorem State.readL2_fu (s : State) (plane : Nat) (locs : List Nat) : (s.readL2 plane locs).fu = s.fu := rfl
@[simp] theorem State.readL2_copies (s : State) (plane : Nat) (locs : List Nat) : (s.readL2 plane locs).copies = s.copies := rfl
@[simp] theorem State.readL2_tiles (s : State) (plane : Nat) (locs : List Nat) : (s.readL2 plane locs).tiles = s.tiles := rfl
@[simp] theorem State.readL2_smpls (s : State) (plane : Nat) (locs : List Nat) : (s.readL2 plane locs).smpls = s.smpls := rfl
@[simp] theorem State.readL2_attns (s : State) (plane : Nat) (locs : List Nat) : (s.readL2 plane locs).attns = s.attns := rfl
@[simp] theorem State.readL2_appends (s : State) (plane : Nat) (locs : List Nat) : (s.readL2 plane locs).appends = s.appends := rfl
@[simp] theorem State.readL2_seqs (s : State) (plane : Nat) (locs : List Nat) : (s.readL2 plane locs).seqs = s.seqs := rfl
@[simp] theorem State.readL2_hst (s : State) (plane : Nat) (locs : List Nat) : (s.readL2 plane locs).hst = s.hst := rfl
@[simp] theorem State.readL2_boot (s : State) (plane : Nat) (locs : List Nat) : (s.readL2 plane locs).boot = s.boot := rfl
@[simp] theorem State.readL2_cols (s : State) (plane : Nat) (locs : List Nat) : (s.readL2 plane locs).cols = s.cols := rfl
@[simp] theorem State.readL2_outbound (s : State) (plane : Nat) (locs : List Nat) :
    (s.readL2 plane locs).outbound = s.outbound ++ outReads locs := rfl
@[simp] theorem State.readL2_answers (s : State) (plane : Nat) (locs : List Nat) : (s.readL2 plane locs).answers = s.answers := rfl
@[simp] theorem State.readL2_drainLimit (s : State) (plane : Nat) (locs : List Nat) : (s.readL2 plane locs).drainLimit = s.drainLimit := rfl
@[simp] theorem State.readL2_planeReads (s : State) (plane : Nat) (locs : List Nat) : (s.readL2 plane locs).planeReads = s.planeReads := rfl
@[simp] theorem State.readL2_readFail (s : State) (plane : Nat) (locs : List Nat) : (s.readL2 plane locs).readFail = s.readFail := rfl
@[simp] theorem State.readL2_agenda (s : State) (plane : Nat) (locs : List Nat) : (s.readL2 plane locs).agenda = s.agenda := rfl
@[simp] theorem State.readL2_cur (s : State) (plane : Nat) (locs : List Nat) : (s.readL2 plane locs).cur = s.cur := rfl
@[simp] theorem State.readL2_turn (s : State) (plane : Nat) (locs : List Nat) : (s.readL2 plane locs).turn = s.turn := rfl
@[simp] theorem State.readL2_free (s : State) (plane : Nat) (locs : List Nat) : (s.readL2 plane locs).free = s.free := rfl
@[simp] theorem State.readL2_uid (s : State) (plane : Nat) (locs : List Nat) : (s.readL2 plane locs).uid = s.uid := rfl

/-! `State.noteReads` -/

@[simp] theorem State.noteReads_mem (s : State) (l : List (Nat × W32 × Tag)) : (s.noteReads l).mem = s.mem := rfl
@[simp] theorem State.noteReads_poison (s : State) (l : List (Nat × W32 × Tag)) : (s.noteReads l).poison = s.poison := rfl
@[simp] theorem State.noteReads_tilePoison (s : State) (l : List (Nat × W32 × Tag)) : (s.noteReads l).tilePoison = s.tilePoison := rfl
@[simp] theorem State.noteReads_errors (s : State) (l : List (Nat × W32 × Tag)) : (s.noteReads l).errors = s.errors := rfl
@[simp] theorem State.noteReads_retained (s : State) (l : List (Nat × W32 × Tag)) : (s.noteReads l).retained = s.retained := rfl
@[simp] theorem State.noteReads_teams (s : State) (l : List (Nat × W32 × Tag)) : (s.noteReads l).teams = s.teams := rfl
@[simp] theorem State.noteReads_queue (s : State) (l : List (Nat × W32 × Tag)) : (s.noteReads l).queue = s.queue := rfl
@[simp] theorem State.noteReads_l1 (s : State) (l : List (Nat × W32 × Tag)) : (s.noteReads l).l1 = s.l1 := rfl
@[simp] theorem State.noteReads_l2 (s : State) (l : List (Nat × W32 × Tag)) : (s.noteReads l).l2 = s.l2 := rfl
@[simp] theorem State.noteReads_icache (s : State) (l : List (Nat × W32 × Tag)) : (s.noteReads l).icache = s.icache := rfl
@[simp] theorem State.noteReads_tlb (s : State) (l : List (Nat × W32 × Tag)) : (s.noteReads l).tlb = s.tlb := rfl
@[simp] theorem State.noteReads_clocks (s : State) (l : List (Nat × W32 × Tag)) : (s.noteReads l).clocks = s.clocks := rfl
@[simp] theorem State.noteReads_launches (s : State) (l : List (Nat × W32 × Tag)) : (s.noteReads l).launches = s.launches := rfl
@[simp] theorem State.noteReads_nextSeq (s : State) (l : List (Nat × W32 × Tag)) : (s.noteReads l).nextSeq = s.nextSeq := rfl
@[simp] theorem State.noteReads_lastTake (s : State) (l : List (Nat × W32 × Tag)) : (s.noteReads l).lastTake = s.lastTake := rfl
@[simp] theorem State.noteReads_herd (s : State) (l : List (Nat × W32 × Tag)) : (s.noteReads l).herd = s.herd := rfl
@[simp] theorem State.noteReads_fu (s : State) (l : List (Nat × W32 × Tag)) : (s.noteReads l).fu = s.fu := rfl
@[simp] theorem State.noteReads_copies (s : State) (l : List (Nat × W32 × Tag)) : (s.noteReads l).copies = s.copies := rfl
@[simp] theorem State.noteReads_tiles (s : State) (l : List (Nat × W32 × Tag)) : (s.noteReads l).tiles = s.tiles := rfl
@[simp] theorem State.noteReads_smpls (s : State) (l : List (Nat × W32 × Tag)) : (s.noteReads l).smpls = s.smpls := rfl
@[simp] theorem State.noteReads_attns (s : State) (l : List (Nat × W32 × Tag)) : (s.noteReads l).attns = s.attns := rfl
@[simp] theorem State.noteReads_appends (s : State) (l : List (Nat × W32 × Tag)) : (s.noteReads l).appends = s.appends := rfl
@[simp] theorem State.noteReads_seqs (s : State) (l : List (Nat × W32 × Tag)) : (s.noteReads l).seqs = s.seqs := rfl
@[simp] theorem State.noteReads_hst (s : State) (l : List (Nat × W32 × Tag)) : (s.noteReads l).hst = s.hst := rfl
@[simp] theorem State.noteReads_boot (s : State) (l : List (Nat × W32 × Tag)) : (s.noteReads l).boot = s.boot := rfl
@[simp] theorem State.noteReads_cols (s : State) (l : List (Nat × W32 × Tag)) : (s.noteReads l).cols = s.cols := rfl
@[simp] theorem State.noteReads_outbound (s : State) (l : List (Nat × W32 × Tag)) : (s.noteReads l).outbound = s.outbound := rfl
@[simp] theorem State.noteReads_answers (s : State) (l : List (Nat × W32 × Tag)) : (s.noteReads l).answers = s.answers := rfl
@[simp] theorem State.noteReads_drainLimit (s : State) (l : List (Nat × W32 × Tag)) : (s.noteReads l).drainLimit = s.drainLimit := rfl
@[simp] theorem State.noteReads_readFail (s : State) (l : List (Nat × W32 × Tag)) : (s.noteReads l).readFail = s.readFail := rfl
@[simp] theorem State.noteReads_agenda (s : State) (l : List (Nat × W32 × Tag)) : (s.noteReads l).agenda = s.agenda := rfl
@[simp] theorem State.noteReads_cur (s : State) (l : List (Nat × W32 × Tag)) : (s.noteReads l).cur = s.cur := rfl
@[simp] theorem State.noteReads_turn (s : State) (l : List (Nat × W32 × Tag)) : (s.noteReads l).turn = s.turn := rfl
@[simp] theorem State.noteReads_free (s : State) (l : List (Nat × W32 × Tag)) : (s.noteReads l).free = s.free := rfl
@[simp] theorem State.noteReads_uid (s : State) (l : List (Nat × W32 × Tag)) : (s.noteReads l).uid = s.uid := rfl

end Sys2Proof.Machine
end

