-- ==== Sys2Proof/Laws/Word.lean ====
section
/-! SUPPORT. The execution cycle of a word, said once (01 R20-R23): what `runChecked`, `runWord`, `runFull` and `runPair`
give when the word stands at its guard or at its effect, and every way in which they can end. -/

namespace Sys2Proof.Machine

variable {s t : State} {c : Cx} {g : Guard} {f : Fields} {op fn x : Nat} {ext skipV : Bool} {body : Cx → Eff}

/-- A word whose registers hold no error ends as its body says. -/
@[simp] theorem Eff.unless_none (e : Eff) : e.unless none = e := rfl

/-- At its guard a word is its body. -/
theorem runChecked_atGuard (h : AtGuard op fn x ext skipV g f s c) :
    runChecked op fn x ext skipV g f s body = finish s c ext (body c) := by
  have h1 := h.arrived
  simp only [runChecked, h.view, h.issues, h.awake, h.legal, h1]
  rfl

/-- Under a false guard a word only passes (02 R27). -/
theorem runWord_falseGuard (h : AtGuard op fn x ext skipV g f s c) (hg : c.guard g = false) :
    runWord op fn x ext skipV g f s body = finish s c ext (.next s) := by
  simp [runWord, runChecked_atGuard h, hg]

/-- At its effect a word is its body. -/
theorem runWord_atEffect (h : AtEffect op fn x ext skipV g f s c) :
    runWord op fn x ext skipV g f s body = finish s c ext (body c) := by
  have hf := h.free
  cases hw : gatedWord op fn f with
  | false => simp [runWord, runChecked_atGuard h.toAtGuard, h.guard, hw, h.sound]
  | true => simp [runWord, runChecked_atGuard h.toAtGuard, h.guard, (hf hw).1, (hf hw).2, h.sound]

theorem runFull_acts (h : Acts op fn g f s c) : runFull op fn g f s body = finish s c false (body c) :=
  runWord_atEffect h

/-- A full word whose body completes. -/
theorem runFull_completes (h : Acts op fn g f s c) (hb : body c = .next t) :
    runFull op fn g f s body = c.completes t := by
  simp [runFull_acts h, hb, finish, Cx.completes, Cx.past]

theorem runWord_completes (h : AtEffect op fn x ext skipV g f s c) (hb : body c = .next t) :
    runWord op fn x ext skipV g f s body = c.completes t ext := by
  simp [runWord_atEffect h, hb, finish, Cx.completes, Cx.past]

/-- A full word whose body takes a transfer. -/
theorem runFull_jumps {pc : Word} (h : Acts op fn g f s c) (hb : body c = .jump t pc) :
    runFull op fn g f s body = .next (t.setPc c.r pc) := by
  simp [runFull_acts h, hb, finish]

/-- A full word whose body stays at its PC. -/
theorem runFull_stays (h : Acts op fn g f s c) (hb : body c = .here t) : runFull op fn g f s body = .next t := by
  simp [runFull_acts h, hb, finish]

/-- A full word whose body traps: it waits for the thread's earlier register effects (01 R23). -/
theorem runFull_traps {tr : Trap} (h : Acts op fn g f s c) (hb : body c = .trap tr) :
    runFull op fn g f s body = .next (s.trapIn s c tr) := by
  simp [runFull_acts h, hb, finish]

theorem runPair_acts {s0 s1 : Slot} (h : PairActs s0 s1 s c) : runPair s0 s1 s body = finish s c false (body c) := by
  simp [runPair, h.view, h.issues, h.awake, h.legal, h.arrived, h.sound]

/-- A trap of a thread whose earlier instructions have completed is taken. -/
theorem trapIn_quiet {u : State} {tr : Trap} (h : c.th.quiet = true) : s.trapIn u c tr = u.takeTrap c tr := if_pos h

/-- A trap of a thread that awaits results of earlier instructions waits. -/
theorem trapIn_waits {u : State} {tr : Trap} (h : c.th.quiet = false) : s.trapIn u c tr = s := by simp [State.trapIn, h]

/-- What `finish` can give for a body: every way in which a word can end but a fault. -/
theorem finish_next_cases {e : Eff} {u : State} (h : finish s c ext e = .next u) :
    (∃ t, e = .next t ∧ u = c.past t ext) ∨ (∃ t pc, e = .jump t pc ∧ u = t.setPc c.r pc) ∨ e = .here u ∨
    (e = .wait ∧ u = s) ∨ (∃ tr, e = .trap tr ∧ u = s.trapIn s c tr) ∨ ∃ v tr, e = .trapAt v tr ∧ u = s.trapIn v c tr := by
  cases e with
  | next t => exact .inl ⟨t, rfl, (Host.Outcome.next.inj h).symm⟩
  | jump t pc => exact .inr (.inl ⟨t, pc, rfl, (Host.Outcome.next.inj h).symm⟩)
  | here t => exact .inr (.inr (.inl (by rw [Host.Outcome.next.inj h])))
  | wait => exact .inr (.inr (.inr (.inl ⟨rfl, (Host.Outcome.next.inj h).symm⟩)))
  | trap tr => exact .inr (.inr (.inr (.inr (.inl ⟨tr, rfl, (Host.Outcome.next.inj h).symm⟩))))
  | trapAt v tr => exact .inr (.inr (.inr (.inr (.inr ⟨v, tr, rfl, (Host.Outcome.next.inj h).symm⟩))))
  | fault ft => cases h

end Sys2Proof.Machine
end

