-- ==== Sys2Proof/Laws/Dispatch.lean ====
section
/-! SUPPORT. Every meaning of a full word is a body run by the cycle of that word's opcode and function. -/

namespace Sys2Proof.Machine

/-- The meaning of a full word is a body under `runFull`; HCAN and the cross-thread words have cycles of their own. -/
theorem exec_full {i : Instr} {op fn : Nat} {g : Guard} {f : Fields} (h : parts i = .full op fn g f)
    (hx : op ≠ 0x30) (hc : ¬ (op = 0x28 ∧ fn = 7)) : ∃ body : State → Cx → Eff, ∀ s, exec i s = runFull op fn g f s (body s) := by
  cases i <;> simp only [parts, Parts.full.injEq, reduceCtorEq] at h <;> obtain ⟨rfl, rfl, rfl, rfl⟩ := h <;>
    first
    | exact absurd rfl hx
    | exact absurd ⟨rfl, rfl⟩ hc
    | exact ⟨_, fun _ => rfl⟩

end Sys2Proof.Machine
end

