-- ==== Sys2Proof/Laws/Memory.lean ====
section
/-! SUPPORT. The laws of memory: every memory operation keeps the canonical form, a read after a write gives the byte
written, a write leaves every other location alone, and equal contents in canonical form are equal lists. -/

namespace Sys2Proof.Machine

@[simp] theorem memGet_nil (a : Nat) : memGet [] a = 0 := rfl

theorem memAbove_mono {lo hi : Nat} {m : List Host.Cell} (h : memAbove hi m = true) (hl : lo ≤ hi) :
    memAbove lo m = true := by
  cases m with
  | nil => rfl
  | cons c m =>
    obtain ⟨k, b⟩ := c
    simp only [memAbove, Bool.and_eq_true, decide_eq_true_eq] at h ⊢
    exact ⟨⟨by omega, h.1.2⟩, h.2⟩

/-- Below the bound nothing is listed. -/
theorem memGet_below {m : List Host.Cell} {lo a : Nat} (h : memAbove lo m = true) (ha : a < lo) : memGet m a = 0 := by
  induction m generalizing lo with
  | nil => rfl
  | cons c m ih =>
    obtain ⟨k, b⟩ := c
    simp only [memAbove, Bool.and_eq_true, decide_eq_true_eq] at h
    have hk : k ≠ a := by omega
    simp only [memGet, if_neg hk]
    exact ih h.2 (by omega)

theorem memSet_above {m : List Host.Cell} {lo a : Nat} {b : Byte} (h : memAbove lo m = true) (ha : lo ≤ a) :
    memAbove lo (memSet m a b) = true := by
  induction m generalizing lo with
  | nil =>
    simp only [memSet]
    split
    · rfl
    · simp_all [memAbove]
  | cons c m ih =>
    obtain ⟨k, x⟩ := c
    simp only [memAbove, Bool.and_eq_true, decide_eq_true_eq] at h
    simp only [memSet]
    split
    · split
      · simpa [memAbove] using ⟨⟨h.1.1, by simpa using h.1.2⟩, h.2⟩
      · rename_i hak hb
        simpa [memAbove] using ⟨⟨ha, hb⟩, ⟨by omega, by simpa using h.1.2⟩, h.2⟩
    · split
      · rename_i hak heq
        subst heq
        split
        · exact memAbove_mono h.2 (by omega)
        · rename_i hb
          simpa [memAbove] using ⟨⟨ha, hb⟩, h.2⟩
      · rename_i hak hne
        simpa [memAbove] using ⟨⟨h.1.1, by simpa using h.1.2⟩, ih h.2 (by omega)⟩

/-- A write keeps the canonical form. -/
theorem memSet_wf {m : List Host.Cell} (a : Nat) (b : Byte) (h : Memory.wf m = true) : Memory.wf (memSet m a b) = true :=
  memSet_above h (Nat.zero_le a)

theorem memSetAll_wf {m : List Host.Cell} (ws : List Host.Cell) (h : Memory.wf m = true) :
    Memory.wf (memSetAll m ws) = true := by
  induction ws generalizing m with
  | nil => exact h
  | cons w ws ih => exact ih (memSet_wf w.1 w.2 h)

theorem memPut_wf {m : List Host.Cell} (a : Nat) (bs : List Byte) (h : Memory.wf m = true) :
    Memory.wf (memPut m a bs) = true := memSetAll_wf _ h

theorem writeHome_wf {s : State} (ws : List Host.Cell) (h : Memory.wf s.mem = true) :
    Memory.wf (s.writeHome ws).mem = true := memSetAll_wf _ h

theorem memGet_memSet_above {m : List Host.Cell} {lo : Nat} (h : memAbove lo m = true) (a : Nat) (b : Byte) (x : Nat) :
    memGet (memSet m a b) x = if x = a then b else memGet m x := by
  induction m generalizing lo with
  | nil =>
    simp only [memSet]
    split
    · rename_i hb
      simp [memGet, hb]
    · by_cases hx : a = x
      · simp [memGet, hx]
      · simp [memGet, hx, show ¬ x = a from fun e => hx e.symm]
  | cons c m ih =>
    obtain ⟨k, y⟩ := c
    simp only [memAbove, Bool.and_eq_true, decide_eq_true_eq] at h
    have hz : ∀ z, z < k + 1 → memGet m z = 0 := fun z hz => memGet_below h.2 hz
    have ih := ih h.2
    simp only [memSet]
    split
    · rename_i hak
      split
      · rename_i hb
        subst hb
        by_cases hx : x = a
        · have hk : ¬ k = x := by omega
          have hz := hz x (by omega)
          simp [memGet, hk, hz]
        · simp [hx]
      · by_cases hx : x = a
        · simp [memGet, hx]
        · simp [memGet, hx, show ¬ a = x from fun e => hx e.symm]
    · split
      · rename_i hak heq
        subst heq
        split
        · rename_i hb
          subst hb
          by_cases hx : x = a
          · have hz := hz x (by omega)
            rw [hz, if_pos hx]
          · simp [memGet, hx, show ¬ a = x from fun e => hx e.symm]
        · by_cases hx : x = a
          · simp [memGet, hx]
          · simp [memGet, hx, show ¬ a = x from fun e => hx e.symm]
      · rename_i hak hne
        by_cases hk : k = x
        · subst hk
          simp [memGet, show ¬ k = a from fun e => hne e.symm]
        · simp [memGet, hk, ih]

/-- Read after write: the location written gives its byte, and every other location what it gave. -/
theorem memGet_memSet {m : List Host.Cell} (h : Memory.wf m = true) (a : Nat) (b : Byte) (x : Nat) :
    memGet (memSet m a b) x = if x = a then b else memGet m x := memGet_memSet_above h a b x

theorem memGet_memSetAll_of_not_mem {m : List Host.Cell} (h : Memory.wf m = true) (ws : List Host.Cell) (x : Nat)
    (hx : x ∉ ws.map Prod.fst) : memGet (memSetAll m ws) x = memGet m x := by
  induction ws generalizing m with
  | nil => rfl
  | cons w ws ih =>
    simp only [List.map_cons, List.mem_cons, not_or] at hx
    simp only [memSetAll]
    rw [ih (memSet_wf w.1 w.2 h) hx.2, memGet_memSet h, if_neg hx.1]

/-- Writes give the last byte written to a location. -/
theorem memGet_memSetAll_append {m : List Host.Cell} (h : Memory.wf m = true) (ws : List Host.Cell) (w : Host.Cell) (x : Nat) :
    memGet (memSetAll m (ws ++ [w])) x = if x = w.1 then w.2 else memGet (memSetAll m ws) x := by
  induction ws generalizing m with
  | nil => exact memGet_memSet h w.1 w.2 x
  | cons v ws ih => exact ih (memSet_wf v.1 v.2 h)

theorem memSetAll_append (m : List Host.Cell) (xs ys : List Host.Cell) :
    memSetAll m (xs ++ ys) = memSetAll (memSetAll m xs) ys := by
  induction xs generalizing m with
  | nil => rfl
  | cons x xs ih => exact ih (memSet m x.1 x.2)

@[simp] theorem memBytes_length (m : List Host.Cell) (a n : Nat) : (memBytes m a n).length = n := by
  induction n generalizing a with
  | zero => rfl
  | succ n ih => simp [memBytes, ih]

theorem memBytes_getElem? (m : List Host.Cell) (a n i : Nat) (h : i < n) : (memBytes m a n)[i]? = some (memGet m (a + i)) := by
  induction n generalizing a i with
  | zero => omega
  | succ n ih =>
    cases i with
    | zero => simp [memBytes]
    | succ i =>
      simp only [memBytes, List.getElem?_cons_succ]
      rw [ih (a + 1) i (by omega), show a + 1 + i = a + (i + 1) by omega]

theorem memAbove_head {m : List Host.Cell} {lo k : Nat} {b : Byte} (h : memAbove lo ((k, b) :: m) = true) :
    lo ≤ k ∧ b ≠ 0 ∧ memAbove (k + 1) m = true := by
  simpa [memAbove, and_assoc] using h

theorem mem_ext_above {m n : List Host.Cell} {lo : Nat} (hm : memAbove lo m = true) (hn : memAbove lo n = true)
    (h : ∀ a, memGet m a = memGet n a) : m = n := by
  induction m generalizing n lo with
  | nil =>
    cases n with
    | nil => rfl
    | cons c n =>
      obtain ⟨k, b⟩ := c
      have hb := (memAbove_head hn).2.1
      have := h k
      simp [memGet] at this
      exact absurd this.symm hb
  | cons c m ih =>
    obtain ⟨k, b⟩ := c
    have hm' := memAbove_head hm
    cases n with
    | nil =>
      have := h k
      simp [memGet] at this
      exact absurd this hm'.2.1
    | cons d n =>
      obtain ⟨j, y⟩ := d
      have hn' := memAbove_head hn
      have hkj : k = j := by
        rcases Nat.lt_trichotomy k j with hlt | heq | hgt
        · have := h k
          simp only [memGet, if_true, show ¬ j = k by omega, if_false] at this
          rw [memGet_below hn'.2.2 (by omega)] at this
          exact absurd this hm'.2.1
        · exact heq
        · have := h j
          simp only [memGet, if_true, show ¬ k = j by omega, if_false] at this
          rw [memGet_below hm'.2.2 (by omega)] at this
          exact absurd this.symm hn'.2.1
      subst hkj
      have hb : b = y := by simpa [memGet] using h k
      subst hb
      congr 1
      refine ih hm'.2.2 hn'.2.2 fun a => ?_
      by_cases ha : a = k
      · subst ha
        rw [memGet_below hm'.2.2 (by omega), memGet_below hn'.2.2 (by omega)]
      · have := h a
        simpa [memGet, show ¬ k = a from fun e => ha e.symm] using this

/-- Memories with equal contents are equal data. -/
theorem mem_ext {m n : List Host.Cell} (hm : Memory.wf m = true) (hn : Memory.wf n = true)
    (h : ∀ a, memGet m a = memGet n a) : m = n := mem_ext_above hm hn h

end Sys2Proof.Machine
end

