-- ==== Sys2Proof/Laws/Ops.lean ====
section
/-! SUPPORT. What the shared operations on threads leave: a thread changed is that thread, and every other stands; taking a
trap writes the trap registers, stops the thread and keeps memory (01 R17, R23). -/

namespace Sys2Proof.Machine

variable {s : State} {r q : TRef} {th : Thread} {c : Cx}

theorem thread_eq_some : s.thread r = some th ↔ ∃ t, s.teams[r.team]? = some t ∧ t.threads[r.tid]? = some th := by
  simp [State.thread, Option.bind_eq_some_iff]

/-- The view of a thread that stands. -/
theorem viewOf_eq_some : s.viewOf r = some c ↔
    c.r = r ∧ s.teams[r.team]? = some c.t ∧ c.t.threads[r.tid]? = some c.th ∧ c.la = s.launch c.t.seq := by
  unfold State.viewOf
  cases ht : s.teams[r.team]? with
  | none => simp
  | some t =>
    cases hth : t.threads[r.tid]? with
    | none =>
      constructor
      · intro h; simp [hth] at h
      · rintro ⟨-, h2, h3, -⟩
        cases Option.some.inj h2
        simp [hth] at h3
    | some x =>
      simp only [hth, Option.some.injEq]
      constructor
      · rintro rfl
        exact ⟨rfl, rfl, hth, rfl⟩
      · rintro ⟨h1, h2, h3, h4⟩
        obtain ⟨cr, ct, cth, cla⟩ := c
        simp only at h1 h2 h3 h4
        subst h1 h2 h4
        rw [hth] at h3
        cases Option.some.inj h3
        rfl

theorem view_eq_some : s.view = some c ↔ s.cur = some c.r ∧ s.viewOf c.r = some c := by
  unfold State.view
  cases hc : s.cur with
  | none => simp
  | some x =>
    constructor
    · intro h
      have hr := (viewOf_eq_some.mp h).1
      subst hr
      exact ⟨rfl, h⟩
    · rintro ⟨h1, h2⟩
      cases Option.some.inj h1
      exact h2

theorem view_thread (h : s.view = some c) : s.thread c.r = some c.th := by
  obtain ⟨-, h⟩ := view_eq_some.mp h
  obtain ⟨-, h1, h2, -⟩ := viewOf_eq_some.mp h
  exact thread_eq_some.mpr ⟨_, h1, h2⟩

theorem view_team (h : s.view = some c) : s.teams[c.r.team]? = some c.t :=
  (viewOf_eq_some.mp (view_eq_some.mp h).2).2.1

/-- A thread changed reads as changed. -/
theorem modThread_self (f : Thread → Thread) (h : s.thread r = some th) : (s.modThread r f).thread r = some (f th) := by
  obtain ⟨t, h1, h2⟩ := thread_eq_some.mp h
  refine thread_eq_some.mpr ⟨{ t with threads := t.threads.modify r.tid f }, ?_, ?_⟩
  · simp [State.modThread, State.modTeam, h1]
  · simp [h2]

/-- Every other thread stands. -/
theorem modThread_other (f : Thread → Thread) (h : q ≠ r) : (s.modThread r f).thread q = s.thread q := by
  obtain ⟨qt, qi⟩ := q
  obtain ⟨rt, ri⟩ := r
  simp only [State.thread, State.modThread, State.modTeam]
  by_cases ht : rt = qt
  · subst ht
    have hi : ri ≠ qi := fun e => h (by rw [e])
    cases hs : s.teams[rt]? with
    | none => simp [hs]
    | some t => simp [hs, List.getElem?_modify_ne, hi]
  · simp [List.getElem?_modify_ne, ht]

/-- Another team stands. -/
theorem modTeam_other {n m : Nat} (f : Team → Team) (h : m ≠ n) : (s.modTeam n f).teams[m]? = s.teams[m]? := by
  simp [State.modTeam, List.getElem?_modify_ne, Ne.symm h]

theorem modTeam_self {n : Nat} {t : Team} (f : Team → Team) (h : s.teams[n]? = some t) :
    (s.modTeam n f).teams[n]? = some (f t) := by
  simp [State.modTeam, h]

/-- The fault unit posts a fault without touching a team, memory or the store queues. -/
theorem postFault_stands (e : Trap) (pc : Word) (re hd : Bool) :
    (s.postFault c e pc re hd).1.teams = s.teams ∧ (s.postFault c e pc re hd).1.mem = s.mem ∧
    (s.postFault c e pc re hd).1.queue = s.queue ∧ (s.postFault c e pc re hd).1.launches = s.launches := by
  unfold State.postFault
  dsimp only
  split <;> exact ⟨rfl, rfl, rfl, rfl⟩

/-- Taking a trap keeps every byte of memory. -/
@[simp] theorem takeTrap_mem (e : Trap) : (s.takeTrap c e).mem = s.mem := (postFault_stands e _ _ _).2.1

theorem takeTrap_queue (e : Trap) : (s.takeTrap c e).queue = s.queue := (postFault_stands e _ _ _).2.2.1

/-- Taking a trap writes TRAPCAUSE, TRAPPC and TRAPVA and stops the thread at its word (01 R17, R23). -/
theorem takeTrap_self (e : Trap) (h : s.thread c.r = some th) : ∃ fid, (s.takeTrap c e).thread c.r =
    some { th with
      trapCause := e.word, trapPc := th.pc, trapVa := e.va, run := .faulted fid, wait := .none, since := none } := by
  have ht := (postFault_stands (s := s) (c := c) e c.th.pc false c.th.hnd).1
  refine ⟨(s.postFault c e c.th.pc false c.th.hnd).2, ?_⟩
  unfold State.takeTrap
  refine modThread_self _ ?_
  simpa [State.thread, ht] using h

theorem takeTrap_other (e : Trap) (h : q ≠ c.r) : (s.takeTrap c e).thread q = s.thread q := by
  have ht := (postFault_stands (s := s) (c := c) e c.th.pc false c.th.hnd).1
  unfold State.takeTrap
  rw [modThread_other _ h]
  simp [State.thread, ht]

end Sys2Proof.Machine
end

