-- ==== Sys2Proof/Tests/Slice0.lean ====
section
/-! SUPPORT. The model's own tests: decoding, the refusals of WellFormed, single steps with results worked out in the spec,
and for every statement a state and operands that meet its hypotheses. -/

namespace Sys2Proof.Tests

open Sys2Proof.Machine

set_option maxRecDepth 20000

/-! ### A small machine -/

/-- Operand fields with register numbers, control values and MOD. -/
def ops (d a b c : BitVec 10) (mod : BitVec 3 := 0) : Fields := ⟨d, a, b, c, mod, false, false, false⟩

/-- A resource declaration: 4 threads, 64 registers, 4 KiB of scratchpad, 2 KiB of extension, all barrier, convergence and
stream registers, 32 KiB of tile file, 8 parked requests, a launch in clusters (05 R115). -/
def decl : Nat := 3 + 7 * 2 ^ 10 + 4 * 2 ^ 17 + 2 ^ 25 + 16 * 2 ^ 33 + 8 * 2 ^ 38 + 8 * 2 ^ 42 + 4 * 2 ^ 46 + 2 ^ 53 + 2 ^ 61

/-- Its launch, privileged, of context 1 and one team. -/
def rigLaunch : Launch :=
  { seq := 1, tuple := [1, 0x4008, 1, BitVec.ofNat 64 decl, 0, 0, 0, 0], kind := 1, ctx := 1, troot := 0x1000, priv := true,
    slot := 0, die := 0, cls := 0, x0 := 0, placed := [0] }

/-- Page tables: 1 GiB of compute HBM at 0; the plane region of stride 4 at 1 GiB; herd regions 5, 6 and 0xFFE at 2, 3 and
4 GiB. -/
def rigMem : List Host.Cell :=
  let put (m : List Host.Cell) (a n : Nat) : List Host.Cell := memPut m a (leBytes 8 n)
  put (put (put (put (put (put [] 0x1000 0x2001) 0x2000 0x3F) 0x2008 (4 * 2 ^ 52 + 0x13F)) 0x2010 (5 * 2 ^ 52 + 0x43F))
    0x2018 (6 * 2 ^ 52 + 0x43F)) 0x2020 (0xFFE * 2 ^ 52 + 0x43F)

/-- The rig's memory with 64-bit words. -/
def memWith (l : List (Nat × Nat)) : List Host.Cell := l.foldl (fun m p => memPut m p.1 (leBytes 8 p.2)) rigMem

/-- Two regions of 512 tuples, a plain and an ordered one. -/
def rigHerd : Herd :=
  { regions := [⟨5, false, 4, 1, 0x10000000, 0⟩, ⟨6, true, 4, 1, 0x10010000, 0⟩, ⟨0xFFE, false, 5, 64, 0x20000000, 0⟩] }

/-- Registers set: x registers, and vector registers of thread 0. -/
def withX (l : List (Nat × Word)) (t : Team) : Team := { t with x := l.foldl (fun x p => x.set p.1 p.2) t.x }
def withV (l : List (Nat × W32)) (th : Thread) : Thread := { th with v := l.foldl (fun v p => v.set p.1 p.2) th.v }

/-- The machine: one team of four threads on core 0, thread 0 current. -/
def rig (k : Thread → Thread := id) (e : Team → Team := id) : State :=
  let t := newTeam rigLaunch ⟨0, 0, 0, 0x20000, 0⟩
  { State.cleared with
    mem := rigMem
    launches := [rigLaunch]
    nextSeq := 2
    teams := [e { t with threads := t.threads.modify 0 k }]
    herd := rigHerd
    boot := { stage := 5, ready := true }
    cur := some ⟨0, 0⟩
    uid := 10 }

/-- The rig with x registers. -/
def rigX (l : List (Nat × Word)) : State := rig id (withX l)

/-- Thread 0 stands at the effect of a word, and what a clause asks besides holds. -/
def stands (op fn x : Nat) (ext skipV : Bool) (g : Guard) (f : Fields) (s : State) (p : Cx → Bool) : Bool :=
  match s.view with
  | none => false
  | some c =>
    c.canIssue && !c.hazard (if skipV then [] else shapeVecs (shape op fn f) f) (shapeXs (shape op fn f) f)
      (g.gp.toNat :: (shape op fn f).preds) && !wordWaits s c (shapeVecs (shape op fn f) f) &&
    (frontTrap op fn x g f c ext).isNone && c.guard g && !(gatedWord op fn f && (c.held || awaitsAcquire s c)) &&
    (c.flawTrap (sourceVecs op fn f) (sourceXs op fn f) 0).isNone && p c

theorem of_stands {op fn x : Nat} {ext skipV : Bool} {g : Guard} {f : Fields} {s : State} {p : Cx → Bool}
    (h : stands op fn x ext skipV g f s p = true) : ∃ c, AtEffect op fn x ext skipV g f s c ∧ p c = true := by
  unfold stands at h
  split at h
  · cases h
  · rename_i c hc
    simp only [Bool.and_eq_true, Bool.not_eq_true', Option.isNone_iff_eq_none, Bool.and_eq_false_imp,
      Bool.or_eq_false_iff] at h
    obtain ⟨⟨⟨⟨⟨⟨⟨h1, h2⟩, h3⟩, h4⟩, h5⟩, h6⟩, h7⟩, h8⟩ := h
    exact ⟨c, ⟨⟨hc, h1, h2, h3, h4⟩, h5, h6, h7⟩, h8⟩

/-- A full word under p7 acts, with what a clause asks besides. -/
def acting (op fn : Nat) (f : Fields) (s : State) (p : Cx → Bool := fun _ => true) : Bool :=
  stands op fn 0 false false Guard.always f s p

theorem of_acting {op fn : Nat} {f : Fields} {s : State} {p : Cx → Bool} (h : acting op fn f s p = true) :
    ∃ c, Acts op fn Guard.always f s c ∧ p c = true := of_stands h

theorem acts_with {op fn : Nat} {f : Fields} {s : State} {P : Cx → Prop} [DecidablePred P]
    (h : acting op fn f s (fun c => decide (P c)) = true) : ∃ c, Acts op fn Guard.always f s c ∧ P c := by
  obtain ⟨c, hc, hp⟩ := of_acting h
  exact ⟨c, hc, of_decide_eq_true hp⟩

theorem acts_all {l : List (Nat × Fields)} {op : Nat} {s : State} (h : l.all (fun x => acting op x.1 x.2 s) = true) :
    ∀ x ∈ l, ∃ c, Acts op x.1 Guard.always x.2 s c := fun x hx => by
  obtain ⟨c, hc, -⟩ := of_acting (List.all_eq_true.mp h x hx)
  exact ⟨c, hc⟩

/-- The current thread can issue, and a clause holds of its view. -/
def viewed (s : State) (p : Cx → Bool) : Bool :=
  match s.view with
  | none => false
  | some c => c.canIssue && p c

/-! ### Witnesses: data words -/

theorem witness_integer : ∀ x ∈ [(0, ops 1 2 3 0), (1, ops 1 2 3 0 1), (2, ops 1 2 3 0), (3, ops 1 2 3 0 4), (4, ops 1 2 3 4),
    (5, ops 2 4 5 6), (6, ops 2 4 6 0), (7, ops 2 4 6 0), (8, ops 1 2 3 0 2), (9, ops 63 62 61 0), (10, ops 1 2 0 0 1),
    (11, ops 1 2 0 0 1)], ∃ c, Acts 0x01 x.1 Guard.always x.2 rig c := acts_all (by decide)

theorem witness_logic : ∀ x ∈ [(0, ops 1 2 3 0), (1, ops 1 2 3 0), (2, ops 1 2 3 0 4), (3, ops 1 2 3 0), (4, ops 1 2 3 0),
    (5, ops 1 2 3 0), (6, ops 1 2 3 0 4), (10, ops 1 2 0 0), (11, ops 1 2 0 0), (12, ops 1 2 0 0)],
    ∃ c, Acts 0x02 x.1 Guard.always x.2 rig c := acts_all (by decide)

theorem witness_fields : ∀ x ∈ [(7, ops 1 2 3 4 1), (8, ops 1 2 3 0 2), (9, ops 1 2 3 4), (13, ops 1 2 3 4)],
    ∃ c, Acts 0x02 x.1 Guard.always x.2 rig c := acts_all (by decide)

theorem witness_shf_natural : (ops 1 2 3 4 2).isN = true ∧ fullSub 0x02 7 0 Guard.always (ops 1 2 3 4 2) = some 7 := by decide

theorem witness_compare : ∀ x ∈ [(0, ops 1 2 3 0x55), (1, ops 1 2 3 1), (2, ops 1 0xD1 0x80 0), (3, ops 1 2 0 0 4),
    (4, ops 1 0 0 0), (5, ops 0 1 0x7F 0), (6, ops 1 2 0 0 1), (7, ops 1 2 0 0 1)],
    ∃ c, Acts 0x03 x.1 Guard.always x.2 rig c := acts_all (by decide)

theorem witness_immediate : ∀ x ∈ [(0, ops 1 2 1023 1023), (1, ops 1 2 0 5), (2, ops 1 2 0 5), (3, ops 1 2 0 5 4),
    (4, ops 1 2 0 31), (5, ops 1 2 0 31), (6, ops 1 2 0 63 4), (7, ops 1 0 3 4), (9, ops 0x2A 2 1023 1023 2)],
    ∃ c, Acts 0x04 x.1 Guard.always x.2 rig c := acts_all (by decide)

theorem witness_limm : ∀ f ∈ [ops 2 0 0 0, ops 3 0 0 0 1, ops 3 0 0 0 4, ops 3 0 0 0 5],
    ∃ c, AtEffect 0x04 8 1 true false Guard.always f rig c := by
  intro f hf
  obtain ⟨c, hc, -⟩ := of_stands (p := fun _ => true) (List.all_eq_true.mp (show _ = true by decide :
    ([ops 2 0 0 0, ops 3 0 0 0 1, ops 3 0 0 0 4, ops 3 0 0 0 5].all fun f =>
      stands 0x04 8 1 true false Guard.always f rig fun _ => true) = true) f hf)
  exact ⟨c, hc⟩

theorem witness_float : ∀ x ∈ [(0, ops 1 2 3 0), (1, ops 1 2 3 0 1), (2, ops 1 2 3 0 2), (3, ops 1 2 3 4), (4, ops 1 2 3 0),
    (5, ops 1 2 3 0), (6, ops 1 2 3 0x55), (7, ops 1 2 3 0), (8, ops 1 2 0 0)],
    ∃ c, Acts 0x10 x.1 Guard.always x.2 rig c := acts_all (by decide)

/-- A NaN, opposite infinities, an infinity with a zero, a zero over a zero and a negative value (03 R59). -/
theorem witness_invalid : isNan .f32 0x7F800001 = true ∧ isInf .f32 0x7F800000 = true ∧ isInf .f32 0xFF800000 = true ∧
    fpSign .f32 0x7F800000 ≠ fpSign .f32 0xFF800000 ∧ (fpMag .f32 0x80000000 == 0) = true ∧ ¬ isNan .f32 0xBF800000 ∧
    ¬ (fpMag .f32 0xBF800000 == 0) ∧ fpSign .f32 0xBF800000 = true := by decide

theorem witness_special : ∀ x ∈ (List.range 8).map (fun n => (n, ops 1 2 0 0 (BitVec.ofNat 3 (n % 3)))),
    ∃ c, Acts 0x11 x.1 Guard.always x.2 rig c := acts_all (by decide)

/-- A finite operand below -0, and a NaN. -/
theorem witness_special_operand : isFinite .f32 0xBF800000 = true ∧ fpMag .f32 0xBF800000 ≠ 0 ∧ fpSign .f32 0xBF800000 = true ∧
    isNan .f32 0x7FC00000 = true := by decide

/-- Finite patterns whose sum, difference, product, quotient and root are exact values; those whose sum is zero;
sources of conversions; a positive width; and operands that are NaNs, infinite and in order. -/
theorem witness_arithmetic : let v := patValue .f32
    isFinite .f32 0x3F800000 = true ∧ isFinite .f32 0xBF800000 = true ∧ isFinite .f32 0 = true ∧
    v 0x3F800000 + v 0x3F800000 ≠ 0 ∧ v 0x3F800000 + v 0xBF800000 = 0 ∧ v 0x3F800000 - v 0x3F800000 = 0 ∧
    v 0x3F800000 - v 0xBF800000 ≠ 0 ∧ v 0x3F800000 * v 0xBF800000 ≠ 0 ∧ v 0x3F800000 * v 0 = 0 ∧
    v 0x3F800000 * v 0xBF800000 + v 0x40000000 ≠ 0 ∧ 0 < v 0x3F800000 ∧ v 0 = 0 ∧ patValue .f16 0x3C00 ≠ 0 ∧
    patValue .f16 0x8000 = 0 ∧ isInf .f16 0x7C00 = true ∧ isNan .f16 0x7C01 = true ∧ ¬ isNan .f32 0xFF800000 := by decide +kernel

/-- Every magnitude has a nearest multiple of 2^-16, the even one of two. -/
theorem nearest_exists (y : Rat) (h : 0 ≤ y) : ∃ k : Nat, Picks .rn false (fun n => (n : Rat) / 65536) y k := by
  obtain ⟨n, h1, h2⟩ : ∃ n : Nat, (n : Rat) ≤ 65536 * y ∧ 65536 * y < n + 1 :=
    ⟨⌊65536 * y⌋₊, Nat.floor_le (by positivity), Nat.lt_floor_add_one _⟩
  have key (k : Nat) (hk : ∀ j : Nat, (65536 * y - k) ^ 2 ≤ (65536 * y - j) ^ 2 ∧
      (j ≠ k → (65536 * y - j) ^ 2 = (65536 * y - k) ^ 2 → k % 2 = 0)) :
      Picks .rn false (fun n => (n : Rat) / 65536) y k := by
    intro j
    have e (m : Nat) : (y - (m : Rat) / 65536) ^ 2 = (65536 * y - m) ^ 2 / 65536 ^ 2 := by ring
    simp only [e]
    refine ⟨div_le_div_of_nonneg_right (hk j).1 (by positivity), fun hj he => (hk j).2 hj ?_⟩
    have := congrArg (· * (65536 : Rat) ^ 2) he
    simpa using this
  by_cases hlow : 65536 * y - n < 1 / 2 ∨ (65536 * y - n = 1 / 2 ∧ n % 2 = 0)
  · refine ⟨n, key n fun j => ?_⟩
    rcases Nat.lt_trichotomy j n with hj | rfl | hj
    · have : (j : Rat) + 1 ≤ n := by exact_mod_cast hj
      exact ⟨by nlinarith, fun _ he => by nlinarith⟩
    · exact ⟨le_refl _, fun hj => absurd rfl hj⟩
    · have : (n : Rat) + 1 ≤ j := by exact_mod_cast hj
      rcases hlow with hl | ⟨hl, he⟩
      · exact ⟨by nlinarith, fun _ he => by nlinarith⟩
      · exact ⟨by nlinarith, fun _ _ => he⟩
  · have hge : 1 / 2 ≤ 65536 * y - n := by
      by_contra hc
      exact hlow (Or.inl (lt_of_not_ge hc))
    have hodd : 65536 * y - n = 1 / 2 → (n + 1) % 2 = 0 := fun he => by
      have : n % 2 ≠ 0 := fun h => hlow (Or.inr ⟨he, h⟩)
      omega
    refine ⟨n + 1, key (n + 1) fun j => ?_⟩
    push_cast
    rcases Nat.lt_trichotomy j (n + 1) with hj | rfl | hj
    · have : (j : Rat) ≤ n := by exact_mod_cast Nat.lt_succ_iff.mp hj
      refine ⟨by nlinarith, fun _ he => hodd ?_⟩
      nlinarith
    · push_cast
      exact ⟨le_refl _, fun hj => absurd rfl hj⟩
    · have : (n : Rat) + 1 + 1 ≤ j := by exact_mod_cast hj
      exact ⟨by nlinarith, fun _ he => by nlinarith⟩

/-- Sixteen values without and with one that is not finite, and the rounding of their magnitudes. -/
theorem witness_block (xs : List W32) : ∃ round : Int → Nat → Nat, ∀ sc i, i < 16 →
    Picks .rn false (fun n => (n : Rat) / 65536) (ratAbs (patValue .f32 (xs.getD i 0)) / 2 ^ sc) (round sc i) := by
  have h (sc : Int) (i : Nat) := nearest_exists (ratAbs (patValue .f32 (xs.getD i 0)) / 2 ^ sc) (by
    have : 0 ≤ ratAbs (patValue .f32 (xs.getD i 0)) := by
      unfold ratAbs
      split
      · linarith
      · linarith
    positivity)
  exact ⟨fun sc i => (h sc i).choose, fun sc i _ => (h sc i).choose_spec⟩

theorem witness_block_values : (List.replicate 16 (0x3F800000 : W32)).length = 16 ∧
    ((List.range 16).all fun i => isFinite .f32 ((List.replicate 16 (0x3F800000 : W32)).getD i 0)) = true ∧
    isFinite .f32 ((0x7F800000 :: List.replicate 15 0 : List W32).getD 0 0) = false := by decide

/-- A block of products with a NaN, with infinities of both signs and of one, with a sum that is zero and one that is
not. -/
theorem witness_mxe_block : (Elem.nan.isZero = false) ∧ (Elem.inf true).isNeg = true ∧ (Elem.inf false).isZero = false ∧
    ((List.range 16).map fun j => (Elem.fin (if j = 0 then 1 else if j = 1 then -1 else 0) 0).value * (Elem.fin 1 0).value).sum = 0 ∧
    ((List.range 16).map fun j => (Elem.fin (if j = 0 then 3 else 0) (-1)).value * (Elem.fin 1 0).value).sum ≠ 0 := by
  decide +kernel

/-- CVT between formats, from an integer and to one of 64 bits, and the other conversions. -/
theorem witness_convert : ∀ x ∈ [(0, ops 1 2 0 0x89 4), (0, ops 1 2 0 0x28 5), (0, ops 2 3 0 0x83 6), (0, ops 2 4 0 0x39 7),
    (1, ops 1 2 0 8), (2, ops 2 1 0 0x03 1), (2, ops 1 2 0 0x31), (3, ops 1 2 3 9), (4, ops 2 1 0 10), (5, ops 1 2 0 0),
    (5, ops 1 2 0 0 2)], ∃ c, Acts 0x12 x.1 Guard.always x.2 rig c := acts_all (by decide)

/-- Pair words of each slot operation that acts. -/
def pairActing (s0 s1 : Slot) (s : State) : Bool :=
  match s.view with
  | none => false
  | some c =>
    c.canIssue && !c.hazard (slotVecs s0 ++ slotVecs s1) [] (slotPreds s0 ++ slotPreds s1) &&
    !wordWaits s c (slotVecs s0 ++ slotVecs s1) && (pairTrap c s0 s1).isNone && (c.pairFlaw s0 s1).isNone

theorem of_pairActing {s0 s1 : Slot} {s : State} (h : pairActing s0 s1 s = true) : ∃ c, PairActs s0 s1 s c := by
  unfold pairActing at h
  split at h
  · cases h
  · rename_i c hc
    simp only [Bool.and_eq_true, Bool.not_eq_true', Option.isNone_iff_eq_none] at h
    obtain ⟨⟨⟨⟨h1, h2⟩, h3⟩, h4⟩, h5⟩ := h
    exact ⟨c, hc, h1, h2, h3, h4, h5⟩

theorem witness_pair : ∀ n ∈ [1, 2, 3, 4, 5, 6, 7, 8, 9, 10, 11, 12, 16, 17, 18, 19, 20],
    ∃ c, PairActs ⟨BitVec.ofNat 6 n, 6, 7, false, false, 7⟩ ⟨18, 9, 10, false, false, 7⟩ rig c := fun n hn =>
  of_pairActing (List.all_eq_true.mp (show _ = true by decide :
    ([1, 2, 3, 4, 5, 6, 7, 8, 9, 10, 11, 12, 16, 17, 18, 19, 20].all fun n =>
      pairActing ⟨BitVec.ofNat 6 n, 6, 7, false, false, 7⟩ ⟨18, 9, 10, false, false, 7⟩ rig) = true) n hn)

theorem witness_pair_nop : ∃ c, PairActs ⟨0, 0, 0, false, false, 0⟩ ⟨2, 9, 10, false, false, 3⟩ rig c :=
  of_pairActing (by decide)

/-! ### Witnesses: control, system registers and traps -/

/-- Word 1 of the line at 0x4080 is a branch target. -/
def landing (s : State) : State := { s with mem := memWith [(0x4080, 0x2FFFE)] }

theorem witness_bra : ∃ c, Acts 0x18 0 Guard.always (ops 0 0 0 16) (landing rig) c ∧
    (checkLanding (landing rig) c (c.th.pc + (ops 0 0 0 16).imm.signExtend 64 * 8) false).isOk = true := acts_with (by decide)

theorem witness_call : ∃ c, Acts 0x18 2 Guard.always (ops 0 0 0 16) (landing rig) c ∧
    (checkLanding (landing rig) c (c.th.pc + (ops 0 0 0 16).imm.signExtend 64 * 8) false).isOk = true := acts_with (by decide)

/-- BRX and RET of an x register, CALLX of a pair into the same pair. -/
theorem witness_brx : ∃ c, Acts 0x18 1 Guard.always (ops 0 1 0 0 4) (landing (rigX [(1, 0x4088)])) c ∧
    (checkLanding (landing (rigX [(1, 0x4088)])) c (c.x 1) true).isOk = true := acts_with (by decide)

theorem witness_ret : ∃ c, Acts 0x18 4 Guard.always (ops 0 1 0 0 4) (landing (rigX [(1, 0x4088)])) c ∧
    (checkLanding (landing (rigX [(1, 0x4088)])) c (c.x 1) true).isOk = true := acts_with (by decide)

theorem witness_callx : ∃ c, Acts 0x18 3 Guard.always (ops 2 2 0 0) (landing (rig (withV [(2, 0x4088)]))) c ∧
    (checkLanding (landing (rig (withV [(2, 0x4088)]))) c (c.pair 2) true).isOk = true := acts_with (by decide)

theorem witness_exit_sleep : ∀ x ∈ [(5, ops 0 0 0 0), (6, ops 0 0 1023 1023)], ∃ c, Acts 0x18 x.1 Guard.always x.2 rig c :=
  acts_all (by decide)

theorem witness_nop_yield : ∀ x ∈ [(0, ops 0 0 0 0), (4, ops 0 0 0 0), (1, ops 0 0 0 127), (2, ops 0 0 0 0), (3, ops 0 0 0 0 1)],
    ∃ c, Acts 0x00 x.1 Guard.always x.2 rig c := acts_all (by decide)

/-- Targets at the edges of the checks: one that is not aligned, one at 2^48, one whose line cannot be fetched, one
with its mark and one without. -/
theorem witness_landings : ∃ c, (landing rig).view = some c ∧ (0x4089#64).toNat % 8 ≠ 0 ∧
    2 ^ 48 ≤ (0x1000000000000#64).toNat ∧ (fetchLine (landing rig) c 0x7FC000000000).isOk = false ∧
    (fetchLine (landing rig) c 0x4088).isOk = true ∧ ((memLine (landing rig) 0x4080).getD 0 0).getLsbD 17 = true ∧
    ((memLine (landing rig) 0x4080).getD 0 0).getLsbD 18 = false := ⟨_, rfl, by decide⟩

/-- MOVCR of every control register but CYCLES, and of CYCLES; into an x register, a vector and a pair. -/
theorem witness_movcr : ∀ x ∈ ([0, 1, 2, 3, 4, 5, 6, 7, 8, 9, 0x40, 0x7F].map fun n => (5, ops 2 0 0 n 4)) ++
    [(5, ops 1 0 0 2 1), (5, ops 2 0 0 6)], ∃ c, Acts 0x00 x.1 Guard.always x.2 rig c := acts_all (by decide)

/-- MOVRC of FPMODE, FPST, SKEW with a legal and an illegal shift, SAVEBASE, PREEMPT and TDESC. -/
theorem witness_movrc : ∀ x ∈ [1, 2, 4, 8, 9, 0x40, 0x7F].map fun n => (6, ops 0 2 0 n 4),
    ∃ c, Acts 0x00 x.1 Guard.always x.2 (rigX [(2, 5)]) c := acts_all (by decide)

theorem witness_tdesc_write : ∃ c, Acts 0x00 6 Guard.always (ops 0 2 0 0x7F 4) rig c ∧ (setTile rig c 0x3F 0).isOk = true :=
  acts_with (by decide)

theorem witness_movsr : ∀ x ∈ (List.range 12).map fun n => (7, ops 1 0 0 (BitVec.ofNat 10 n) (if n % 2 = 0 then 0 else 4)),
    ∃ c, Acts 0x00 x.1 Guard.always x.2 rig c := acts_all (by decide)

/-- In handler mode, with TRAPPC in a line that can be fetched, and in one that cannot. -/
def inHandler (pc : Word) : State := landing (rig fun th => { th with hnd := true, trapPc := pc })

theorem witness_eret : ∃ c, Acts 0x00 3 Guard.always (ops 0 0 0 0 1) (inHandler 0x4088) c ∧ c.th.hnd = true ∧
    (successorOf (inHandler 0x4088) c c.th.trapPc).isOk = true := acts_with (by decide)

theorem witness_eret_trap : ∃ c, Acts 0x00 3 Guard.always (ops 0 0 0 0 1) (inHandler 0x7FC000000000) c ∧ c.th.hnd = true ∧
    (successorOf (inHandler 0x7FC000000000) c c.th.trapPc).isOk = false := acts_with (by decide)

theorem witness_eret_outside : ∃ c, Acts 0x00 3 Guard.always (ops 0 0 0 0) rig c ∧ c.th.hnd = false := acts_with (by decide)

/-- A page fault that joins an earlier record of its page, and a fault that does not. -/
def pageRecord : State := { rig with fu := { next := 8, records := [⟨7, 1, some 0x4010⟩] } }

theorem witness_trap_entry : ∃ c, pageRecord.viewOf ⟨0, 0⟩ = some c ∧ c.r = ⟨0, 0⟩ ∧ c.la.ctx = 1 ∧
    (0x4010123#64).toNat / 4096 = 0x4010 := ⟨_, rfl, by decide⟩

/-- CCTL.iinv of a line that translates; the other maintenance words need nothing else. -/
theorem witness_cctl : ∃ c, Acts 0x00 8 Guard.always (ops 0 0x202 0x3FF 1 1) (rigX [(2, 0x4000)]) c ∧
    (translate (rigX [(2, 0x4000)]) c .iinv 0x4080).isOk = true := acts_with (by decide)

theorem witness_maintenance : ∀ x ∈ [(8, ops 0 0 0 0), (8, ops 0 0 0 0 2), (9, ops 0 0x202 0x3FF 0), (9, ops 0 0 0 0 1),
    (9, ops 0 0 0 0 2)], ∃ c, Acts 0x00 x.1 Guard.always x.2 (rigX [(2, 0x1000000000000)]) c := acts_all (by decide)

/-! ### Witnesses: memory -/

/-- A read can be served at once. -/
def readable (s : State) (c : Cx) (wide : Bool) (locs : List Nat) : Bool :=
  !sleeping s (unserved s c locs) && !linkReadFails s (unserved s c locs) &&
    (readSub s c.t.core wide (unserved s c locs)).isNone && (readBytes s c wide 0 locs).isSome

theorem of_readable {s : State} {c : Cx} {wide : Bool} {locs : List Nat} (h : readable s c wide locs = true) :
    ∃ bs, Reads s c wide locs bs := by
  simp only [readable, Bool.and_eq_true, Bool.not_eq_true', Option.isNone_iff_eq_none] at h
  obtain ⟨bs, hb⟩ := Option.isSome_iff_exists.mp h.2
  exact ⟨bs, h.1.1.1, h.1.1.2, h.1.2, hb⟩

/-- Where an address leads, for a check that passes. -/
def locOf (x : Chk Xl) : Nat :=
  match x with
  | .ok y => y.loc
  | .error _ => 0

def okOr {α : Type} (x : Chk α) (d : α) : α :=
  match x with
  | .ok y => y
  | .error _ => d

/-- x2 points at HBM, at the end of a page, with the core's L1 holding a line. -/
def memRig : State := { rigX [(2, 0x5FF0)] with l1 := [⟨0, 0x6000, List.replicate 128 7, []⟩] }

/-- LD.b64 of device scope, ordered, and LD.b128 of the team's own. -/
theorem witness_ld : ∃ c, Acts 0x20 0 Guard.always (ops 8 0x202 0x3FF 0x2C1 3) memRig c ∧ c.th.cntLd < 63 ∧
    (translate memRig c .load 0x5FF8).isOk = true ∧
    readable memRig c true (span (locOf (translate memRig c .load 0x5FF8)) 8) = true := acts_with (by decide)

theorem witness_ld_plain : ∃ c, Acts 0x20 0 Guard.always (ops 8 0x202 0x3FF 1 4) memRig c ∧ c.th.cntLd < 63 ∧
    (translate memRig c .load 0x6000).isOk = true ∧
    readable memRig c false (span (locOf (translate memRig c .load 0x6000)) 16) = true := acts_with (by decide)

/-- LDS.b32 of the scratchpad's last word, of its skewed view, and of the column extension. -/
def skewed : State := rig (fun th => { th with skew := 5 }) (withX [(2, 0xFFC), (3, 0x207F8)])

theorem witness_lds : ∀ f ∈ [ops 8 0x202 0x3FF 0 2, { ops 8 0x202 0x3FF 0 2 with hc := true }, ops 8 0x203 0x3FF 1 2],
    acting 0x20 2 f skewed (fun c =>
      decide (c.th.cntLd < 63) &&
      let locs := okOr (scratchLocs c (c.base f.a + c.index f.b + f.c.signExtend 64 * 4) 4 f.am 0) []
      locs.length == 4 && readable skewed c false locs) = true := by decide

theorem witness_st : ∃ c, Acts 0x20 1 Guard.always (ops 8 0x202 0x3FF 0x281 2) memRig c ∧ c.th.cntSt < 63 ∧
    (0x5FF4#64).toNat % 4 = 0 ∧ (translate memRig c .store 0x5FF4).isOk = true ∧ c.th.linkFail = none := acts_with (by decide)

theorem witness_sts : ∃ c, Acts 0x20 3 Guard.always (ops 8 0x202 0x3FF 0 2) skewed c ∧ c.th.cntSt < 63 ∧
    (scratchLocs c 0xFFC 4 false 1).isOk = true := acts_with (by decide)

/-- PRF of HBM into L1, of an address with no page, and of the herd's page, which no prefetch may name. -/
theorem witness_prf : ∃ c, Acts 0x20 4 Guard.always (ops 0 0x202 0x3FF 0) memRig c ∧
    (translate memRig c .prefetch 0x5FF0).isOk = true := acts_with (by decide)

theorem witness_prf_absent : ∃ c, Acts 0x20 4 Guard.always (ops 0 0x202 0x3FF 0 1) (rigX [(2, 0x7FC000000000)]) c ∧
    (translate (rigX [(2, 0x7FC000000000)]) c .prefetch 0x7FC000000000).isOk = false := acts_with (by decide)

/-- A store of two bytes by thread 0; the second of them, the byte after them, and the view of thread 1. -/
theorem witness_read_back : ∃ c d, memRig.view = some c ∧ memRig.viewOf ⟨0, 1⟩ = some d ∧ d.r ≠ c.r ∧
    (cellsAt 0x5000 [1, 2]).map Prod.fst = [0x5000, 0x5001] ∧ 0x5002 ∉ (cellsAt 0x5000 [1, 2]).map Prod.fst :=
  ⟨_, _, rfl, rfl, by decide⟩

/-- The edges of a team's partitions: the last word of the 4 KiB of scratchpad, the first one past it, the first and
the last of the 2 KiB of extension, and the first one past that; and an address that is not aligned. -/
theorem witness_scratch : ∃ c, rig.view = some c ∧ (declOf c.t.rdw).scr = 0x1000 ∧ (declOf c.t.rdw).ext = 0x800 ∧
    (scratchLocs c 0xFFC 4 false 0).isOk = true ∧ (scratchLocs c 0xFFC 4 true 0).isOk = true ∧
    (scratchLocs c 0x1000 4 false 0).isOk = false ∧ (scratchLocs c 0x20000 4 false 0).isOk = true ∧
    (scratchLocs c 0x20000 4 true 0).isOk = false ∧ (scratchLocs c 0x207FC 4 false 0).isOk = true ∧
    (scratchLocs c 0x20800 4 false 0).isOk = false ∧ (scratchLocs c 2 4 false 0).isOk = false :=
  ⟨_, rfl, by decide⟩

/-- A check that ends in a trap. -/
def stopped {α : Type} (x : Chk α) : Bool :=
  match x with
  | .error (.trap _) => true
  | _ => false

/-- LD and ST of an address out of line, of one with no page, and with the counters full; LD of poisoned bytes; LDS
and STS past both partitions; and the atomics out of line, with no page and of poisoned bytes. -/
theorem witness_access_traps : (∀ x ∈ [(0, Acc.load), (1, Acc.store)],
      acting 0x20 x.1 (ops 8 0x202 0x3FF 0 3) (rigX [(2, 0x5FF1)]) (fun c => decide (c.th.cntLd < 63 ∧ c.th.cntSt < 63)) = true ∧
      acting 0x20 x.1 (ops 8 0x202 0x3FF 0 3) (rigX [(2, 0x7FC000000000)]) (fun c =>
        stopped (translate (rigX [(2, 0x7FC000000000)]) c x.2 0x7FC000000000)) = true ∧
      acting 0x20 x.1 (ops 8 0x202 0x3FF 0 3) (rig (fun th => { th with cntLd := 63, cntSt := 63 }) (withX [(2, 0x5FF0)])) = true ∧
      acting 0x20 (x.1 + 2) (ops 8 0x202 0x3FF 0 3) (rigX [(2, 0x1000)]) (fun c =>
        stopped (scratchLocs c 0x1000 8 false x.2.ak)) = true) ∧
    (let s := { memRig with poison := [0x5FF0 / 8] }
     acting 0x20 0 (ops 8 0x202 0x3FF 0 3) s (fun c => (translate s c .load 0x5FF0).isOk &&
       let locs := unserved s c (span 0x5FF0 8)
       !sleeping s locs && !linkReadFails s locs && (readSub s c.t.core false locs == some 5)) = true) ∧
    ∀ x ∈ [(0, ops 8 0x202 10 0x80 1), (1, ops 8 0x202 10 0x80 1), (2, ops 8 0x202 0 0x80 1)],
      acting 0x22 x.1 x.2 (rigX [(2, 0x5004)]) = true ∧ acting 0x22 x.1 x.2 (rigX [(2, 0x7FC000000000)]) (fun c =>
        stopped (translate (rigX [(2, 0x7FC000000000)]) c .atomic 0x7FC000000000)) = true ∧
      (let s := { rigX [(2, 0x5008)] with errors := [0x5008 / 8] }
       acting 0x22 x.1 x.2 s (fun c => (translate s c .atomic 0x5008).isOk && !sleeping s (span 0x5008 8) &&
         !linkReadFails s (span 0x5008 8) && (eccSub s (notOverwritten s c.t.core (span 0x5008 8))).isSome) =
         true) := by decide +kernel

/-! Planes -/

/-- x2 and x3 name the plane set of stride 4 and 14 planes at 1 GiB; v8 to v15 were read with 3 planes. -/
def planeRig : State :=
  rig (fun th => { th with tags := (List.range 8).foldl (fun l k =>
      l.set (8 + k) { pval := true, pcnt := 3, sig := planeSig 0x40010000 k,
                      held := [(1, 0x40010000), (2, 0x40010200), (3, 0x40010400), (4, 0x40010600), (5, 0x40010800)] }) th.tags })
    (withX [(2, 0x40010000), (3, 0xE004), (4, 5), (5, 0x1000), (6, 0x20)])

theorem witness_pld : ∃ c, Acts 0x21 0 Guard.always (ops 16 0x202 0x3FF 14 4) planeRig c ∧ c.th.cntLd < 63 ∧
    (planeOps c (ops 16 0x202 0x3FF 14 4) 0).isOk = true ∧
    (planesAt planeRig c .planeLoad ⟨0x40010000, 14, 4⟩ 0 (List.range 16)).isOk = true ∧
    readable planeRig c true (planeBytes (okOr (planesAt planeRig c .planeLoad ⟨0x40010000, 14, 4⟩ 0 (List.range 16)) [])) = true :=
  acts_with (by decide)

/-- PLD with an error in the plane of M1, and none in those before it. -/
theorem witness_pld_error : let s := { planeRig with poison := [0x10400 / 8] }
    ∃ c, Acts 0x21 0 Guard.always (ops 16 0x202 0x3FF 14 4) s c ∧ c.th.cntLd < 63 ∧
    (let ls := okOr (planesAt s c .planeLoad ⟨0x40010000, 14, 4⟩ 0 (List.range 16)) []
     ls.length = 16 ∧ sleeping s (unserved s c (planeBytes ls)) = false ∧ linkReadFails s (unserved s c (planeBytes ls)) = false ∧
     (∀ m ∈ ls.take 2, readSub s c.t.core true (unserved s c [m, m + 1]) = none) ∧
     (readSub s c.t.core true (unserved s c [ls.getD 2 0, ls.getD 2 0 + 1])).isSome = true) := acts_with (by decide)

/-- PREF of registers that hold what it asks for, and of the same with one plane more. -/
theorem witness_pref_held : ∃ c, Acts 0x21 1 Guard.always (ops 8 0x202 0x3FF 3 3) planeRig c ∧
    (planeOps c (ops 8 0x202 0x3FF 3 3) 0).isOk = true ∧ ∀ k, k < 8 → (c.tag (8 + k)).pval = true ∧
      (c.tag (8 + k)).sig = planeSig 0x40010000 k ∧ 3 ≤ (c.tag (8 + k)).pcnt.toNat := acts_with (by decide)

theorem witness_pref_more : ∃ c, Acts 0x21 1 Guard.always (ops 8 0x202 0x3FF 4 3) planeRig c ∧ c.th.cntLd < 63 ∧
    (planeOps c (ops 8 0x202 0x3FF 4 3) 0).isOk = true ∧ (∀ k, k < 8 → (c.tag (8 + k)).pcnt.toNat = 3) ∧
    readable planeRig c true (planeBytes (okOr (planesAt planeRig c .planeLoad ⟨0x40010000, 14, 4⟩ 0 [5]) [])) = true :=
  acts_with (by decide)

theorem witness_pst : ∃ c, Acts 0x21 2 Guard.always (ops 16 0x202 0x3FF 14 4) planeRig c ∧ c.th.cntSt < 63 ∧
    (planeOps c (ops 16 0x202 0x3FF 14 4) 1).isOk = true ∧
    (planesAt planeRig c .planeStore ⟨0x40010000, 14, 4⟩ 0 (List.range 16)).isOk = true := acts_with (by decide)

/-- PTAG, with a tag word that is sound and one that is not. -/
theorem witness_ptag : ∀ f ∈ [ops 1 2 0 0, ops 1 2 0 0 1, ops 1 3 0 0 1],
    acting 0x21 3 f (rig (withV [(2, 0x12340030), (3, 0x11)])) = true := by decide

/-- PREF of registers with no tag and of another block; PLD and PST of a plane set that no page holds; a page of another
stride. -/
theorem witness_plane_traps : (∃ c, Acts 0x21 1 Guard.always (ops 16 0x202 0x3FF 3 3) planeRig c ∧
      (planeOps c (ops 16 0x202 0x3FF 3 3) 0).isOk = true ∧ (c.tag 16).pval = false) ∧
    (∃ c, Acts 0x21 1 Guard.always (ops 8 0x202 0x206 3 3) planeRig c ∧
      (planeOps c (ops 8 0x202 0x206 3 3) 0).isOk = true ∧ (c.tag 8).pval = true ∧
      (c.tag 8).sig ≠ planeSig (0x40010000 + 2 * (0x20 / 16)) 0) ∧
    (∀ x ∈ [(0, Acc.planeLoad), (2, .planeStore)],
      let s := rigX [(2, 0x7FC000000000), (3, 0xE004)]
      acting 0x21 x.1 (ops 16 0x202 0x3FF 14 4) s (fun c => decide (c.th.cntLd < 63 ∧ c.th.cntSt < 63) &&
        (planeOps c (ops 16 0x202 0x3FF 14 4) x.2.ak).isOk &&
        stopped (planesAt s c x.2 ⟨0x7FC000000000, 14, 4⟩ 0 (List.range 16))) = true) ∧
    (match planeRig.view with
      | none => false
      | some c => stopped (planesAt planeRig c .planeLoad ⟨0x40010000, 14, 5⟩ 0 [0])) = true :=
  ⟨acts_with (by decide), acts_with (by decide), by decide +kernel, by decide⟩

/-- The descriptor, the element, the planes and the block at the edges of their checks. -/
theorem witness_plane_checks : ∃ c, planeRig.view = some c ∧
    (planeOps c (ops 16 0x202 0x204 3 0) 0).isOk = true ∧ (planeOps c (ops 16 0x202 0x204 3 1) 0).isOk = false ∧
    (planeOps c (ops 16 0x202 0x3FF 15 0) 0).isOk = false ∧ (planeOps c (ops 16 0x202 0x205 3 0) 0).isOk = false ∧
    (planeOps c (ops 16 0x204 0x3FF 3 0) 0).isOk = false := ⟨_, rfl, by decide⟩

/-! Atomics and ordering -/

def atomRig : State := rigX [(2, 0x5008), (4, 9)]

theorem witness_atomics : ∀ x ∈ [(0, ops 8 0x202 4 0x80), (0, ops 8 0x202 10 0x98 1), (1, ops 8 0x202 10 0xB0 1),
    (1, ops 8 0x202 9 0x80), (2, ops 8 0x202 0 0xA1), (2, ops 8 0x202 0 0x89 2)],
    acting 0x22 x.1 x.2 atomRig (fun c => decide (c.th.cntLd < 63) && decide (c.th.cntSt < 63) && c.th.linkFail.isNone &&
      (translate atomRig c .atomic 0x5008).isOk && !sleeping atomRig (span 0x5008 8) && !damaged atomRig (span 0x5008 8) &&
      !linkReadFails atomRig (span 0x5008 8)) = true := by decide

/-- The core's queue holds a store. -/
def queued : State := { rig with queue := [{ uid := 3, core := 0, who := ⟨0, 1⟩, va := 0x5000, what := .write [(0x5000, 1)] }] }

/-- FENCE of release and of acquire with the queue full and empty, and WAIT for all counters and for none. -/
theorem witness_fence : ∀ x ∈ [(ops 0 0 0 0x0E, queued), (ops 0 0 0 0x0D, queued), (ops 0 0 0 0x0F, rig), (ops 0 0 0 3, queued)],
    acting 0x22 3 x.1 x.2 (fun c => c.th.linkFail.isNone && !atomicsOut x.2 c.r &&
      (decide (x.1.c.toNat % 4 ≠ 3) || decide (x.1.c.toNat / 4 < 2) || x.2.queue.all fun e => e.core != c.t.core)) = true := by
  decide

/-- An sc fence of cluster scope that its core's queue holds back, the first time and once it has noted its place. -/
theorem witness_fence_waits : ∀ x ∈ [(queued, 10), ({ queued with teams := (rig fun th => { th with since := some 4 }).teams }, 4)],
    acting 0x22 3 (ops 0 0 0 0x0F) x.1 (fun c => c.th.linkFail.isNone && !atomicsOut x.1 c.r &&
      decide (c.th.since.getD x.1.uid = x.2) && x.1.queue.any fun e => e.core == c.t.core && decide (e.uid < x.2)) = true := by
  decide

theorem witness_wait : ∀ f ∈ [ops 0 0 0 0, ops 63 63 63 63], acting 0x22 4 f rig (fun c => c.th.linkFail.isNone &&
    decide (c.th.cntLd ≤ f.d.toNat ∧ c.th.cntSt ≤ f.a.toNat ∧ c.th.cntAs ≤ f.b.toNat ∧ c.th.cntMx ≤ f.c.toNat)) = true := by
  decide

/-! ### Witnesses: SAVE and REST -/

/-- The rig with a second launch, of one team on core 1; thread 0 has the team's x registers and its SAVEBASE set. -/
def saveRig (xs : List (Nat × Word)) (k : Launch → Launch) (th : Thread → Thread := id) : State :=
  let s := rig th (withX xs)
  let l := k { rigLaunch with seq := 2 }
  { s with
    launches := s.launches ++ [l]
    nextSeq := 3
    teams := s.teams ++ [newTeam l ⟨0, 1, 0, 0x20000, 0⟩] }

/-- SAVE d, launch, size. -/
def saveFields : Fields := ops 5 6 7 0

/-- A SAVE of a running launch with the exact size its area needs, under no force and under force, with the default
limit and with another; and the SAVEs that may not begin. -/
theorem witness_save : ∀ p ∈ [(0 : Word), 0x100000007], ∃ c,
    Acts 0x00 10 Guard.always saveFields (saveRig [(6, 2), (7, 81920)] id fun th => { th with preempt := p }) c ∧
    launchSize (declOf decl) (liveTeams (saveRig [(6, 2), (7, 81920)] id) 2).length ≤ (c.x 7).toNat ∧
    (c.x 6).toNat = 2 ∧ c.la.seq = 1 ∧ c.th.preempt = p := by
  intro p hp
  simp only [List.mem_cons, List.not_mem_nil, or_false] at hp
  rcases hp with rfl | rfl <;> exact acts_with (by decide)

theorem witness_save_status : ∀ s ∈ [saveRig [(6, 3)] id, saveRig [(6, 1)] id, saveRig [(6, 2)] (fun l => { l with ended := true }),
    saveRig [(6, 2)] (fun l => { l with pre := .saved }), saveRig [(6, 2), (7, 81919)] id],
    acting 0x00 10 saveFields s = true := by decide

/-- An area at 1 MiB of the second launch, saved with one team, and its 512 bytes of TDIMG. -/
def areaLow : List Host.Cell := memWith [(0x100000, 1), (0x100008, 2), (0x100050, 1)]
def areaImage : List Host.Cell := cellsAt 0x100060 ((List.range 512).map (Config.tdImage 0))
def areaHigh : List Host.Cell :=
  [(0x101008, 0x2000), (0x102008, decl), (0x102050, 73728)].foldl (fun m p => memPut m p.1 (leBytes 8 p.2)) []
def restRig (k : Launch → Launch) : State :=
  { saveRig [] (fun l => k { l with pre := .saved, saved := [1], placed := [0] }) fun th => { th with saveBase := 0x100000 } with
    mem := areaLow ++ (areaImage ++ areaHigh) }

theorem memGet_append_left {m n : List Host.Cell} {a : Nat} (h : (m.any fun x => x.1 == a) = false) :
    memGet (m ++ n) a = memGet n a := by
  induction m with
  | nil => rfl
  | cons x m ih =>
    simp only [List.any_cons, Bool.or_eq_false_iff, beq_eq_false_iff_ne] at h
    simp [memGet, h.1, ih h.2]

theorem memGet_cellsAt {bs : List Byte} {n : List Host.Cell} {a i : Nat} (h : i < bs.length) :
    memGet (cellsAt a bs ++ n) (a + i) = bs.getD i 0 := by
  induction bs generalizing a i with
  | nil => simp at h
  | cons b bs ih =>
    cases i with
    | zero => simp [cellsAt, memGet]
    | succ i =>
      have h' : i < bs.length := by simpa using h
      have := ih (a := a + 1) h'
      rw [show a + (i + 1) = a + 1 + i by omega]
      simp only [cellsAt, List.cons_append, memGet, List.getD_cons_succ]
      rw [if_neg (by omega), this]

theorem restRig_image (k : Launch → Launch) (j : Nat) (h : j < 512) :
    memGet (restRig k).mem (0x100060 + j) = Config.tdImage 0 j := by
  have hlow : (areaLow.any fun x => x.1 == 0x100060 + j) = false := by
    have : areaLow.all (fun x => x.1 < 0x100060) = true := by decide
    rw [List.any_eq_false]
    intro x hx
    have := List.all_eq_true.mp this x hx
    simp only [decide_eq_true_eq] at this
    simp only [beq_iff_eq]
    omega
  show memGet (areaLow ++ (areaImage ++ areaHigh)) _ = _
  rw [memGet_append_left hlow, areaImage, memGet_cellsAt (by simpa using h)]
  simp [h]

theorem witness_rest_area : imageGood (restRig id) ((restRig id).launch 2) 0x100000 = true := by
  have h : ((restRig id).launch 2).image = 0 := by decide +kernel
  simp only [imageGood, Bool.and_eq_true]
  refine ⟨⟨⟨⟨by decide +kernel, ?_⟩, by decide +kernel⟩, by decide +kernel⟩, by decide +kernel⟩
  rw [List.all_eq_true]
  intro j hj
  rw [h, beq_iff_eq, restRig_image id j (List.mem_range.mp hj)]

theorem witness_rest : ∃ c, Acts 0x00 11 Guard.always (ops 5 0 0 0) (restRig id) c ∧ c.th.saveBase.toNat = 0x100000 ∧
    memNat (restRig id).mem 0x100000 8 = 1 ∧ memNat (restRig id).mem 0x100008 8 = 2 ∧
    ((restRig id).launch? 2).map Launch.pre = some .saved ∧ ((restRig id).launch? 2).map Launch.saved = some [1] :=
  acts_with (by decide +kernel)

/-- REST of a launch that runs, of one being restored, and from an area that is none, that names no launch and whose
table is wrong. -/
theorem witness_rest_status : ∀ s ∈ [restRig fun l => { l with pre := .running }, restRig fun l => { l with pre := .restoring },
    saveRig [] id, restRig fun l => { l with seq := 7 }, restRig fun l => { l with saved := [1, 0] }],
    acting 0x00 11 (ops 5 0 0 0) s = true := by decide +kernel

theorem witness_rest_bad : imageGood (restRig fun l => { l with saved := [1, 0] })
    ((restRig fun l => { l with saved := [1, 0] }).launch 2) 0x100000 = false := by
  simp only [imageGood, Bool.and_eq_false_iff]
  exact Or.inl (Or.inl (Or.inr (by decide)))

/-! ### Witnesses: the herd -/

/-- Pattern registers: the largest that is sound, one that compares under a mask, no fields, nine fields, an operation 7
without a mask, a mask of a field that is compared itself, and a bit above the pattern. -/
theorem witness_patterns : patternBad 0x08000000 = false ∧ patternBad 0x03400007 = false ∧ patternBad 0 = true ∧
    patternBad 0x09000000 = true ∧ patternBad 0x03000007 = true ∧ patternBad 0x0320000F = true ∧
    patternBad 0x13000000 = true := by decide

/-- Tuples of an ordered region: two of class 2 and 5 that a take of kind 7 accepts, one pending, one of another kind. -/
def ranked : Herd :=
  let t (dep kind : Nat) (field7 : Word) (pending : Nat) : HTuple :=
    ⟨6, [BitVec.ofNat 64 kind, 0, 0, 0, 0, 0, 0, field7], pending, dep, dep⟩
  { rigHerd with tuples := [t 1 7 0x522 0, t 2 7 0x55 0, t 3 7 0xF22 0, t 4 7 0x77 1, t 5 8 0x77 0], arrivals := 6 }

def takeSeven (uid : Nat) (op : HOp) : HReq :=
  ⟨uid, .thread ⟨0, 0⟩, op, 6, [7, 0, 0, 0, 0, 0, 0, 0], 0x03000000, 0, 0, 0⟩

theorem witness_select : (takeSeven 9 (.tak false)).region ≠ pageRegion ∧
    (ranked.select true (takeSeven 9 (.tak false))).map HTuple.dep = some 2 ∧
    (ranked.select false (takeSeven 9 (.tak false))).map HTuple.dep = some 1 ∧
    rigHerd.select true (takeSeven 9 (.tak false)) = none := by decide

/-- Ageing: a tuple of a lower class, with AGE 5 and 15, one of the same class, one pending and one of another kind. -/
theorem witness_age : ∀ x ∈ ranked.tuples, x.fields.length = 8 := by decide

/-- x2 and x3 name regions 5 and 6, x4 a pattern of three fields, x5 a count for HDEPC, x6 the region of faults. -/
def herdRig : State :=
  rigX [(2, 0x80000000), (3, 0xC0000000), (4, 0x03000000), (5, 65535), (6, 0x100000000)]

theorem witness_requests : ∀ x ∈ [(0, ops 16 2 0 0), (0, ops 16 3 0 0x1A 0), (1, ops 16 2 5 0x2F), (2, ops 16 3 4 7),
    (3, ops 32 2 4 0x5A), (4, ops 32 3 4 0x5A), (5, ops 32 6 4 0), (6, ops 32 2 4 8)],
    acting 0x28 x.1 x.2 herdRig (fun c =>
      decide (c.th.cntSt < 63 ∧ c.th.cntLd < 63 ∧ depositsOut herdRig c.t.core < 64 ∧
        parkedHeld c.t < (declOf c.t.rdw).park) && c.th.linkFail.isNone && !patternBad (c.x 4) &&
      (herdRegion herdRig c (if x.1 ≤ 1 then .herdW else if x.1 = 3 ∨ x.1 = 5 then .herdR else .herdRW) (c.x x.2.a.toNat)).isOk) =
      true := by decide

/-- HERD: no page, no region, one that another die created, a count past 65,535, a bad pattern, a team without parking
entries and one whose entries are held. -/
def herdTrapRig (regions : List Region) (e : Team → Team := id) : State :=
  { rig id fun t => e (withX [(2, 0x80000000), (3, 0xC0000000), (4, 0x03000000), (5, 65536), (7, 0x140000000)] t) with
    herd := { regions := regions } }

theorem witness_herd_traps :
    (∀ x ∈ [(2, Acc.herdRW), (3, .herdR), (4, .herdRW), (5, .herdR), (6, .herdRW)], ∀ n ∈ [2, 3, 7],
      let a := BitVec.ofNat 10 n
      let s := herdTrapRig [⟨5, false, 3, 1, 0x10000000, 1⟩]
      acting 0x28 x.1 (ops 32 a 4 0) s (fun c => decide (c.th.cntLd < 63) && stopped (herdRegion s c x.2 (c.x a.toNat))) = true) ∧
    (let s := herdTrapRig rigHerd.regions
     acting 0x28 1 (ops 16 2 5 0) s (fun c => decide (c.th.cntSt < 63 ∧ depositsOut s c.t.core < 64) &&
       (herdRegion s c .herdW (c.x 2)).isOk) = true ∧
     acting 0x28 4 (ops 32 2 5 0) s (fun c => (herdRegion s c .herdRW (c.x 2)).isOk && patternBad (c.x 5)) = true) ∧
    ∀ x ∈ [(4, Acc.herdRW), (3, .herdR)],
      (let s := herdTrapRig rigHerd.regions fun t => { t with rdw := BitVec.ofNat 64 (decl - 2 ^ 53) }
       acting 0x28 x.1 (ops 32 2 4 0) s (fun c => (herdRegion s c x.2 (c.x 2)).isOk && !patternBad (c.x 4) &&
         decide ((declOf c.t.rdw).park = 0)) = true) ∧
      let s := herdTrapRig rigHerd.regions fun t => { t with threads := t.threads.modify 1 fun th =>
        { th with herd := (List.range 8).map fun n => ⟨n, 4, 0, 2, 7, none, 6, 7, 0⟩ } }
      acting 0x28 x.1 (ops 32 2 4 0) s (fun c => (herdRegion s c x.2 (c.x 2)).isOk && !patternBad (c.x 4) &&
        decide ((declOf c.t.rdw).park ≤ parkedHeld c.t)) = true := by decide +kernel

/-- Thread 0 has a parked take into v32. -/
def takeRig : State :=
  { herdRig with
    teams := (rig (fun th => { th with herd := [⟨9, 4, 32, 6, 7, some 1, 6, 7, 0⟩], cntLd := 1 }) (withX [(3, 0xC0000000)])).teams
    herd := { rigHerd with parked := [takeSeven 9 (.tak false)] } }

/-- HCAN of the take, and of a request that the thread has not. -/
theorem witness_hcan : ∃ c, AtEffect 0x28 7 0 false true Guard.always (ops 32 0 0 0x29) takeRig c ∧ c.th.cntLd < 63 ∧
    (c.th.herd.find? fun p => (p.fn == 3 || p.fn == 4) && p.d == 32).isSome = true := by
  obtain ⟨c, h, hp⟩ := of_stands (op := 0x28) (fn := 7) (x := 0) (ext := false) (skipV := true) (g := Guard.always)
    (f := ops 32 0 0 0x29) (s := takeRig) (p := fun c => decide (c.th.cntLd < 63 ∧
      (c.th.herd.find? fun p => (p.fn == 3 || p.fn == 4) && p.d == 32).isSome = true)) (by decide)
  exact ⟨c, h, of_decide_eq_true hp⟩

theorem witness_hcan_none : ∃ c, AtEffect 0x28 7 0 false true Guard.always (ops 48 0 0 0x29) takeRig c ∧
    (c.th.herd.find? fun p => (p.fn == 3 || p.fn == 4) && p.d == 48) = none := by
  obtain ⟨c, h, hp⟩ := of_stands (op := 0x28) (fn := 7) (x := 0) (ext := false) (skipV := true) (g := Guard.always)
    (f := ops 48 0 0 0x29) (s := takeRig) (p := fun c => decide ((c.th.herd.find? fun p =>
      (p.fn == 3 || p.fn == 4) && p.d == 48) = none)) (by decide)
  exact ⟨c, h, of_decide_eq_true hp⟩

/-- HCRE of a free number and ground, and of ground another region has; HDEL of a region. -/
theorem witness_regions : (∃ c, Acts 0x28 8 Guard.always (ops 0 2 3 0) (rigX [(2, 0x30000000), (3, 0x1004007)]) c ∧
      regionBad (rigX [(2, 0x30000000), (3, 0x1004007)]) (c.x 2).toNat (c.x 3).toNat = false) ∧
    (∃ c, Acts 0x28 8 Guard.always (ops 0 2 3 0) (rigX [(2, 0x10000000), (3, 0x1004007)]) c ∧
      regionBad (rigX [(2, 0x10000000), (3, 0x1004007)]) (c.x 2).toNat (c.x 3).toNat = true) ∧
    ∃ c, Acts 0x28 9 Guard.always (ops 0 2 0 0) (rigX [(2, 5)]) c ∧ (c.x 2).toNat < 4096 ∧
      (rig.herd.region? (c.x 2).toNat).isSome = true :=
  ⟨acts_with (by decide), acts_with (by decide), acts_with (by decide)⟩

/-- A request on its way, in a herd. -/
def flyRig (h : Herd) (q : HReq) : State := { rig with herd := { h with flying := [q] } }

/-- A herd whose region 6 has no room. -/
def fullHerd : Herd := { ranked with regions := [⟨6, true, 4, 0, 0x10010000, 0⟩] }

/-- Deposits, copies, takes and a decrement that arrive: with room and without, with a tuple to select and without. -/
theorem witness_arrivals : ∀ x ∈ [(ranked, takeSeven 9 (.dep 0 false)), (ranked, takeSeven 9 (.dep 3 false)),
      (fullHerd, takeSeven 9 (.dep 0 true)), (fullHerd, takeSeven 9 (.dep 0 false)), (ranked, takeSeven 9 (.cpy false)),
      (ranked, takeSeven 9 (.tak false)), (rigHerd, takeSeven 9 (.cpy true)), (rigHerd, takeSeven 9 (.tak false)),
      (ranked, takeSeven 9 .dec), (rigHerd, takeSeven 9 .dec)],
    Awake (flyRig x.1 x.2) ∧ arrival (flyRig x.1 x.2) 9 = some x.2 ∧ (x.1.region? 6).map Region.num = some 6 := by decide

/-- A take whose tuple holds an uncorrectable error, found and not. -/
def flawRig (found : Bool) : State :=
  { rig fun th => { th with herd := [⟨9, 4, 32, 6, 7, some 1, 6, 7, 0x4008⟩], cntLd := 1 } with
    herd := { ranked with flying := [takeSeven 9 (.tak false)], flaws := [(2, found)] } }

theorem witness_flaw : ∀ b, let s := flawRig b
    Awake s ∧ arrival s 9 = some (takeSeven 9 (.tak false)) ∧ (s.herd.region? 6).isSome = true ∧
    (s.herd.select true (takeSeven 9 (.tak false))).map HTuple.dep = some 2 ∧
    s.herd.flaws.find? (fun x => x.1 == 2) = some (2, b) ∧
    (s.viewOf ⟨0, 0⟩).any (fun c => c.th.run == .running && c.th.herd.map HPend.uid == [9] &&
      c.th.herd.all (fun p => p.pc != 0) && c.th.pend.isEmpty) = true := by decide

/-- The same of a request that a restore has sent anew; and a decrement that ends the wait of a spoilt tuple, which a
parked take accepts. -/
theorem witness_flaw_again : let s := { flawRig true with
      teams := (rig fun th => { th with herd := [⟨9, 4, 32, 6, 7, some 1, 6, 7, 0⟩], cntLd := 1 }).teams }
    Awake s ∧ arrival s 9 = some (takeSeven 9 (.tak false)) ∧ (s.herd.select true (takeSeven 9 (.tak false))).map HTuple.dep = some 2 ∧
    s.herd.flaws.find? (fun x => x.1 == 2) = some (2, true) ∧
    (s.viewOf ⟨0, 0⟩).any (fun c => c.th.run == .running && (c.th.herd.map fun p => (p.uid, p.pc)) == [(9, 0)]) = true := by decide

theorem witness_hdec_spoilt : let s := flyRig { ranked with parked := [takeSeven 8 (.tak false)], flaws := [(4, true)] } (takeSeven 9 .dec)
    Awake s ∧ arrival s 9 = some (takeSeven 9 .dec) ∧ (s.herd.oldestPending (takeSeven 9 .dec)).any (fun p =>
      p.pending == 1 && p.dep == 4 && (takeSeven 8 (.tak false)).accepts p.region p.fields && s.herd.tuples.contains p &&
      (s.herd.tuples.all fun x => x.dep != 4 || x == p)) = true := by decide

/-- A tuple offered to parked copies alone, and to two copies, a take that accepts it and another. -/
theorem witness_offer : let t : HTuple := ⟨6, [7, 0, 0, 0, 0, 0, 0, 0], 0, 9, 9⟩
    let copy (n : Nat) : HReq := takeSeven n (.cpy false)
    let take (n : Nat) : HReq := takeSeven n (.tak false)
    t.dep ≠ 0 ∧ (copy 1).accepts t.region t.fields = true ∧ (take 2).accepts t.region t.fields = true ∧
    (∀ q ∈ [copy 1, copy 3], q.op = .cpy false) ∧ (take 2).op ≠ .cpy false ∧ (take 2).op ≠ .cpy true ∧
    ({ rigHerd with parked := [copy 1, take 2, copy 3] } : Herd).parked = [copy 1] ++ take 2 :: [copy 3] := by decide

theorem witness_full : fullHerd.count 6 = 5 ∧ (fullHerd.region? 6).map Region.size = some 0 ∧ ranked.count 6 < 512 ∧
    (ranked.oldestPending (takeSeven 9 .dec)).map HTuple.pending = some 1 ∧ rigHerd.oldestPending (takeSeven 9 .dec) = none := by
  decide

/-- A withdrawal that arrives, of a parked request and of one that is not. -/
theorem witness_withdrawal : ∀ n ∈ [9, 8],
    let q : HReq := takeSeven 12 (.can n)
    let h : Herd := { rigHerd with parked := [takeSeven 9 (.tak false)] }
    Awake (flyRig h q) ∧ arrival (flyRig h q) q.uid = some q ∧
    ∀ p ∈ (flyRig h q).herd.flying, p.uid ≠ n := by decide

/-- A deposit that waits, in a region with room again. -/
theorem witness_admit : let s : State := { rig with herd := { ranked with waiting := [takeSeven 9 (.dep 0 false)] } }
    Awake s ∧ (s.herd.region? 6).map (fun r => (r.num, decide (s.herd.count 6 < r.size * 512))) = some (6, true) ∧
    s.herd.waiting.find? (fun p => p.region == 6 && p.fields.getD 0 0 == 7) = some (takeSeven 9 (.dep 0 false)) := by decide

/-- A thread waits for the end of region 6, which holds tuples and parked and waiting requests. -/
def delRig : State :=
  { rig fun th => { th with wait := .hdel 6 } with
    herd := { fullHerd with parked := [takeSeven 9 (.tak false)], waiting := [takeSeven 10 (.dep 0 false)] } }

theorem witness_hdel : ∃ c, delRig.viewOf ⟨0, 0⟩ = some c ∧ Awake delRig ∧ c.th.wait = .hdel 6 ∧
    delRig.herd.admissionDue 6 = false ∧ ∀ q ∈ delRig.herd.flying, q.region ≠ 6 := ⟨_, rfl, by decide⟩

/-- Completions for a thread: a match of three fields with a code register, a failure, a deposit; and the fault unit's. -/
def doneRig (fn d code : Nat) : State :=
  { rig fun th => { th with herd := [⟨9, fn, d, if code = 0 ∧ 2 ≤ fn then 6 else 0, 2, some 1, 6, 7, 0⟩], cntLd := 3, cntSt := 3 } with
    herd := { rigHerd with done := [⟨9, .thread ⟨0, 0⟩, .tak false, 6, code, [7, 0x100000002, 3, 4, 5, 6, 7, 8]⟩] } }

theorem witness_done : ∀ s ∈ [doneRig 4 32 0, doneRig 4 32 3, doneRig 0 0 0],
    Awake s ∧ (s.herd.done.find? fun x => x.uid == 9).isSome = true ∧
    ((s.viewOf ⟨0, 0⟩).bind fun c => c.th.herd.find? fun p => p.uid == 9).isSome = true ∧
    ((s.viewOf ⟨0, 0⟩).map fun c => c.th.wait) = some .none := by decide

def fuDone : HDone := ⟨9, .fu 3, .tak false, 0xFFE, 0, [0, 3, 2, 0x4088, 0, 0, 0, 0]⟩
def fuRig : State := { rig with herd := { rigHerd with done := [fuDone] } }

theorem witness_done_fu : Awake fuRig ∧ fuRig.herd.done.find? (fun x => x.uid == fuDone.uid) = some fuDone ∧ fuDone.code = 0 := by
  decide

/-! ### Witnesses: across threads -/

/-- The cross-thread words, as thread 0 executes them. -/
def crossWords : List (Nat × Fields) :=
  [(0, ops 8 9 10 0x14), (1, ops 1 2 0 0), (1, ops 8 2 0 3), (2, ops 8 9 0 6), (3, ops 8 9 0 0x10), (4, ops 3 0 0 0)]

/-- The other members' arrivals at the instance of thread 0's group, thread 2 under a false guard, thread `last` to
`fn`. -/
def crossRig (x : Nat × Fields) (tids : List Nat) (fn : Nat) : State :=
  let arrival (n : Nat) : Arrival :=
    ⟨n, n != 2, 0x30, if n = 3 then fn else x.1, x.2, BitVec.ofNat 32 n, 3, n == 1, {}⟩
  rig id fun t => { t with instances := [⟨0, 0, tids.map arrival, none, []⟩] }

/-- Thread 0 arrives at a new instance, at one that lacks a member, at one that it completes, under a false guard as
well, and at one whose members disagree. -/
theorem witness_cross : ∀ x ∈ crossWords, ∀ l ∈ [[], [1, 3], [1, 2, 3]], ∀ b : Bool, ∀ gp ∈ [(7 : BitVec 3), 6],
    let s := crossRig x l (if b then x.1 else x.1 + 1)
    (match s.view with
      | none => false
      | some c => c.canIssue && !c.hazard (shapeVecs (shape 0x30 x.1 x.2) x.2) (shapeXs (shape 0x30 x.1 x.2) x.2)
          (gp.toNat :: (shape 0x30 x.1 x.2).preds) && !wordWaits s c (shapeVecs (shape 0x30 x.1 x.2) x.2) &&
        (frontTrap 0x30 x.1 0 ⟨gp, false⟩ x.2 c false).isNone && c.th.xseq == 0 && (c.t.groupAlive 0).length == 4 &&
        (c.flawTrap (sourceVecs 0x30 x.1 x.2) (sourceXs 0x30 x.1 x.2) 0).isNone && c.th.quiet) = true := by
  decide

/-- An instance that has failed, before a member that has not raised its fault. -/
theorem witness_cross_failed : ∀ x ∈ crossWords,
    let s := rig id fun t => { t with instances := [⟨0, 0, [], some 2, [1]⟩] }
    (match s.view with
      | none => false
      | some c => c.canIssue && c.th.quiet && (frontTrap 0x30 x.1 0 Guard.always x.2 c false).isNone &&
        ((c.t.instances.find? fun j => j.group == 0 && j.count == c.th.xseq).map Instance.failed) == some (some 2)) = true := by
  decide

/-- Another instance of the team that still lacks a member. -/
theorem witness_cross_other : ∃ n ∈ (newTeam rigLaunch ⟨0, 0, 0, 0x20000, 0⟩).groupAlive 0, n ∉ ([] : List Nat) := ⟨0, by decide, by decide⟩

/-- Arrivals of one instance for the values of the cross-thread words. -/
def arrivalsOf (fn : Nat) (c : BitVec 10) (mod : BitVec 3 := 0) : List Arrival := [0, 1, 5, 31].map fun n =>
  { tid := n, active := true, op := 0x30, fn := fn, fields := ops 8 9 10 c mod, val := BitVec.ofNat 32 (n * 0x20000001 + 1),
    lane := 5, bit := n % 2 == 1 }

theorem witness_cross_values : ∀ x ∈ [(0, (0x14 : BitVec 10)), (0, 0x0D), (1, 0), (1, 3), (2, 0), (2, 8), (3, 0x11), (4, 0)],
    ((arrivalsOf x.1 x.2).map Arrival.tid).Pairwise (· < ·) ∧
    ∀ a ∈ arrivalsOf x.1 x.2, ∀ b ∈ arrivalsOf x.1 x.2,
      b.tid / 32 = a.tid / 32 ∧ b.fn = a.fn ∧ b.fields.c = a.fields.c ∧ b.fields.mod = a.fields.mod := by decide

/-! ### Witnesses: hardware barriers and barrier registers -/

/-- Hardware barrier `b` of the team holds `k`. -/
def hwRig (b : Nat) (k : HwBar) : State := rig id fun t => { t with hbars := t.hbars.set b k }

/-- BAR and BARA of team and cluster scope, as one member of four and as the last; BARW of a phase that is over and of the
one under way; and a barrier of launch scope, which the launch has not. -/
theorem witness_bar : ∀ x ∈ [(5, ops 0 0 0 4), (6, ops 2 0 0 4), (5, ops 0 0 0 1), (7, ops 2 0 0 4), (7, ops 2 0 0 1)],
    ∀ s ∈ [rig, hwRig 1 ⟨[⟨0, 1⟩, ⟨0, 2⟩, ⟨0, 3⟩], false⟩, hwRig 1 ⟨[], true⟩],
    acting 0x30 x.1 x.2 s (fun c => decide (c.t.hbars.length = 4) && (s.launch? c.t.seq).isSome && c.t.rdw.getLsbD 61 &&
      (s.queue.all fun e => e.core != c.t.core) && c.th.linkFail.isNone && c.t.xpend.isEmpty &&
      decide (c.r ∉ (s.hwBar c.r.team (if x.2.c = 1 then 1 else 0) (if x.2.c = 1 then 0 else 1)).arrived)) = true := by decide

theorem witness_bar_last : let s := hwRig 1 ⟨[⟨0, 1⟩, ⟨0, 2⟩, ⟨0, 3⟩], false⟩
    (s.barTeams 0 0).length = s.barExpected 0 0 ∧
    ∀ m ∈ s.barAlive (s.barTeams 0 0), m ∈ (s.hwBar 0 0 1).arrived ++ [⟨0, 0⟩] := by decide

/-- A second arrival of thread 0 in one phase. -/
theorem witness_bar_again : ∀ x ∈ [(5, ops 0 0 0 4), (6, ops 2 0 0 4)],
    acting 0x30 x.1 x.2 (hwRig 1 ⟨[⟨0, 0⟩], false⟩) (fun c => decide (c.r ∈ ((hwRig 1 ⟨[⟨0, 0⟩], false⟩).hwBar 0 0 1).arrived)) =
      true := by decide

/-- A launch that asks for no clusters. -/
def aloneRig : State := rig id fun t => { t with rdw := BitVec.ofNat 64 (decl - 2 ^ 61) }

theorem witness_bar_scope : ∀ x ∈ [(5, ops 0 0 0 1), (5, ops 0 0 0 2), (6, ops 2 0 0 2), (7, ops 2 0 0 1)],
    ∃ c, Acts 0x30 x.1 Guard.always x.2 aloneRig c ∧ c.t.rdw.getLsbD 61 = false ∧ c.t.rdw.getLsbD 62 = false := fun x hx => by
  obtain ⟨c, h, hp⟩ := of_acting (List.all_eq_true.mp (show _ = true by decide :
    ([(5, ops 0 0 0 1), (5, ops 0 0 0 2), (6, ops 2 0 0 2), (7, ops 2 0 0 1)].all fun x => acting 0x30 x.1 x.2 aloneRig fun c =>
      decide (c.t.rdw.getLsbD 61 = false ∧ c.t.rdw.getLsbD 62 = false)) = true) x hx)
  exact ⟨c, h, of_decide_eq_true hp⟩

/-- Barrier register 3 of the team is as given, and thread 1 waits. -/
def brRig (k : BarReg) (w : Wait := .none) (xs : List (Nat × Word) := []) (q : StreamReg := {}) : State :=
  rig id fun t => { withX xs t with
    bars := t.bars.set 3 k
    strms := t.strms.set 2 q
    threads := t.threads.modify 1 fun th => { th with wait := w } }

/-- An event that leaves a phase open, one that completes it, and one that invalidates, before threads that wait there. -/
theorem witness_bar_event : ∀ k ∈ [({ valid := true, ea := 2, ra := 1, rb := 5, eb := 0 } : BarReg), { valid := true, ea := 2 }, {}],
    ∀ w ∈ [Wait.none, .brwait 3 2 false, .brwait 4 2 false, .qpop 2 0 8],
    ((brRig k w).teams[0]?).map (fun t => (t.bar 3, t.bars.length)) = some (k, 16) ∧
    ((brRig k w).thread ⟨0, 1⟩).map (fun th => (th.wait, th.run, th.quiet)) = some (w, .running, true) := by decide

/-- A stream whose first slot has the register, and a waiter that awaits a result (01 R23). -/
theorem witness_bar_stream : ((brRig {} (.qpop 2 0 8) [] { valid := true, desc := 0x30001000000000 }).teams[0]?).map
      (fun t => (t.strm 2).barOf 0) = some 3 ∧
    ({ pend := [⟨3, [(2, 5, {})], [], true, true⟩] } : Thread).quiet = false := by decide

/-- Each instruction on barrier registers on a valid and on an invalid register, at the limits of its operand. -/
def brWords : List (Nat × Fields) :=
  [(0, ops 3 2 0 0), (1, ops 3 2 0 0), (2, ops 3 1 0 0), (3, ops 3 0x11 0 0), (4, ops 3 0x11 0 0), (5, ops 3 0 0 0)]

theorem witness_bar_words : ∀ x ∈ brWords, ∀ p ∈ [(({ valid := true, ea := 2, ra := 1, rb := 5, eb := 0 } : BarReg), (2 : Word)),
      ({ valid := true, ea := 2, rb := 2 ^ 39 - 1 }, 1), ({}, 1024), ({}, 1025)],
    acting 0x31 x.1 x.2 (brRig p.1 .none [(2, p.2)]) (fun c => c.th.linkFail.isNone) = true := by decide

/-! ### Witnesses: copies and streams -/

def copyXs : List (Nat × Word) := [(2, 0x5000), (3, 0x6FF0), (4, 0x100), (5, 0x100), (6, 0x800), (7, 0x8), (8, 0x10010)]

/-- A word acts, and the checks on its operands pass. -/
def copies (f : Fields) (s : State) : Bool := acting 0x38 0 f s fun c =>
  let dst := c.x f.a.toNat
  let src := c.x f.b.toNat
  let n := (c.x f.c.toNat).toNat
  decide (c.th.cntAs < 63 ∧ n ≠ 0 ∧ n ≤ 65536 ∧ n % 16 = 0 ∧ dst.toNat % 16 = 0 ∧ src.toNat % 16 = 0) &&
  (if f.isX then partitionRun c dst n else translateRange s c .cpyDst dst n).isOk &&
  (if f.isN then partitionRun c src n else translateRange s c .cpySrc src n).isOk

/-- CPY across a page, into a partition, from one, without a barrier register; its alignment checks at their edges. -/
theorem witness_cpy : ∀ f ∈ [ops 3 2 3 4, ops 3 5 3 4 4, ops 3 2 6 4 2, ops 0 2 3 4 1], copies f (rigX copyXs) = true := by decide

theorem witness_cpy_checks : ∀ f ∈ [ops 3 2 3 0, ops 3 2 3 8, ops 3 2 3 7, ops 3 7 3 4, ops 3 2 7 4],
    acting 0x38 0 f (rigX copyXs) (fun c => decide (c.th.cntAs < 63)) = true ∧ copies f (rigX copyXs) = false := by decide

/-- CPYP of two planes of 8 blocks into a partition and into memory. -/
theorem witness_cpyp : ∀ f ∈ [ops 3 2 6 7, ops 3 2 8 7 4],
    let s := rigX [(2, 0x40010000), (3, 0xE004), (6, 0x5000), (7, 0x10000400080000), (8, 0x100)]
    acting 0x38 1 f s (fun c =>
      decide (c.th.cntAs < 63) && (planeSet (c.x 2) (c.x 3)).isOk &&
      (List.range 2).all fun k =>
        (copyRange s c .cpypDst f.isX (c.x f.b.toNat + BitVec.ofNat 64 (k * 16)) 16).isOk &&
        (planePieces s c 4 (pagePieces 2 ((⟨0x40010000, 14, 4⟩ : PlaneSet).address k 0).toNat 16)).isOk) = true := by decide

/-- CPYP's checks one by one: its descriptor, its planes, its blocks, its reserved bits, its barrier registers, its
destination, and the first page of a target and of a source. -/
theorem witness_cpyp_traps : ∀ x ∈ [(0x40010000, 0, 0x10000400080000, 3, 0x5000, 1), (0x40010000, 0xE004, 0x100005E0080000, 3, 0x5000, 2),
      (0x40010000, 0xE004, 0x10000400080100, 3, 0x5000, 3), (0x40010000, 0xE004, 0x10000400040000, 3, 0x5000, 4),
      (0x40010000, 0xE004, 0x10000400080000, 15, 0x5000, 5), (0x40010000, 0xE004, 0x10000400080000, 3, 0x5008, 6),
      (0x40010000, 0xE004, 0x10000400080000, 3, 0x7FC000000000, 7), (0x7FC000000000, 0xE004, 0x10000400080000, 3, 0x5000, 8)],
    let s := rigX [(2, BitVec.ofNat 64 x.1), (3, BitVec.ofNat 64 x.2.1), (6, BitVec.ofNat 64 x.2.2.2.2.1), (7, BitVec.ofNat 64 x.2.2.1)]
    acting 0x38 1 (ops (BitVec.ofNat 10 x.2.2.2.1) 2 6 7) s (fun c => decide (c.th.cntAs < 63) &&
      let w := x.2.2.1
      let b0 := w % 2 ^ 16
      let nb := w / 2 ^ 16 % 2 ^ 13
      let j0 := w / 2 ^ 29 % 32
      let npm := w / 2 ^ 34 % 8
      (if (planeSet (c.x 2) (c.x 3)).isOk == false then 1 else if 15 < j0 + npm then 2 else if 256 < b0 + nb then 3
        else if nb < 8 then 4 else if (declOf c.t.rdw).bars ≤ x.2.2.2.1 + npm then 5 else if (c.x 6).toNat % 16 ≠ 0 then 6
        else if stopped (copyRange s c .cpypDst false (c.x 6) (2 * nb)) then 7
        else if stopped (planePieces s c 4 (pagePieces 2 x.1 (2 * nb))) then 8 else 0) == x.2.2.2.2.2) = true := by decide +kernel

/-- Ranges at the ends of both partitions, one past them, and a plane page of another stride. -/
theorem witness_partition : ∃ c, planeRig.view = some c ∧ (declOf c.t.rdw).scr = 0x1000 ∧ (declOf c.t.rdw).ext = 0x800 ∧
    (partitionRun c 0xF00 0x100).isOk = true ∧ (partitionRun c 0xF00 0x110).isOk = false ∧
    (partitionRun c 0x20700 0x100).isOk = true ∧ (partitionRun c 0x20700 0x110).isOk = false ∧
    (translate planeRig c .cpypSrc 0x40010000).isOk = true ∧
    (planePieces planeRig c 4 [(0x40010000, 16)]).isOk = true ∧ (planePieces planeRig c 5 [(0x40010000, 16)]).isOk = false :=
  ⟨_, rfl, by decide⟩

/-- Stream 2 has two slots of 256 bytes from byte 256 of the scratchpad, with barrier registers 5 and 6. -/
def streamRig (f p r : Nat) (k : BarReg := {}) (claims : List (Nat × Nat) := []) : State :=
  rig id fun t => { withX [(2, 0x6000), (3, 0x100), (4, 0x51001000000100), (5, 0x51501000000100)] t with
    strms := t.strms.set 2 { valid := true, desc := 0x51001000000100, f := f, p := p, r := r, claims := claims }
    bars := t.bars.set 5 k }

/-- QCFG of zero, of a descriptor, of one with a reserved bit, over a stream in use and a free one. -/
theorem witness_qcfg : ∀ f ∈ [ops 2 0 0 0, ops 2 4 0 0, ops 2 5 0 0], ∀ s ∈ [streamRig 1 1 0, streamRig 1 1 1, rigX [(4, 0x51001000000100)]],
    acting 0x38 2 f s (fun c => decide (2 < c.t.strms.length) && (partitionRun c 0x100 0x200).isOk) = true := by decide

/-- QCFG's checks one by one: its fields, its barrier registers, its alignment and its range. -/
theorem witness_qcfg_traps : ∀ x ∈ [(0x151001000000100, 1), (0xF1001000000100, 2), (0x51001000000108, 3), (0x51001000010000, 4)],
    acting 0x38 2 (ops 2 4 0 0) (rigX [(4, BitVec.ofNat 64 x.1)]) (fun c => decide (2 < c.t.strms.length) &&
      let n := x.1
      (if 2 ^ 56 ≤ n then 1 else if (declOf c.t.rdw).bars ≤ n / 2 ^ 52 % 16 + n / 2 ^ 48 % 8 then 2 else if n % 16 ≠ 0 then 3
        else if (partitionRun c (BitVec.ofNat 64 (n % 2 ^ 32)) 0x200).isOk then 0 else 4) == x.2) = true := by decide

/-- QFILL of 8 bytes, of more than a slot, and from an address out of line. -/
theorem witness_qfill_traps : ∀ x ∈ [(2, 4), (2, 5), (3, 6)],
    acting 0x38 3 (ops 2 (BitVec.ofNat 10 x.1) (BitVec.ofNat 10 x.2) 0) (rig id fun t =>
        { withX [(2, 0x6000), (3, 0x6008), (4, 8), (5, 0x110), (6, 0x100)] t with
          strms := t.strms.set 2 { valid := true, desc := 0x51001000000100 } })
      (fun c => decide (c.th.cntAs < 63)) = true := by decide

/-- QFILL of a whole slot, with its barrier register free and busy, and of a stream that is not valid. -/
theorem witness_qfill : ∀ s ∈ [streamRig 4 4 3, streamRig 4 4 3 { valid := true, eb := 5, rb := 5 },
      rigX [(2, 0x6000), (3, 0x100)]], acting 0x38 3 (ops 2 2 3 0) s (fun c => decide (c.th.cntAs < 63 ∧
      5 < c.t.bars.length) && (partitionRun c 0x100 0x100).isOk && (translateRange s c .cpySrc 0x6000 0x100).isOk) = true := by decide

/-- QPOP of a slot that is full, of one that is filling, of one whose barrier register is not valid, of no slot, and
of a stream that is not valid; QREL with and without a slot to release. -/
theorem witness_qpop : ∀ x ∈ [(4, ops 2 8 0 0), (5, ops 2 0 0 0)], ∀ s ∈ [streamRig 3 2 1 { valid := true, phase := true },
      streamRig 3 2 1 { valid := true }, streamRig 3 2 2, streamRig 2 2 1, rig],
    acting 0x38 x.1 x.2 s (fun c => decide (2 < c.t.strms.length) && c.th.linkFail.isNone) = true := by decide

/-! Copies under way -/

/-- A copy of 384 bytes to HBM with a barrier register, of which bytes 128 to 255 have landed. -/
def copyCmd (started : Bool) (landed : Nat) (bar : Option Nat) : CopyCmd :=
  { uid := 7, who := ⟨0, 0⟩, kind := 0, planes := [⟨bar, [⟨0x6FF0, 384⟩], [⟨0x5000, 384⟩], 384, landed⟩], started := started,
    words := [], spd := false, sps := false, nb := false, bar := 3, strm := 0, issue := 0, mark := 5, priv := true }

def copyRig (x : CopyCmd) : State :=
  { rig (fun th => { th with cntAs := 1 }) (fun t =>
      { t with bars := t.bars.set 3 { valid := true, rb := 256, eb := 384 } }) with
    copies := [x], mem := memPut rigMem 0x6FF0 (List.replicate 384 0xA5) }

theorem witness_copy_start : Awake (copyRig (copyCmd false 0 none)) ∧
    (copyRig (copyCmd false 0 none)).copy? 7 = some (copyCmd false 0 none) ∧
    ∀ e ∈ (copyRig (copyCmd false 0 none)).queue, e.core = 0 → (copyCmd false 0 none).mark ≤ e.uid := by decide

/-- A landing of the last 128 bytes, and of the first 16, with and without a barrier register. -/
theorem witness_landing : ∀ bar ∈ [none, some 3], ∀ p ∈ [(256, 128), (0, 16)],
    let s := copyRig (copyCmd true 0xFF00 bar)
    let src := ((span 0x6FF0 384).drop p.1).take p.2
    let dst := ((span 0x5000 384).drop p.1).take p.2
    p.1 + p.2 ≤ 384 ∧ (∀ i ∈ List.range 24, p.1 / 16 ≤ i → i < (p.1 + p.2) / 16 → (0xFF00).testBit i = false) ∧
    sleeping s (src ++ dst) = false ∧ dst.any isOutside = false ∧ src.any isOutside = false ∧ damaged s src = false := by
  decide

theorem witness_copy_done : (copyRig (copyCmd true (2 ^ 24 - 1) none)).copy? 7 = some (copyCmd true (2 ^ 24 - 1) none) ∧
    (∀ p ∈ (copyCmd true (2 ^ 24 - 1) none).planes, p.landed = 2 ^ (p.len / 16) - 1) ∧
    ((copyRig (copyCmd true (2 ^ 24 - 1) none)).thread ⟨0, 0⟩).isSome = true := by decide

/-! ### Witnesses: tiles -/

/-- A tile of 16 rows and columns: EW code, offset in units of 128 bytes; and a plane tile of 14 mantissa planes. -/
def tileDesc (ew off : Nat) : Word := BitVec.ofNat 64 (2 ^ 63 + ew * 2 ^ 22 + off)
def planeDesc (off : Nat) : Word := BitVec.ofNat 64 (2 ^ 63 + 14 * 2 ^ 25 + 2 ^ 24 + 2 * 2 ^ 22 + off)

/-- Tiles 0 (F32), 1 (planes, of which 3 are held), 2 (4 bits), 3 and 4 (16 bits); convergence register 2 is as given. -/
def tileRig (xs : List (Nat × Word)) (k : ConvReg := {}) (tiles : List TileCmd := []) : State :=
  { rig (withV [(4, 15), (5, 15), (6, 0xABCDEF19)]) (fun t => { withX xs t with
      tdesc := [tileDesc 3 0, planeDesc 8, tileDesc 0 14, tileDesc 2 16, tileDesc 2 20] ++ List.replicate 59 0
      ttag := t.ttag.set 1 { pval := true, pcnt := 3, sig := planeSig (0x40010000 + 4) 0 }
      convs := t.convs.set 2 k }) with
    tiles := tiles }

/-- A command on the tile file of the team's cluster. -/
def tileCmd (uid fn d : Nat) (descs : List Word) : TileCmd :=
  { uid := uid, cluster := 0, team := 0, tid := 0, fn := fn, d := d, sp := false, words := [], descs := descs, tags := [],
    extents := [], arg := [], signers := [], issue := 0, mark := 0, priv := true }

/-- TSET of zero, of a tile at the end of the tile file, past it, over another tile and malformed; and of a tile that
a command still names. -/
theorem witness_tset : ([0, tileDesc 3 248, tileDesc 3 249, tileDesc 0 7, tileDesc 0 6, planeDesc 28 + 0x8000, 5].all fun v =>
    acting 0x40 0 (ops 5 2 0 0) (tileRig [(2, v)]) fun c => !c.t.pendingTile 5) = true := by decide

def pendingRig : State := tileRig [(2, 0)] { signed := [0], opRec := some ⟨false, 0x82, 0, 0⟩ } [tileCmd 3 6 2 [tileDesc 0 14]]

theorem witness_tset_pending : acting 0x40 0 (ops 2 2 0 0) pendingRig = true ∧
    ∃ c, pendingRig.view = some c ∧ c.t.pendingTile 2 = true := ⟨by decide, _, rfl, by decide⟩

/-- A tile that is absent, one of the other kind, addresses and strides out of line, a stride shorter than a row, an
element past the last row and past the last column; rows with no page and past the partition. -/
theorem witness_tile_traps : let s := tileRig [(2, 0x5FF8), (3, 8), (4, 4), (5, 0), (6, 0x7FC000000000), (7, 0x1000)]
    (∀ x ∈ [(2, ops 9 2 3 0), (2, ops 1 2 3 0), (2, ops 2 4 3 0), (2, ops 2 2 4 0), (5, ops 9 2 3 0), (5, ops 2 2 5 0), (2, ops 2 6 3 0),
        (5, ops 2 6 3 0), (2, ops 2 7 3 0 4)],
      acting 0x40 x.1 x.2 s (fun c => decide (c.th.cntAs < 63) && tableRoom s (coreCluster c.t.core)) = true) ∧
    acting 0x40 6 (ops 9 0 0 0) s (fun c => decide (c.th.cntMx < 63)) = true ∧
    (∀ x ∈ [(7, ops 8 9 4 5), (7, ops 8 1 4 5), (7, ops 8 2 6 5), (7, ops 8 2 4 6), (8, ops 9 6 4 5), (8, ops 1 6 4 5), (8, ops 2 6 6 5)],
      acting 0x40 x.1 x.2 s = true) ∧
    viewed s (fun c => decide ((c.t.tdesc.getD 9 0).getLsbD 63 = false ∧ (c.t.tdesc.getD 1 0).getLsbD 24 = true ∧ 16 ≤ (c.v 6).toNat) &&
      stopped (translateRange s c .tileLoad (c.x 6) 8) && stopped (partitionRun c (c.x 7) 8)) = true := by decide +kernel

/-- TLDP and TREF: a pending tile, one that is absent and one of elements, control words out of form, a malformed plane
set, planes past the set's and past the tile's, blocks past the region's, no tag and another tag. -/
theorem witness_plane_tile_traps :
    let s := tileRig [(2, 0x40010000), (3, 0xE004), (4, 2), (5, 0x10E), (6, 0x1000000), (7, 0x12E), (8, 0x40010000), (9, 0), (10, 0x40010000),
      (11, 0x10004), (12, 0x10F), (13, 255), (14, 0x105), (15, 9)]
    (∀ f ∈ [ops 9 2 4 5, ops 0 2 4 5, ops 1 2 6 5, ops 1 2 4 7, ops 1 8 4 5, ops 1 2 4 12, ops 1 10 4 12, ops 1 2 13 5],
      acting 0x40 3 f s (fun c => decide (c.th.cntAs < 63) && tableRoom s (coreCluster c.t.core)) = true) ∧
    acting 0x40 4 (ops 1 2 15 14) s (fun c => (c.t.ttag.getD 1 {}).pval &&
      (c.t.ttag.getD 1 {}).sig != planeSig (0x40010000 + 2 * 9) 0) = true ∧
    acting 0x40 4 (ops 1 2 4 14) { s with teams := s.teams.map fun t => { t with ttag := List.replicate 64 {} } } (fun c =>
      (c.t.ttag.getD 1 {}).pval == false) = true ∧
    acting 0x40 3 (ops 1 2 4 5) { s with tiles := [tileCmd 3 3 1 [planeDesc 8]] } (fun c => c.t.pendingTile 1 == false) = true ∧
    acting 0x40 3 (ops 1 2 4 5) (tileRig [(2, 0x40010000), (3, 0xE004), (4, 2), (5, 0x10E)] { signed := [0], opRec := some ⟨false, 0x81, 0, 0⟩ })
      (fun c => c.t.pendingTile 1) = true := by decide +kernel

theorem witness_tget : ∀ f ∈ [ops 1 2 0 0, ops 1 2 0 0 1], acting 0x40 1 f (tileRig []) = true := by decide

/-- TLD and TST of the 4-bit tile from and to memory, with the least stride and a page crossed, and a partition; TZERO. -/
theorem witness_tld : ∀ x ∈ [(2, ops 2 2 3 0), (5, ops 2 2 3 0), (2, ops 2 4 3 0 4), (5, ops 2 4 3 0 4)],
    acting 0x40 x.1 x.2 (tileRig [(2, 0x5FF8), (3, 8), (4, 0xF80)]) (fun c => decide (c.th.cntAs < 63) &&
      ((List.range 16).all fun r =>
        let a := c.x x.2.a.toNat + BitVec.ofNat 64 r * 8
        (if x.2.isX then partitionRun c a 8 else translateRange (tileRig []) c (if x.1 = 2 then .tileLoad else .tileStore) a 8).isOk)) =
      true := by decide +kernel

theorem witness_tzero : acting 0x40 6 (ops 0 0 0 0) (tileRig []) (fun c => decide (c.th.cntMx < 63)) = true := by decide

/-- TLDP of all planes, TREF of planes that the tile holds and of two more. -/
theorem witness_tldp : ∀ x ∈ [(3, ops 1 2 4 5, 14), (4, ops 1 2 4 6, 3), (4, ops 1 2 4 7, 5)],
    let s := tileRig [(2, 0x40010000), (3, 0xE004), (4, 2), (5, 0x10E), (6, 0x103), (7, 0x105)]
    acting 0x40 x.1 x.2.1 s (fun c => decide (c.th.cntAs < 63) && !c.t.pendingTile 1 && (planeSet (c.x 2) (c.x 3)).isOk &&
      decide ((c.x x.2.1.c.toNat).toNat % 32 = x.2.2 ∧ (c.t.ttag.getD 1 {}).pval = true ∧
        (c.t.ttag.getD 1 {}).sig = planeSig ((⟨0x40010000, 14, 4⟩ : PlaneSet).address 0 2) 0) &&
      ((List.range (x.2.2 + 2)).all fun j => (List.range 16).all fun r =>
        (planeAt s c .planeTile ⟨0x40010000, 14, 4⟩ j (2 + r)).isOk)) = true := by decide +kernel

/-- TRDV and TWRV of the last element of the 4-bit tile and of the F32 tile. -/
theorem witness_element : ∀ x ∈ [(7, ops 8 2 4 5, 2), (8, ops 2 6 4 5, 2), (7, ops 8 0 4 5, 0), (8, ops 0 6 4 5, 0)],
    Memory.wf (tileRig []).mem = true ∧ acting 0x40 x.1 x.2.1 (tileRig []) (fun c =>
      decide ((c.v 4).toNat < 16 ∧ (c.v 5).toNat < 16 ∧ c.t.core < 1536) && tilesQuiet (tileRig []) 0 [c.t.geo x.2.2] &&
      tableRoom (tileRig []) (coreCluster c.t.core) && !sleeping (tileRig []) (elementLocs c.t (c.t.geo x.2.2) 15 15) &&
      (eccSub (tileRig []) (elementLocs c.t (c.t.geo x.2.2) 15 15)).isNone &&
      decide (c.t.tileBase + (c.t.tdesc.getD x.2.2 0).toNat % 4096 * 128 + 1024 ≤ 2 ^ 19)) = true := by
  decide

/-- TEPI: BF16 rows, a plane set whose pair is even and odd, and a KV append. -/
theorem witness_tepi : ∀ f ∈ [ops 0 2 5 8], let s := tileRig [(2, 0x6000), (5, 0), (8, 0x2000000000)]
    acting 0x40 12 f s (fun c => decide (c.th.cntAs < 63) && !(c.x 5).getLsbD 15 &&
      (tepiChecks s c (c.t.geo 0) [c.x 2, c.x 3, c.x 5, c.x 8]).isOk) = true := by decide

theorem witness_tepi_planes : ∀ f ∈ [ops 0 2 5 8, ops 0 3 5 8],
    let s := tileRig [(2, 0x40010000), (3, 0xE004), (5, 0x100), (8, 0x100000000)]
    acting 0x40 12 f s (fun c => decide (c.th.cntAs < 63) && !(c.x 5).getLsbD 15 && decide ((c.x 5).toNat / 256 % 4 = 1)) = true ∧
    (f.a = 2 → (match s.view with
      | none => false
      | some c => (tepiChecks s c (c.t.geo 0) [c.x 2, c.x 3, c.x 5, c.x 8]).isOk && !c.hazard [] [3] [] &&
        (c.flawTrap [] [3] 0).isNone) = true) := by decide

theorem witness_tepi_kv : ∀ f ∈ [ops 0 2 5 8, ops 0 3 5 8], acting 0x40 12 f (tileRig [(2, 0x100000000), (3, 8), (5, 0x8000)])
    (fun c => decide (c.th.cntAs < 63) && (c.x 5).getLsbD 15 && (accumulator (c.t.geo 0)).isOk && !tepiControlBad 0x8000 &&
      !c.hazard [] [3] [] && (c.flawTrap [] [3] 0).isNone) = true := by
  decide

/-- The checks of a TEPI outside the KV mode at their edges: an address and a stride out of line, a tile that is absent, a
tile of planes, a control word out of form, groups that do not fit, a short stride, a malformed plane set, planes past
the set's, blocks past the region's; and rows and planes that no page holds. -/
def tepiStop (geo : TileGeo) (words : List Word) : Option (Nat × Nat) :=
  let s := tileRig []
  match s.view with
  | none => none
  | some c =>
    match tepiChecks s c geo words with
    | .ok _ => some (0, 0)
    | .error (.trap t) => some (t.cause, t.sub)
    | .error _ => none

theorem witness_tepi_order : let g : TileGeo := tileGeo (tileDesc 3 0)
    let set (n : Nat) : Word := BitVec.ofNat 64 n
    (∀ x ∈ [(g, [0x6008, 0, 0, 0x2000000000], (4, 0)), (g, [0x6000, 0, 0, 0x2800000000], (4, 0)), (tileGeo 0, [0x6000, 0, 0, 0x2000000000], (12, 1)),
        (tileGeo (planeDesc 8), [0x6000, 0, 0, 0x2000000000], (12, 5)), (g, [0x6000, 0, 5, 0x2000000000], (12, 7)),
        (g, [0x6000, 0, 0x200, 0x2000000000], (12, 6)), (g, [0x6000, 0, 0, 0x1000000000], (12, 7)), (g, [0x6000, 0, 0, 0x2000000000], (0, 0)),
        (g, [0x40010000, 0, 0x100, 0x100000000], (8, 1)), (tileGeo 0, [0x40010000, 0xE004, set (0x100 + 15 * 2 ^ 22), 0x100000000], (8, 3)),
        (g, [0x40010000, 0xE004, set (0x100 + 256 * 2 ^ 40), 0x100000000], (8, 6)), (tileGeo 0, [0x40010000, 0xE004, 0x100, 0x100000000], (12, 1)),
        (g, [0x40010000, 0xE004, 0x100, 0x100000000], (0, 0))],
      tepiStop x.1 x.2.1 = some x.2.2) ∧
    (∀ x ∈ [([0x7FC000000000, 0, 0, 0x2000000000] : List Word), [0x7FC000000000, 0xE004, 0x100, 0x100000000]],
      (tepiStop g x).any (fun y => y == (5, 1)) = true) := by decide +kernel

/-- A KV append with a rotation table out of line, of a tile of planes, and with an invalid activation. -/
theorem witness_tepi_kv_refused : ∀ x ∈ [(ops 0 2 5 8, (4 : Word), (0x8000 : Word)), (ops 1 2 5 8, 8, 0x8000), (ops 0 2 5 8, 8, 0x8005)],
    acting 0x40 12 x.1 (tileRig [(2, 0x100000000), (3, x.2.1), (5, x.2.2)])
      (fun c => decide (c.th.cntAs < 63) && (c.x 5).getLsbD 15 && !c.hazard [] [3] [] && (c.flawTrap [] [3] 0).isNone) = true := by decide

/-- KINIT of two threads, of none, and over a phase that is being signed. -/
theorem witness_kinit : ∀ s ∈ [tileRig [(2, 0x802)], tileRig [(2, 0)], tileRig [(2, 0x1000)], tileRig [(2, 0x400)] { signed := [1] }],
    acting 0x40 9 (ops 2 2 0 0) s (fun c => decide (2 < c.t.convs.length)) = true := by decide

/-- Signatures: the first of two, the last, one that differs, one twice, of a register that is not valid and by no
member. -/
def signXs : List (Nat × Word) := [(2, 0x40C0), (3, 0), (4, 0)]
def signed (l : List Nat) (r : Option ConvRec) : ConvReg := { valid := true, first := 0, count := 2, signed := l, opRec := r }

theorem witness_sign : ∀ x ∈ [(10, ops 2 2 3 4), (11, ops 2 2 3 4)],
    ∀ k ∈ [signed [] none, signed [1] (some ⟨x.1 == 11, 0x40C0, 0, 0⟩), signed [1] (some ⟨false, 0x40C1, 0, 0⟩),
      signed [0] (some ⟨false, 0x40C0, 0, 0⟩), {}, { signed [] none with first := 2 }],
    acting 0x40 x.1 x.2 (tileRig signXs k) (fun c => decide (c.th.cntMx < 63 ∧ scaleBytes c.t 0x40C0 0 = 0) &&
      tableRoom (tileRig signXs k) (coreCluster c.t.core)) = true := by decide +kernel

/-- A specifier of no encoding, a tile that is absent, a C tile of 4 bits, a B tile of 32 columns and a plane tile with too
few planes. -/
theorem witness_sign_refused : ∀ x ∈ [((0x40C0 : Word), (5 : Word), 7), (0x40C9, 0, 1), (0x40C2, 0, 5), (0x50C0, 0, 6), (0x40C0 - 0x80, 0x52, 8)],
    let r := tileRig [(2, x.1), (3, x.2.1), (4, 0)] (signed [] none)
    let s := { r with teams := r.teams.map fun t => { t with tdesc := t.tdesc.set 5 (tileDesc 2 0x01001E) } }
    acting 0x40 10 (ops 2 2 3 4) s (fun c => decide (c.th.cntMx < 63) &&
      match signChecks c.t false x.1 x.2.1 0 with
      | .error (.trap t) => t.cause == 0x0C && t.sub == x.2.2
      | _ => false) = true := by decide +kernel

theorem witness_sign_checks : ∃ c, (tileRig signXs (signed [] none)).view = some c ∧
    (signChecks c.t false 0x40C0 0 0).isOk = true := ⟨_, rfl, by decide⟩

/-- A signature whose A operand is G8 with scales in memory: 16 lines of one group of 32. -/
theorem witness_sign_scales : ∀ l ∈ [[], [1]],
    let s := { tileRig [(2, 0x40C0), (3, 0x2004), (4, 0x5000)] (signed l (if l = [] then none else some ⟨false, 0x40C0, 0x2004, 0x5000⟩)) with
      teams := (tileRig [(2, 0x40C0), (3, 0x2004), (4, 0x5000)] (signed l (if l = [] then none else some ⟨false, 0x40C0, 0x2004, 0x5000⟩))).teams.map fun t =>
        { t with tdesc := t.tdesc.set 3 (tileDesc 1 0x010040) |>.set 4 (tileDesc 2 0x010060) } }
    acting 0x40 10 (ops 2 2 3 4) s (fun c => decide (c.th.cntMx < 63 ∧ scaleBytes c.t 0x40C0 0x2004 = 64) && !c.held &&
      !awaitsAcquire s c && (signChecks c.t false 0x40C0 0x2004 0x5000).isOk && (translateRange s c .scaleLoad 0x5000 64).isOk &&
      tableRoom s (coreCluster c.t.core)) = true := by decide +kernel

/-- Scale records at an address out of line, and where no page is. -/
def scaleRig (a : Word) : State :=
  let r := tileRig [(2, 0x40C0), (3, 0x2004), (4, a)] (signed [] none)
  { r with teams := r.teams.map fun t => { t with tdesc := t.tdesc.set 3 (tileDesc 1 0x010040) |>.set 4 (tileDesc 2 0x010060) } }

theorem witness_sign_scales_refused :
    acting 0x40 10 (ops 2 2 3 4) (scaleRig 0x5002) (fun c => decide (c.th.cntMx < 63) &&
      !(signChecks c.t false 0x40C0 0x2004 0x5002).isOk) = true ∧
    acting 0x40 10 (ops 2 2 3 4) (scaleRig 0x7FC000000000) (fun c => decide (c.th.cntMx < 63) && !c.held &&
      !awaitsAcquire (scaleRig 0x7FC000000000) c && (signChecks c.t false 0x40C0 0x2004 0x7FC000000000).isOk) = true ∧
    viewed (scaleRig 0x7FC000000000) (fun c =>
      stopped (translateRange (scaleRig 0x7FC000000000) c .scaleLoad 0x7FC000000000 64)) = true := by decide +kernel

/-! Tile commands under way -/

/-- Commands in the reservation table of cluster 0: a load one pass from its end, and an MMA passed over nine times. -/
def loading (passes skipped : Nat) : TileCmd :=
  { tileCmd 3 2 2 [tileDesc 0 14] with extents := [[⟨0x5000, 128⟩]], passes := passes, skipped := skipped }
def signing (skipped : Nat) (done : Bool) : TileCmd :=
  { tileCmd 4 10 0 [tileDesc 3 0, tileDesc 2 16, tileDesc 2 20, 0, 0, 0] with
    words := [0x40C0, 0, 0], extents := [[]], signers := [0, 1], skipped := skipped, done := done }

def tableRig (l : List TileCmd) : State :=
  let s := tileRig [] {} l
  { s with teams := s.teams.map fun t => { t with threads := t.threads.map fun th => { th with cntMx := 2, cntAs := 1 } } }

theorem witness_passes : ∀ x ∈ [loading 15 0, loading 3 16, loading 0 0, signing 9 false], ∀ l ∈ [[x], [x, { x with uid := 9, descs := [] }]],
    Awake (tableRig l) ∧ x ∈ (tableRig l).tiles ∧ ((tableRig l).tiles.map TileCmd.uid).Nodup ∧
    arbiterPick (tableRig l) ((tableRig l).tiles.filter fun y => y.engine == 0 && tileReady (tableRig l) y) = some x := by decide +kernel

/-- An MMA that may migrate to the neighbour's idle engine, and one that has waited too little. -/
theorem witness_migrate : ∀ x ∈ [signing 9 false, signing 8 false], Awake (tableRig [x]) ∧ tileReady (tableRig [x]) x = true ∧
    x.passes = 0 ∧ x.migrated = none ∧ (1 : Nat) = x.cluster + 1 ∧ 1 / 96 = x.cluster / 96 ∧
    ∀ y ∈ (tableRig [x]).tiles, y.cluster ≠ 1 ∧ y.engine ≠ 1 := by decide

theorem witness_tile_done : ∀ x ∈ [signing 0 true, { loading 16 0 with done := true }, signing 0 false],
    (∀ tm ∈ (tableRig [x]).teams, ∀ k ∈ tm.convs, k.signed = []) ∧ x.signers.Nodup ∧ x ∈ (tableRig [x]).tiles := by decide +kernel

/-- A load, a store, a zeroing and an MMA whose bytes are all of the device. -/
theorem witness_effects : ∀ x ∈ [loading 15 0, { loading 15 0 with fn := 5 }, signing 0 false, { signing 0 false with fn := 6 }],
    Memory.wf (tableRig [x]).mem = true ∧ (tableRig [x]).poison = [] ∧ (tableRig [x]).tilePoison = [] ∧ (tableRig [x]).errors = [] ∧
    (tileGeo (x.descs.headD 0)).valid = true ∧ (tileGeo (x.descs.headD 0)).pt = false ∧
    ∀ tm ∈ (tableRig [x]).teams, ∀ a ∈ tileLocs tm (tileGeo (x.descs.headD 0)) ++ x.extents.flatMap extentLocs,
      isOutside a = false ∧ isTelemetry a = false := by decide +kernel

theorem witness_effects_nodup : (tileLocs (newTeam rigLaunch ⟨0, 0, 0, 0x20000, 0⟩) (tileGeo (tileDesc 0 14))).Pairwise (· < ·) ∧
    ((loading 15 0).extents.flatMap extentLocs).Pairwise (· < ·) := by decide +kernel

/-- TLDP of two mantissa planes into tile 1, from 128 bytes. -/
def planeLoading (refine : Bool) : TileCmd :=
  { tileCmd 6 (if refine then 4 else 3) 1 [planeDesc 8] with extents := [[⟨0x5000, if refine then 64 else 128⟩]], arg := [0, 2] }

theorem witness_plane_slots : ∀ b, let x := planeLoading b
    let geo := tileGeo (x.descs.headD 0)
    let first := if b then 2 else 0
    (geo.rows, geo.cols / 16, geo.bytes) = (16, 1, 512) ∧ (x.extents.flatMap extentLocs).length = (4 - first) * 16 * 1 * 2 ∧
    Memory.wf (tableRig [x]).mem = true ∧ (tableRig [x]).poison = [] ∧ (tableRig [x]).errors = [] := by decide +kernel

/-- The tile of C has 32-bit elements; operands of each layout, each encoding, with and without scales; and finite
patterns. -/
theorem witness_effect_values : (tileGeo ((signing 0 false).descs.headD 0)).ew = 32 ∧
    [0, 1, 2, 3, 4].map (fun n => (specOf n).enc) = [0, 1, 2, 3, 4] ∧ isFinite .f16 0x3C00 = true ∧
    isFinite .f32 (pb16Read ⟨0x7F, 0, [0xFFFF]⟩ 0 1 false) = true ∧ isInf .bf16 0x7F80 = true ∧ isNan .bf16 0x7F81 = true := by
  decide +kernel

/-- TEPI under way on a tile of 16 rows and 32 columns, in each output mode, with a memory run of `size` bytes for a row. -/
def epilogue (mode npw size : Nat) : TileCmd :=
  { tileCmd 5 12 0 [BitVec.ofNat 64 (2 ^ 63 + 3 * 2 ^ 22 + 2 ^ 16)] with
    words := [0x8000, 0, BitVec.ofNat 64 (mode * 256 + npw * 2 ^ 22), 0x3F800000]
    extents := [[⟨0x8000, 16 * size⟩]] }

theorem witness_epilogue : ∀ x ∈ [(0, 0), (1, 16), (1, 0), (2, 0)],
    let e := epilogue x.1 x.2 0
    let s := tableRig [e]
    let geo := tileGeo (e.descs.headD 0)
    let xb := (e.words.getD 2 0).toNat
    (geo.rows, geo.cols, xb / 256 % 4, xb / 2 ^ 22 % 32) = (16, 32, x.1, x.2) ∧ Memory.wf s.mem = true ∧ s.poison = [] ∧
    s.tilePoison = [] ∧ s.errors = [] := by decide +kernel

/-- The bytes that it writes. -/
theorem witness_epilogue_bytes (mode npw size : Nat) (h : size ≤ 72) : let outer := (epilogue mode npw size).extents.flatMap extentLocs
    outer.length = 16 * size ∧ outer.Nodup ∧ ∀ a ∈ outer, isOutside a = false ∧ isTelemetry a = false := by
  have e : (epilogue mode npw size).extents.flatMap extentLocs = (List.range (16 * size)).map (0x8000 + ·) := by
    simp [epilogue, extentLocs, Extent.locs]
  simp only [e]
  refine ⟨by simp, List.nodup_range.map fun _ _ => Nat.add_left_cancel, fun a ha => ?_⟩
  obtain ⟨i, hi, rfl⟩ := List.mem_map.mp ha
  have := List.mem_range.mp hi
  simp [isOutside, isTelemetry]
  omega

/-- Group values that are special, zero, below zero and above it. -/
theorem witness_quantise : isNan .f32 0x7FC00000 = true ∧ isInf .f32 0x7F800000 = true ∧
    ([0, 0x80000000].all fun y => !isNan .f32 y && !isInf .f32 y && decide (patValue .f32 y = 0)) = true ∧
    (isNan .f32 0xBF800000 = false ∧ isInf .f32 0xBF800000 = false ∧ patValue .f32 0xBF800000 < 0) ∧
    isNan .f32 0x40000000 = false ∧ isInf .f32 0x40000000 = false ∧ 0 < patValue .f32 0x40000000 := by
  decide +kernel

/-! ### Witnesses: the sampler and the Eland die -/

/-- x2 logits, x3 an SSR, x4 a result apart from it, x5 one inside it; x6 a query of sequence 7, layer 1, head 2, L =
40, x7 its record; barrier register 3 is valid. -/
def engXs : List (Nat × Word) :=
  [(2, 0x6000), (3, 0x10000), (4, 0x20000), (5, 0x15FF0), (6, 0x0007010800000028), (7, 0x7000), (8, 0x0007010900000028),
   (9, 0x0007020800000028), (10, 0x0008000000000000), (11, 0x10010), (12, 0x10080), (13, 8)]

/-- Sequence 7 of context 1: 2 layers of 3 heads of 16, 3 planes; the chain of layer 1, head 2 holds page 2 and 40
positions. -/
def seven : SeqRec :=
  { num := 7, ctx := 1, nl := 2, nh := 3, hd := 16, npl := 3,
    chains := [{}, {}, {}, {}, {}, { pages := [2], len := 40, base := 0 }] }

/-- Free pages 5, 6 and 7, and the sequences given. -/
def seqRig (xs : List (Nat × Word)) (l : List SeqRec) : State :=
  { rig id (fun t => { withX xs t with bars := t.bars.set 3 { valid := true, rb := 16, eb := 16 } }) with
    seqs := l
    herd := { rigHerd with regions := rigHerd.regions ++ [⟨0xFFD, false, 4, 64, 0x30000000, 0⟩], pages := [(5, 3)] } }

/-- SMPL with and without a barrier register, of a result inside the SSR, of a barrier register that is not valid, and
each address out of line. -/
theorem witness_smpl : ∀ f ∈ [ops 3 2 3 4, ops 0 2 3 4 5, ops 3 2 3 5, ops 4 2 3 4],
    acting 0x48 0 f (seqRig engXs []) (fun c => decide (c.th.cntAs < 63) &&
      (translateRange (seqRig engXs []) c .engineBoth (c.x f.b.toNat) 24576).isOk &&
      (translateRange (seqRig engXs []) c .engineBoth (c.x f.c.toNat) 16).isOk) = true := by decide

theorem witness_smpl_align : ∀ f ∈ [ops 3 11 3 4, ops 3 2 12 4, ops 3 2 3 13], acting 0x48 0 f (seqRig engXs []) = true := by decide

/-- ATTN and ATTNT of a sequence, of no sequence, of a layer past its last, with a bit set that must be zero, of a barrier
register that is not valid, and of a record out of line. -/
theorem witness_attn : ∀ n ∈ [1, 2], ∀ f ∈ [ops 3 6 7 0, ops 0 6 7 0 1, ops 3 10 7 0, ops 3 9 7 0, ops 3 8 7 0, ops 4 6 7 0, ops 3 6 13 0],
    acting 0x48 n f (seqRig engXs [seven]) (fun c => decide (c.th.cntAs < 63) &&
      (translateRange (seqRig engXs [seven]) c .engineBoth 0x7000 64).isOk) = true ∧
    ((seqRig engXs [seven]).seq? 7).map SeqRec.ctx = some 1 := by decide

/-! Sequences -/

/-- x2 opens a record, x3 is malformed, x4 names sequence 7, x5 and x6 positions, x7 a chain of it, x8 a chain it has
not, x9 a window's pairs, x10 their number, x11 sequence 8. -/
def seqXs : List (Nat × Word) :=
  [(2, 0xC0201), (3, 0x800000), (4, 0x0007000000000000), (5, 40), (6, 64), (7, 0x0007010800000000), (8, 0x0007020000000000),
   (9, 0x6000), (10, 64), (11, 0x0008000000000000), (12, 0x0007000000000001), (13, 0x00070000FFFFFFC0)]

theorem witness_open : ∀ f ∈ [ops 1 2 0 0, ops 1 3 0 0],
    acting 0x48 3 f (seqRig seqXs []) = true ∧ (seqRig seqXs []).seq? 0 = none := by decide

/-- The numbers below `n` in use. -/
def fullRig (n : Nat) : State := seqRig seqXs ((List.range n).map fun k => { seven with num := k })

theorem fullRig_used (n m : Nat) (h : m < n) : ((fullRig n).seq? m).isSome := by
  have h : { seven with num := m } ∈ (fullRig n).seqs := List.mem_map.mpr ⟨m, List.mem_range.mpr h, rfl⟩
  exact List.find?_isSome.mpr ⟨_, h, beq_self_eq_true m⟩

/-- Every number in use. -/
theorem witness_open_full : acting 0x48 3 (ops 1 2 0 0) (fullRig 65536) = true ∧ ∀ m < 65536, ((fullRig 65536).seq? m).isSome :=
  ⟨by decide, fullRig_used _⟩

/-- A window of 64 positions up to the last that a record may hold. -/
theorem witness_dfs : ∃ c, Acts 0x48 3 Guard.always (ops 1 13 9 10 4) (seqRig seqXs [seven]) c ∧
    (translateRange (seqRig seqXs [seven]) c .load 0x6000 512).isOk = true ∧
    readable (seqRig seqXs [seven]) c true (span 0x6000 512) = true ∧ (c.x 13).toNat % 2 ^ 32 + 64 = 2 ^ 32 := acts_with (by decide)

/-- The commands on a record that is not open: sequence 8. -/
theorem witness_not_open : ∀ x ∈ [(3, ops 1 11 0 0 1), (3, ops 1 11 5 0 2), (3, ops 1 11 0 0 3), (4, ops 1 11 5 0), (5, ops 1 11 5 0)],
    acting 0x48 x.1 x.2 (seqRig seqXs [seven]) = true ∧ (seqRig seqXs [seven]).seq? 8 = none := by decide

/-- KVSEQ.close with a scan started and with none; trim at a chain's end; stat; fork at 40, at 0 and past the chains,
with and without free pages; rel at a page's edge, off it and past LEN. -/
theorem witness_on_record : ∀ x ∈ [(3, ops 1 4 0 0 1), (3, ops 1 4 5 0 2), (3, ops 1 12 5 0 2), (3, ops 1 7 0 0 3), (3, ops 1 8 0 0 3),
      (3, ops 1 12 0 0 3), (4, ops 1 4 5 0), (4, ops 1 4 0x3F 0), (4, ops 1 4 6 0), (4, ops 1 12 0x3F 0), (5, ops 1 4 0x3F 0),
      (5, ops 1 4 5 0), (5, ops 1 4 6 0), (5, ops 1 12 0x3F 0)],
    acting 0x48 x.1 x.2 (seqRig seqXs [seven]) = true := by decide

theorem witness_busy : seqBusy { seqRig seqXs [seven] with tiles := [{ tileCmd 3 12 0 [] with kv := some 7 }] } 7 = true ∧
    seqBusy (seqRig seqXs [seven]) 7 = false ∧ (allocPages 1 (seqRig seqXs [seven])).isSome = true ∧
    (allocPages 1 (seqRig seqXs [seven])).map Prod.fst = some [5] ∧ allocPages 1 rig = none := by decide

/-! The sampler -/

/-- The words of an SSR with V, VPAD, TEMP, top-p; and the machine with a queued SMPL on it. -/
def ssrWords (v vpad temp : Nat) : List (Nat × Nat) :=
  [(0x10018, v + vpad * 2 ^ 32), (0x10020, temp), (0x10028, 0x3F800000), (0x20000, 3 + q32 * 2 ^ 32), (0x7000, 0x40000000BF800000)]
where q32 : Nat := 0x3F000000

def smplCmd (verify bf16 : Bool) (logits : Word) : SmplCmd :=
  { uid := 7, who := ⟨0, 0⟩, bar := none, bf16 := bf16, verify := verify, logits := logits, ssr := [⟨0x10000, 24576⟩],
    result := [⟨0x20000, 16⟩], issue := 0, mark := 5, priv := true }

def smplRig (ws : List (Nat × Nat)) (x : SmplCmd) : State :=
  { rig (fun th => { th with cntAs := 1 }) with mem := memWith ws, smpls := [x] }

/-- A sound record, a malformed one, logits that do not translate, and a q that is zero. -/
theorem witness_sampler : ∀ p ∈ [(ssrWords 2 64 0x3F800000, smplCmd false false 0x7000),
      (ssrWords 2 64 0x3F800000, smplCmd true false 0x7000), (ssrWords 0 64 0x3F800000, smplCmd false false 0x7000),
      (ssrWords 2 64 0x3F800000, smplCmd false true 0x7FC000000000),
      (ssrWords 2 64 0x3F800000 ++ [(0x20000, 3)], smplCmd true false 0x7000)],
    let s := smplRig p.1 p.2
    Awake s ∧ s.smpls.find? (fun y => y.uid == 7) = some p.2 ∧ (s.viewOf ⟨0, 0⟩).isSome = true ∧
    (∀ e ∈ s.queue, e.core = 0 → p.2.mark ≤ e.uid) ∧ s.errors = [] ∧
    sleeping s (span 0x10000 96 ++ extentLocs p.2.result) = false ∧
    ∀ y ∈ s.smpls, y.who = p.2.who → y.uid < 7 → y.ssr ≠ p.2.ssr := by decide

/-- The record and the result lie apart; the tables of a record. -/
theorem witness_sampler_bytes : (smplCmd false false 0x7000).ssr = [⟨0x10000, 24576⟩] ∧
    ((extentLocs (smplCmd false false 0x7000).result).drop 8).all (fun l => decide (l < 0x10000 ∨ 0x10000 + 24576 ≤ l)) = true := by decide

/-- The logits of a sound command lie in memory, also where they are poisoned. -/
theorem witness_sampler_ranges : ∀ ps ∈ [[], [0x7000 / 8]],
    let s := { smplRig (ssrWords 2 64 0x3F800000) (smplCmd false false 0x7000) with poison := ps }
    (match s.view with
      | none => false
      | some c =>
        match engineRange s c true .engineRead 0x7000 256, engineRange s c true .engineRead 0 0 with
        | .ok (some l), .ok (some []) => anyPoison s l == !ps.isEmpty
        | _, _ => false) = true := by decide +kernel

theorem witness_header : headerBad (memBytes (memWith (ssrWords 2 64 0x3F800000)) 0x10000 0x60) = false ∧
    headerBad (memBytes (memWith (ssrWords 0 64 0x3F800000)) 0x10000 0x60) = true ∧ qBad 0x3F000000 = false ∧ qBad 0 = true := by
  decide

/-- No eligible token, kept candidates, and equal probabilities. -/
theorem witness_candidates : (∀ w ∈ ([0x7F800001, 0xFF800000] : List W32), isNan .f32 w ∨ w = 0xFF800000) ∧
    ([(3, 0x3F000000, 0x3F000000)] : List (Nat × W32 × W32)) ≠ [] ∧ (([(0, 7), (1, 9), (2, 7)] : List (Nat × Nat)).map Prod.fst).Nodup ∧
    ∀ x ∈ ([(0, 7), (1, 9), (2, 7)] : List (Nat × Nat)), x.2 < 2 ^ 32 := by
  refine ⟨?_, by decide, by decide, by decide⟩
  intro w hw
  simp only [List.mem_cons, List.not_mem_nil, or_false] at hw
  rcases hw with rfl | rfl
  · exact Or.inl (by decide)
  · exact Or.inr rfl

/-- The kept candidates of the two logits -1 and 2, and the drafts that VERIFY meets: one past VPAD, one past V, one
that is not kept by the draw and one that is. -/
theorem witness_kept : let ssr := memBytes (memWith (ssrWords 2 64 0x3F800000)) 0x10000 96
    (keptCands ssr [0xBF800000, 0x40000000]).map Prod.fst = [1, 0] ∧
    [64, 5, 0, 1].map (fun d => (smplResult ssr true d 0x3F000000 [0xBF800000, 0x40000000] []).status) = [4, 3, 2, 1] := by
  decide +kernel

/-- Empty tables. -/
def fawnTables : Tables := ⟨List.replicate 4096 0, 0, List.replicate 1024 0, List.replicate 1024 0, 0, 0⟩

/-- Count and bias tables: an id that neither holds, and one that both do. -/
theorem witness_tables : fawnTables.counts.length = 4096 ∧ fawnTables.biasIds.length = 1024 ∧
    fawnTables.counts.all (· / 2 ^ 20 == 0) = true ∧
    ((fawnTables.countSet 5 3).counts.getD 5 0 / 2 ^ 20, (fawnTables.countSet 5 3).counts.getD 5 0 % 2 ^ 20) = (3, 5) ∧
    (fawnTables.biasSet 5 0x3C00).nbias = 1 ∧ (fawnTables.biasSet 5 0x3C00).biasIds.getD 0 0 = 5 := by decide +kernel

/-- Programs of one word over one chunk: one that is malformed, one that runs past its end and one that ends. -/
def fawnRuns (w : Nat) : Except Nat FawnState :=
  fawnProgram ⟨List.replicate 16 0, 0x3F800000⟩ [w] (List.replicate 64 0) fawnTables

theorem witness_fawn : fawnBad 1 0xD0000000 = true ∧ fawnBad 1 0x08007000 = false ∧ fawnBad 1 0 = false ∧
    [0xD0000000, 0x08007000, 0].map (fun w => match fawnRuns w with
      | .error i => some i
      | .ok _ => none) = [some 0, some 1, none] := by decide +kernel

/-- The end of a run that arrives at barrier 3, which flips, stays short or is not valid. -/
theorem witness_run_end : ∀ k ∈ [({ valid := true, ea := 2, ra := 0, rb := 16, eb := 0 } : BarReg), { valid := true, ea := 2, ra := 1, rb := 16 }, {}],
    let s := { brRig k with smpls := [{ smplCmd false false 0x7000 with bar := some 3 }] }
    s.teams.map (fun tm => (tm.bars.length, tm.bar 3)) = [(16, k)] := by decide

/-! Appends and scans -/

/-- An append of tile 0 to layer 1, head 2 of sequence 7, at position 40. -/
def appendCmd (a : Word) : TileCmd :=
  { tileCmd 0 12 0 [tileDesc 3 0] with words := [0x0007010800000028 + a, 0, 0x8100, 0] }

def appendRig (a : Word) (l : List SeqRec) : State :=
  { seqRig [] l with
    teams := (tileRig []).teams.map fun t => { t with threads := t.threads.modify 0 fun th => { th with wait := .append } }
    appends := [appendCmd a] }

/-- An append accepted, one of no sequence, and one that finds no free page. -/
theorem witness_append : ∃ c, (appendRig 0 [seven]).viewOf ⟨0, 0⟩ = some c ∧ c.r = ⟨0, 0⟩ ∧ Awake (appendRig 0 [seven]) ∧
    (appendRig 0 [seven]).appends.find? (fun y => y.team == c.r.team && y.tid == c.r.tid) = some (appendCmd 0) ∧
    ((appendRig 0 [seven]).tiles.filter fun y => y.cluster == coreCluster c.t.core).length < 64 := ⟨_, rfl, by decide⟩

/-- Its tile, its rotation rows, its checks and its reservation pass; an append of a position below BASE, and one that
finds no free page, do not. -/
def appendParts (s : State) (a : Word) : Nat :=
  match s.viewOf ⟨0, 0⟩ with
  | none => 0
  | some c =>
    let g := tileGeo (c.t.tdesc.getD 0 0)
    let words := (appendCmd a).words
    if !(accumulator g).isOk || (rotationRuns s c g words).isOk == false then 1
    else
      match appendChecks s c g words with
      | .ok r => if (reserveAppend s r g words).isOk then 2 else 3
      | .error _ => 4

theorem witness_append_parts : appendParts (appendRig 0 [seven]) 0 = 2 ∧ appendParts (appendRig 0 []) 0 = 4 ∧
    appendParts { appendRig 0 [{ seven with chains := List.replicate 6 {} }] with herd := {} } 0 = 3 := by decide +kernel

/-- What the checks and the reservation answer: of a sequence of another context, a position past 2^32, a bit of the control
that must be zero, a block that is reserved, and more pages than the pool holds; and the rotation rows of an
append. -/
def appendStop (s : State) (words : List Word) : Option Nat :=
  match s.viewOf ⟨0, 0⟩ with
  | none => none
  | some c =>
    let g := tileGeo (c.t.tdesc.getD 0 0)
    match appendChecks s c g words with
    | .error (.trap t) => some t.sub
    | .error _ => none
    | .ok r =>
      match reserveAppend s r g words with
      | .error (.trap t) => some t.sub
      | .error _ => none
      | .ok x => some (10 + x.2.1.length)

theorem witness_append_checks : let s := appendRig 0 [seven]
    appendStop (appendRig 0 [{ seven with ctx := 2 }]) [0x0007010800000028, 0, 0x100, 0] = some 1 ∧
    appendStop s [0x00070108FFFFFFF1, 0, 0x100, 0] = some 2 ∧ appendStop s [0x0007010800000028, 0, 0x100, 0x100000000] = some 3 ∧
    appendStop s [0x0007010800000028, 0, 0x100, 0] = some 10 ∧ appendStop s [0x0007010800000030, 0, 0x100, 0] = some 10 ∧
    appendStop s [0x0007010800000040, 0, 0x100, 0] = some 11 ∧ appendStop s [0x0007010800000240, 0, 0x100, 0] = some 7 ∧
    appendStop s [0x0007010800000100, 0, 0x100, 0] = some 4 ∧
    appendStop { s with tiles := [{ appendCmd 0 with uid := 3, kv := some 7, blocks := [(40, 0)] }] } [0x0007010800000028, 0, 0x100, 0] = some 5 ∧
    (seven.chains.all fun k => (k.pages.map (pagePbase s)).length ≤ 1) = true ∧
    viewed (seqRig seqXs [seven]) (fun c => (match rotationRuns (seqRig seqXs [seven]) c (tileGeo (tileDesc 3 0)) [0x0007010900000028, 0x5000, 0, 0] with
      | .ok l => l.length == 16
      | .error _ => false)) = true := by decide +kernel

/-- The free pages 5, 6 and 7 of the rig, as START left them; what the sequences hold lies apart from them. -/
theorem witness_pool : let s := seqRig seqXs [seven]
    (s.herd.waiting, s.herd.flaws, s.herd.pages) = ([], [], [(5, 3)]) ∧ (s.herd.region? 0xFFD).isSome = true ∧
    (∀ t ∈ s.herd.tuples, t.region ≠ 0xFFD) ∧ 5 + 3 ≤ 2 ^ 24 ∧ Memory.wf s.mem = true ∧ (s.seqs.map SeqRec.num).Nodup ∧
    (seven.chains.flatMap Chain.pages) = [2] ∧ pageRefs s 2 = 1 ∧ scanReads s 2 = false ∧ s.herd.parked = [] ∧ seven.saved = [] ∧
    (s.herd.region? 0xFFD).any (fun g => s.herd.count 0xFFD + 1 ≤ g.capacity) = true ∧ pagePbase s 2 = 0 ∧
    (allocPages 1 s).map Prod.fst = some [5] := by decide +kernel

/-- An accepted append whose turn has come. -/
def writeCmd : TileCmd := { appendCmd 0 with uid := 3, kv := some 7 }
def writeRig : State := { appendRig 0 [seven] with appends := [], tiles := [writeCmd] }

theorem witness_append_write : Awake writeRig ∧ writeRig.tiles.find? (fun y => y.uid == writeCmd.uid) = some writeCmd ∧
    appendReady writeRig writeCmd = true ∧ scanHolds writeRig (seven.chains.getD 5 {}) writeCmd.blocks = false ∧
    ((writeRig.teams[0]?).bind fun t => runAppend writeRig t writeCmd 7).isSome = true := by decide +kernel

/-- A query of `l` positions, with what its gate took, and whether its sequence closed before. -/
def attnCmd (l : Nat) (gate : Option (Nat × List Nat)) (gone : Bool) : AttnCmd :=
  { uid := 7, who := ⟨0, 0⟩, tree := false, bar := none, query := BitVec.ofNat 64 (0x0007010800000000 + l), recVa := 0x7000,
    recExt := [⟨0x7000, 64⟩], hd := 16, gate := gate, gone := gone, issue := 0, mark := 5, priv := true }

def attnRig (x : AttnCmd) (l : List SeqRec) (ws : List (Nat × Nat)) : State :=
  { seqRig [] l with
    mem := memWith ws
    attns := [x]
    teams := (rig fun th => { th with cntAs := 1 }).teams }

theorem witness_gate : ∀ l ∈ [40, 41], Awake (attnRig (attnCmd l none false) [seven] []) ∧
    (attnRig (attnCmd l none false) [seven] []).attn? 7 = some (attnCmd l none false) ∧
    (attnRig (attnCmd l none false) [seven] []).seq? ((attnCmd l none false).query.toNat / 2 ^ 48) = some seven := by decide

/-- The words of a record of one row; scans that end well, with a malformed record, with no translation of the query, of a
closed sequence and of a poisoned page. -/
def recWords (qva scale : Nat) : List (Nat × Nat) := [(0x7000, qva), (0x7008, 0x9000), (0x7010, scale)]

theorem witness_scan : ∀ s ∈ [attnRig (attnCmd 40 (some (0, [2])) false) [seven] (recWords 0x8000 0x3F800000),
      attnRig (attnCmd 40 (some (0, [2])) false) [seven] (recWords 0x8000 0),
      attnRig (attnCmd 40 (some (0, [2])) false) [seven] (recWords 0x7FC000000000 0x3F800000),
      attnRig (attnCmd 40 none true) [] (recWords 0x8000 0x3F800000),
      { attnRig (attnCmd 40 (some (0, [2])) false) [seven] (recWords 0x8000 0x3F800000) with poison := [pageLoc 2 0 / 8] }],
    Awake s ∧ (s.attn? 7).any (fun x => x.gate.isSome || x.gone) = true ∧ (s.viewOf ⟨0, 0⟩).isSome = true ∧
    ∀ e ∈ s.queue, e.core = 0 → 5 ≤ e.uid := by decide

theorem witness_scan_record : let s := attnRig (attnCmd 40 (some (0, [2])) false) [seven] (recWords 0x8000 0x3F800000)
    (attnRec (homeBytes s true 0 (extentLocs [⟨0x7000, 64⟩]))).bad = false ∧
    (attnRec (homeBytes s true 0 (extentLocs [⟨0x7000, 64⟩]))).rows = 1 ∧ s.errors = [] ∧ sleeping s (span 0x7000 64) = false ∧
    anyPoison s (span 0x7000 64) = false ∧ anyPoison s (span 0x8000 64) = false ∧
    anyPoison { s with poison := [pageLoc 2 0x1400 / 8] } ((scanLocs s (attnCmd 40 none false) 3 0 2).take 64) = true := by
  decide +kernel

/-- An append of 16 rows of one block in page 2, whose header says 3 planes, 40 positions and no other sharer. -/
def filledMem : List Host.Cell :=
  [(0, 0xFFFFFFFF), (8, 7 + 2 ^ 16 + 2 * 2 ^ 24 + 40 * 2 ^ 32 + 3 * 2 ^ 40 + 2 ^ 48 + 2 ^ 56)].foldl
    (fun m x => memPut m (pageLoc 2 x.1) (leBytes 8 x.2)) rigMem
def filledRig : State := { writeRig with mem := filledMem }
def filledCmd : TileCmd := { writeCmd with blocks := (List.range 16).map fun m => (40 + m, 0) }

theorem witness_append_pages : let s := filledRig
    let x := filledCmd
    s.seq? 7 = some seven ∧ x.blocks ≠ [] ∧ (s.poison, s.tilePoison, s.errors) = ([], [], []) ∧ Memory.wf s.mem = true ∧
    (tileGeo (x.descs.headD 0)).rows = 16 ∧ (tileGeo (x.descs.headD 0)).cols = 16 ∧
    (∀ m < 16, x.blocks[m]? = some (((x.words.getD 0 0).toNat % 2 ^ 32 + m, 0) : Nat × Nat)) ∧ x.blocks.Nodup ∧
    ((x.words.getD 0 0).toNat / 2 ^ 33 % 2, (x.words.getD 2 0).toNat / 2 ^ 40 % 16, (x.words.getD 0 0).toNat / 2 ^ 32 % 2) = (0, 0, 0) ∧
    (seven.chain 1 2).pages = [2] ∧ pagePbase s 2 = 0 ∧ pageRefs s 2 = 1 ∧ pageNat s 2 0x0E 1 = 1 := by decide +kernel

/-- A query of 60 positions of it. -/
theorem witness_page_queries : isFinite .f32 0x3F800000 = true ∧ 0 < patValue .f32 0x3F800000 ∧
    (let s := filledRig
     let x := attnCmd 60 none false
     let r : AttnRec := { attnRec (homeBytes s true 0 (span 0x7000 64)) with scale := 0x3F800000 }
     let keys := pageKeys s x r 3 0 2
     keys.length = 60 ∧ (keys.all fun k => isFinite .f32 (scoreOf r.scale [0] 3 k) &&
       (k.ks.all fun b => decide (b.e.toNat % 256 ≠ 255) && isFinite .f32 (pb16Read b 0 3 false))) = true) := by decide +kernel

/-! ### Witnesses: work, faults and the store queue -/

/-- Launch 2 beside the rig's own, and work entries 5 of each level of context 1; the graph entry has 0x100 parameter
bytes at 0x6000 and 0x7000, its next instance the second. -/
def workRig (k : Launch → Launch) (e : WorkEntry → WorkEntry := id) : State :=
  { saveRig [(2, 2), (3, 5), (4, 0x9000), (5, 0x100), (6, 0xF000000010), (7, 0x10000000010), (8, 0)] k with
    hst := { work := [e { level := 0, id := 5, ctx := 1, completed := 3, infl := 70000, n := 2, pb0 := 0x6000, pb1 := 0x7000, sz := 0x100 },
      { level := 1, id := 5, ctx := 1, can := true }, { level := 2, id := 5, ctx := 1 }] } }

/-- LSTAT and LCAN of a launch in each of its states, of none, and of work of each level, known and unknown. -/
theorem witness_work : ∀ x ∈ [(0, ops 1 2 0 0), (0, ops 1 8 0 0), (0, ops 1 3 0 0 1), (0, ops 1 3 0 0 2), (0, ops 1 2 0 0 1), (1, ops 1 2 0 0),
      (1, ops 1 8 0 0), (1, ops 1 3 0 0 1), (1, ops 1 2 0 0 3)],
    ∀ s ∈ [workRig id, workRig fun l => { l with ended := true }, workRig fun l => { l with cancelled := true },
      workRig fun l => { l with pre := .saved }, workRig fun l => { l with placed := [] }],
    acting 0x50 x.1 x.2 s = true ∧ (s.launches.map Launch.seq).Nodup := by decide

/-- A launch in flight that carries a work id. -/
theorem witness_cancel_ids : ((workRig fun l => { l with tuple := l.tuple.set 6 5 }).launches.map Launch.ids) = [[], [(0, 5)]] := by decide

/-- GPATCH of no entry, of lengths past the buffer, of a buffer in use, and one that copies up to the buffer's end. -/
theorem witness_gpatch : ∀ f ∈ [ops 1 8 4 6, ops 1 3 4 5, ops 1 3 4 7, ops 1 3 4 6],
    ∀ s ∈ [workRig id, workRig id fun e => { e with inf1 := 1 }],
    acting 0x50 2 f s (fun c => (translateRange s c .load 0x9000 16).isOk && (translateRange s c .store 0x70F0 16).isOk &&
      readable s c true (span 0x9000 16) && !sleeping s (span 0x70F0 16) && !s.queued c.t.core) = true := by decide

/-- Thread 0 stopped under FID 3, with a resume tuple for it. -/
def faultRig (hnd : Bool) (action handler trapPc : Word) : State :=
  { landing (rig fun th => { th with run := .faulted 3, hnd := hnd, trapPc := trapPc }) with
    fu := { next := 4, records := [⟨3, 1, none⟩], resumes := [⟨3, action, handler⟩] } }

/-- Each action, a SKIP that has a successor and one that has none, a HANDLE in handler mode and outside it. -/
theorem witness_resume : ∀ s ∈ [faultRig false 0 0 0x4088, faultRig false 1 0 0x4088, faultRig false 1 0 0x7FC000000000,
      faultRig true 2 0x4088 0x4088, faultRig false 2 0x4088 0x4088, faultRig false 3 0 0x4088, faultRig false 4 0 0x4088],
    Awake s ∧ (s.viewOf ⟨0, 0⟩).any (fun c => c.t.live && c.th.reissue.isEmpty && !c.th.finished && c.r == ⟨0, 0⟩) = true ∧
    (s.fu.resumes.find? fun r => r.fid == 3).isSome = true ∧ ((s.viewOf ⟨0, 0⟩).any fun c => !c.th.owing) = true ∧
    ∀ tm ∈ s.teams, ∀ th ∈ tm.threads.drop 1, th.run ≠ .faulted 3 := by decide

theorem witness_resume_checks : ∃ c, (faultRig false 2 0x4088 0x4088).viewOf ⟨0, 0⟩ = some c ∧
    (checkLanding (faultRig false 2 0x4088 0x4088) c 0x4088 true).isOk = true ∧
    (successorOf (faultRig false 1 0 0x4088) c 0x4088).isOk = true ∧
    (successorOf (faultRig false 1 0 0x7FC000000000) c 0x7FC000000000).isOk = false := ⟨_, rfl, by decide⟩

/-- A SKIP of a thread whose re-issue faulted: one recorded command is owed. -/
def owingRig : State :=
  { faultRig false 1 0 0x4088 with
    teams := (faultRig false 1 0 0x4088).teams.map fun t => { t with
      threads := t.threads.modify 0 fun th => { th with reissue := [⟨1, [1, 2, 3], 0, true⟩], cntAs := 1 } } }

theorem witness_owing : Awake owingRig ∧ (owingRig.viewOf ⟨0, 0⟩).any (fun c => c.t.live && c.th.owing && !c.th.finished &&
    c.th.reissue == [⟨1, [1, 2, 3], 0, true⟩] && c.th.run == .faulted 3 && c.th.wait == .none) = true := by decide

/-- A sleeping thread, and one that is not. -/
theorem witness_asleep : ((rig fun th => { th with wait := .asleep 7 }).thread ⟨0, 0⟩).map (fun th => (th.wait, th.run)) =
      some (.asleep 7, .running) ∧
    Awake (rig fun th => { th with wait := .asleep 7 }) ∧ (rig.thread ⟨0, 0⟩).map Thread.wait = some .none := by decide

/-- A store, a release behind nothing, a CAS that meets its value and one that does not, an add and a read, with and
without a result. -/
def entry (what : QWhat) (rel : Bool := false) : QEntry :=
  { uid := 3, core := 0, who := ⟨0, 0⟩, va := 0x5008, what := what, rel := rel }
def queueRig (e : QEntry) : State :=
  { rig fun th => { th with cntSt := 1, cntLd := 1, pend := [⟨3, [(8, 0, {}), (9, 0, {})], [(4, 0)], false, true⟩] } with
    queue := [{ uid := 2, core := 1, who := ⟨0, 1⟩, va := 0x5008, what := .write [(0x5008, 1)] }, e]
    mem := memWith [(0x5008, 7)] }
def entries : List QEntry :=
  [entry (.write [(0x5008, 1), (0x5009, 0)]), entry (.write [(0x5008, 1)]) true, entry (.rmw 0 1 0x5008 9 7 true true),
   entry (.rmw 0 0 0x5008 9 8 true true), entry (.rmw 0 0 0x5008 9 0 false false), entry (.rmw 12 1 0x5008 0 0 false true)]

theorem witness_entries : ∀ e ∈ entries, Awake (queueRig e) ∧
    ((queueRig e).queue.filter fun x => x.core == 0)[0]? = some e ∧ e.host = none ∧ sleeping (queueRig e) e.locs = false ∧
    (∀ x ∈ (queueRig e).queue, x.host ≠ some e.uid) ∧ e.locs.any isOutside = false ∧
    ((queueRig e).thread e.who).isSome = true := by decide

/-- A store and a compare-and-swap of a remote device's word, with a port up. -/
theorem witness_entries_remote : ∀ e ∈ [entry (.write (cellsAt (remoteLoc 1 0x40) [1, 0, 0, 0])),
      entry (.rmw 0 1 (remoteLoc 1 0x40) 9 7 true true)],
    let s := { queueRig e with boot := { stage := 5, ready := true, ports := [2] } }
    Awake s ∧ (s.queue.filter fun x => x.core == 0)[0]? = some e ∧ e.host = none ∧ sleeping s e.locs = false ∧
    (∀ x ∈ s.queue, x.host ≠ some e.uid) ∧ (∀ j < 4, isRemote (remoteLoc 1 0x40 + j) = true) ∧ remoteLoc 1 0x40 % 4 = 0 := by
  decide

/-- A load that is ready and one that is not; x writes of two threads under way. -/
def loadRig (ready : Bool) : State :=
  rig (fun th => { th with cntLd := 1, pend := [⟨3, [(8, 5, {}), (9, 6, {})], [(4, 7)], ready, true⟩] })
    (fun t => { t with xpend := [⟨1, 5, 8, none⟩, ⟨0, 6, 9, if ready then none else some 3⟩] })

theorem witness_loads : ∀ b, ((loadRig b).thread ⟨0, 0⟩).any (fun th =>
    (th.pend.find? fun q => q.uid == 3 && q.ready).isSome == b && (th.pend.all fun p => p.vregs.map Prod.fst == [8, 9])) = true ∧
    (loadRig b).teams.map Team.xpend = [[⟨1, 5, 8, none⟩] ++ ⟨0, 6, 9, if b then none else some 3⟩ :: []] ∧
    sleepingBanks (loadRig b) 0 [8, 9] = false ∧ ((loadRig b).thread ⟨0, 0⟩).map Thread.wait = some .none := by decide

/-! ### Witnesses: dispatch and pre-emption -/

/-- A die whose kind 9 is enabled in slot 2, with launches waiting in region 0xFFF. -/
def headRig (w6 : Word) (can : Bool) : State :=
  let tuple : List Word := [9, 0x4008, 2, BitVec.ofNat 64 decl, 0x40, 0, w6, 0x55]
  { rig with
    herd := { rigHerd with regions := [⟨0xFFF, true, 5, 128, 0x10000000, 0⟩], tuples := [⟨0xFFF, tuple, 0, 4, 4⟩], arrivals := 5 }
    hst := { qdescs := [⟨9, 0x1000, 0x8000000000000302⟩], work := [{ level := 0, id := 5, can := can, pb0 := 0x6000 }] } }

theorem witness_take : ∀ s ∈ [headRig 0 false, headRig 0x1000000005 false, headRig 5 true, headRig 0x2000000000 false],
    Awake s ∧ s.herd.admissionDue launchRegion = false ∧ s.launch? s.nextSeq = none ∧
    [0, 1].any (fun die => (takenHead (heads s die) (s.lastTake.getD die (0, 0))).isSome) = true := by decide

/-- The head that is taken holds an uncorrectable error. -/
theorem witness_take_flawed : let s := { headRig 0 false with herd := { (headRig 0 false).herd with flaws := [(4, true)] } }
    Awake s ∧ s.herd.admissionDue launchRegion = false ∧ [0, 1].any (fun die =>
      (takenHead (heads s die) (s.lastTake.getD die (0, 0))).any fun h => h.tuple.dep == 4 && s.herd.tuples.contains h.tuple) = true := by
  decide

theorem witness_heads : takenHead [] (0, 0) = none ∧
    (takenHead [⟨2, 9, ⟨0xFFF, [9, 0, 0, 0, 0, 0, 0, 0x55], 0, 4, 4⟩⟩, ⟨1, 8, ⟨0xFFF, [8, 0, 0, 0, 0, 0, 0, 0x55], 0, 5, 5⟩⟩] (1, 8)).map
      Head.slot = some 2 := by decide

/-- Launch 2 waits to be placed; it is alone, cooperative, or of more than one block. -/
def waiting (k : Launch → Launch) : State :=
  { rig with launches := [k { rigLaunch with seq := 2, placed := [] }], nextSeq := 3 }
def aloneTuple (n : Nat) (flags : Nat) : List Word := [1, 0x4008, BitVec.ofNat 64 n, BitVec.ofNat 64 (decl - 2 ^ 61 + flags), 0, 0, 0, 0]

theorem witness_placement : ∃ l x, (waiting fun l => { l with tuple := aloneTuple 2 0 }).launch? 2 = some l ∧ l.decl.coop = false ∧
    l.decl.clus = false ∧ 0 < l.nteams ∧ 0 ∉ l.placed ∧ coreStack 0 = l.owner 0 ∧
    columnAllows (waiting fun l => { l with tuple := aloneTuple 2 0 }) l 0 = true ∧
    savedFirst (waiting fun l => { l with tuple := aloneTuple 2 0 }) l 0 = false ∧
    roomFor (waiting fun l => { l with tuple := aloneTuple 2 0 }).holders 0 0 l.decl = some x ∧
    Memory.wf (waiting fun l => { l with tuple := aloneTuple 2 0 }).mem = true := ⟨_, _, rfl, by decide, by decide, by decide,
      by decide, by decide, by decide, by decide, rfl, by decide⟩

theorem witness_coop : ∃ l claims, (waiting fun l => { l with tuple := aloneTuple 2 (2 ^ 62) }).launch? 2 = some l ∧ l.decl.coop = true ∧
    (List.range l.nteams).filter (fun i => !l.placed.contains i) = [0, 1] ∧ l.reserved = [] ∧
    groupsOnClusters l ([0, 1].zip [0, 768]) = true ∧
    (∀ core ∈ [0, 768], columnAllows (waiting fun l => { l with tuple := aloneTuple 2 (2 ^ 62) }) l core = true ∧
      savedFirst (waiting fun l => { l with tuple := aloneTuple 2 (2 ^ 62) }) l core = false) ∧
    claimAll l.decl ([0, 1].zip [0, 768]) (waiting fun l => { l with tuple := aloneTuple 2 (2 ^ 62) }).holders = some claims :=
  ⟨_, _, rfl, by decide, by decide, by decide, by decide, by decide, rfl⟩

theorem witness_steal : let s := waiting fun l => { l with tuple := aloneTuple 128 0 }
    (s.launch 2).hasSlot = true ∧ (s.launch 2).decl.coop = false ∧ s.launches.map (fun m => m.waitsFor 1) = [true] ∧
    (let u := waiting fun l => { l with tuple := aloneTuple 128 0, placed := (List.range 64).map (64 + ·) }
     u.launches.map (fun m => m.waitsFor 1) = [false]) := by decide

/-- A group of four teams of a launch in clusters, for the four cores of cluster 0. -/
theorem witness_group : let s := waiting fun l => { l with tuple := aloneTuple 6 (2 ^ 61) }
    (s.launch 2).decl.clus = true ∧ (s.launch 2).decl.coop = false ∧ (s.launch 2).nteams = 6 ∧
    (∀ core ∈ [0, 1, 2, 3], coreStack core = (s.launch 2).owner 0 ∧ columnAllows s (s.launch 2) core = true ∧
      savedFirst s (s.launch 2) core = false) ∧
    (claimAll (s.launch 2).decl ([0, 1, 2, 3].zip [0, 1, 2, 3]) s.holders).map (fun l => l.map fun x => (x.index, x.core)) =
      some [(0, 0), (1, 1), (2, 2), (3, 3)] := by decide +kernel

/-- A cooperative launch whose first team has its place. -/
theorem witness_coop_place : let s := waiting fun l => { l with
      tuple := aloneTuple 2 (2 ^ 62), reserved := [⟨0, 5, 0, 0x20000, 0⟩, ⟨1, 6, 0, 0x20000, 0⟩] }
    (s.launch 2).decl.coop = true ∧ (s.launch 2).decl.clus = false ∧ (s.launch 2).reserved.map Claim.index = [0, 1] ∧
    (∀ core ∈ [5, 6], savedFirst s (s.launch 2) core = false ∧ columnAllows s (s.launch 2) core = true) := by decide

/-- Room for a block on the die that asks, and a block that it may have. -/
theorem witness_steal_room : let s := waiting fun l => { l with tuple := aloneTuple 128 0 }
    coreStack 768 = 1 ∧ (roomFor s.holders 64 768 (s.launch 2).decl).isSome = true ∧ (s.launch 2).owner 0 = 0 ∧
    (s.launch 2).pre = .running ∧ (s.launch 2).stolen = [] ∧
    (let u := waiting fun l => { l with tuple := aloneTuple 128 0, placed := (List.range 64).map (64 + ·) }
     (u.launches.all fun m => !m.waitsFor 1) = true ∧ (roomFor u.holders 0 768 (u.launch 2).decl).isSome = true) := by decide +kernel

/-- A tuple that is sound, and one of each rejection. -/
theorem witness_rejection : [aloneTuple 1 0, (aloneTuple 1 0).set 3 (BitVec.ofNat 64 (9 * 2 ^ 42)), (aloneTuple 1 0).set 3 (BitVec.ofNat 64 (1023 + 127 * 2 ^ 10)),
    (aloneTuple (2 ^ 20) 0).set 3 (BitVec.ofNat 64 (2 ^ 62)), aloneTuple 0 0, (aloneTuple 1 0).set 1 0x4010,
    (aloneTuple 4 0).set 3 (BitVec.ofNat 64 (2 ^ 61 + 30 * 2 ^ 46))].map rejection = [0, 1, 2, 3, 4, 5, 6] := by decide +kernel


/-- A team whose threads have exited, of a launch of two teams, and a retirement to report. -/
def endedRig (reports : List Nat) : State :=
  { rig id (fun t => { t with threads := t.threads.map fun th => { th with run := .exited } }) with
    launches := [{ rigLaunch with tuple := aloneTuple 2 0, reports := reports }] }

theorem witness_retire : teamQuiet (endedRig []) 0 = true ∧ (endedRig []).launches.map (fun l => (l.pre, l.ret, l.nteams)) = [(.running, 0, 2)] ∧
    (∀ tm ∈ (endedRig []).teams, tm.live = true ∧ ∀ th ∈ tm.threads, th.settled false = true) ∧
    (endedRig [0]).launches.map (fun l => (l.reports, l.ended, l.cancelled)) = [([0], false, false)] := by decide

theorem witness_retire_queue : ∀ tm ∈ (endedRig []).teams, ∀ th ∈ tm.threads, th.since = none := by decide

/-- The last team of a launch reports, and the last of a cancelled one; with no signal word, one in memory and one out
of line. -/
def lastRig (cancelled : Bool) (signal : Word) : State :=
  { rig id (fun t => { t with live := false, threads := t.threads.map fun th => { th with run := .exited } }) with
    launches := [{ rigLaunch with
      tuple := (aloneTuple 1 0).set 5 signal |>.set 6 0x1005, reports := [0], cancelled := cancelled, hasSlot := !cancelled }] }

theorem witness_launch_end : ∀ b ∈ [true, false], ∀ a ∈ [0, 0x5008, 0x5004], let s := lastRig b (BitVec.ofNat 64 a)
    Awake s ∧ Memory.wf s.mem = true ∧ (s.launches.all fun l => l.reports == [0] && !l.ended && l.pre == .running &&
      l.ret + 1 == l.nteams && l.die == 0 && l.troot == 0x1000 && l.priv && l.seq == 1) = true ∧
    (s.teams.all fun t => !t.live) = true ∧ s.hst.elogs.length = 3 ∧
    (translateAt s 0 0x1000 true false .store 0x5008).isOk = true := by decide +kernel

/-! A pre-emption for a launch of class 6 -/

/-- Every column of die 0 draws above its threshold; two teams of launch 1 stand on the cores of column 0, where
launch 2, of class 6 and the whole scratchpad, must go. -/
def hotRig : State :=
  let column (p : Nat) : ColumnRec := ⟨p, 1, ⟨0, 0, 0, 0, 5, 0, 0, 1⟩, 0⟩
  let m : Launch := { rigLaunch with tuple := aloneTuple 2 0, placed := [0, 1] }
  let l : Launch := { rigLaunch with
    seq := 2, cls := 6, placed := [], tuple := [1, 0x4008, 1, BitVec.ofNat 64 (128 * 2 ^ 17), 0, 0, 0, 0] }
  { rig with
    launches := [m, l]
    teams := [newTeam m ⟨0, 0, 0, 0x20000, 0⟩, newTeam m ⟨1, 384, 0, 0x20000, 0⟩]
    cols := { records := (List.range 384).map column }
    hst := { resv := some ⟨128, 0x10000000, 64, 0x11000000, 6554, 0x20000000, 0x40000000, 0x10000000, 0x60000000, 65536⟩ } }

theorem witness_hot : overThreshold hotRig 0 = true ∧ leastColumn hotRig 0 = 0 := by decide +kernel

theorem witness_threshold : Awake hotRig ∧ columnTeams hotRig 0 0 = [0, 1] ∧ pickedTeam hotRig [0, 1] = some 1 ∧
    (hotRig.launch 2).waitsFor 0 = true ∧ (hotRig.launch 2).cls = 6 ∧
    (hotRig.launch 1).decl.coop = false ∧ (hotRig.launch 1).pre = .running ∧ (hotRig.launch 1).agent = .none ∧
    (poolRoom hotRig (launchSize (hotRig.launch 1).decl 1)).isSome = true := by decide

/-- The two cores of column 0 have no room for launch 2. -/
theorem witness_hot_column : columnFull hotRig (hotRig.launch 2) 0 = true ∧ (hotRig.launch 2).needs 0 = true := by
  refine ⟨?_, by decide +kernel⟩
  have cores : (dieCores 0).filter (columnAllows hotRig (hotRig.launch 2)) = [0, 384] := by
    have h : ∀ core ∈ dieCores 0, columnAllows hotRig (hotRig.launch 2) core = (core % 384 == 0) := by
      intro core hc
      have hs : coreStack core = 0 := (by decide +kernel : ∀ core ∈ dieCores 0, coreStack core = 0) core hc
      have hl : ((hotRig.launch 2).decl.clus, (hotRig.launch 2).hasSlot, decide (6 ≤ (hotRig.launch 2).cls)) = (false, true, true) := by
        decide +kernel
      simp only [Prod.mk.injEq] at hl
      simp [columnAllows, hs, witness_hot, hl]
    rw [List.filter_congr h]
    decide +kernel
  have hn : nextTeam (hotRig.launch 2) 0 = some 0 := by decide +kernel
  have hc : (hotRig.launch 2).decl.coop = false := by decide +kernel
  simp only [columnFull, hc, hn, cores, Bool.false_eq_true, if_false]
  decide +kernel

/-- Launch 2 of the rig drains with its team, and without one. -/
theorem witness_drain : ∀ x ∈ [(saveRig [] (fun l => { l with pre := .draining }), [1]), (saveRig [] (fun l =>
      { l with pre := .draining, onlyTeam := some 4 }), [])],
    Awake x.1 ∧ unitTeams x.1 (x.1.launch 2) = x.2 ∧ (x.1.launch 2).pre = .draining := by decide

/-- A launch that drains with no team resident, some left unplaced and none. -/
theorem witness_drained : ∀ x ∈ [(([] : List Nat), true), ([0], false)],
    let s := { rig with launches := [{ rigLaunch with seq := 2, placed := x.1, pre := .draining, area := 0x100000 }], teams := [] }
    unitTeams s (s.launch 2) = [] ∧ (s.launch 2).onlyTeam = none ∧
    decide ((s.launch 2).placed.length < (s.launch 2).nteams) = x.2 ∧
    (s.launch 2).area + launchSize (s.launch 2).decl 0 ≤ hbmSize := by decide

/-- It comes to rest with its threads stopped. -/
theorem witness_quiesced : let s := saveRig [] fun l => { l with pre := .quiescing, area := 0x100000 }
    Awake s ∧ (s.launch 2).pre = .quiescing ∧ (∀ n ∈ unitTeams s (s.launch 2), teamStill s n = true) ∧
    (s.launch 2).area + launchSize (s.launch 2).decl (unitTeams s (s.launch 2)).length ≤ hbmSize := by decide

/-- A team at rest with withdrawn commands of each kind: its state has the lengths that the area's layout takes. -/
def savingRig : State :=
  let s := saveRig [] (fun l => { l with pre := .quiescing, area := 0x100000 })
  let records : List Reissue := [⟨1, [1, 2, 3], 0, false⟩, ⟨6, List.replicate 11 7, 4, false⟩]
  { s with teams := s.teams.modify 1 fun t => { t with
      withdrawn := [{ tileCmd 3 10 2 [0, 0, 0, 0, 0, 0] with words := [1, 2, 3], tags := List.replicate 6 {} }]
      convs := t.convs.set 2 { valid := true, first := 1, count := 2, signed := [1], opRec := some ⟨false, 1, 2, 3⟩ }
      threads := t.threads.modify 0 fun th => { th with reissue := records, run := .faulted 3 } } }

theorem witness_save_area : Awake savingRig ∧ Memory.wf savingRig.mem = true ∧ (savingRig.launch 2).pre = .quiescing ∧
    unitTeams savingRig (savingRig.launch 2) = [1] ∧ teamStill savingRig 1 = true ∧
    (savingRig.launch 2).area + launchSize (savingRig.launch 2).decl 1 ≤ hbmSize ∧ (savingRig.launch 2).tuple.length = 8 ∧
    (savingRig.teams[1]?).any (fun t => t.index == 0 && t.x.length == 64 && t.xpend.isEmpty && t.bars.length == 16 &&
      t.convs.length == 8 && t.strms.length == 8 && t.tdesc.length == 64 && t.ttag.length == 64 && t.hbars.length == 4 &&
      t.threads.length == 4 && t.threads.all fun th => th.herd.isEmpty && th.v.length == (declOf t.rdw).regs &&
      th.tags.length == (declOf t.rdw).regs) = true := by decide +kernel

/-- A saved team of one thread, that a good area describes, is restored on core 5. -/
def smallRig : State :=
  let l : Launch := { rigLaunch with
    seq := 2, tuple := [1, 0x4008, 1, 0, 0, 0, 0, 0], pre := .restoring, saved := [1], area := 0x100000, agent := .td }
  { rig with
    mem := memWith [(0x100000, 1), (0x100008, 2), (0x100050, 1), (0x101008, 0x2000), (0x102050, 0x3000)]
    launches := [rigLaunch, l]
    teams := rig.teams ++ [{ newTeam l ⟨0, 1, 0, 0x20000, 0⟩ with live := false }] }

def smallClaims : List Claim := (claimAll (smallRig.launch 2).decl [(0, 5)] smallRig.holders).getD []
def smallPlaced : State :=
  (([1] : List Nat).zip smallClaims).foldl (fun u x => placeSaved u (smallRig.launch 2) x.1 x.2) smallRig
    |>.modLaunch 2 fun l => { l with saved := l.saved.filter fun n => !([1].contains n) }

theorem witness_restore : Awake smallRig ∧ restoreGroup smallRig (smallRig.launch 2) = [1] ∧
    (∀ core ∈ [5], restoredFirst smallRig (smallRig.launch 2) core = false) ∧
    groupsOnClusters (smallRig.launch 2) [(0, 5)] = true ∧
    claimAll (smallRig.launch 2).decl [(0, 5)] smallRig.holders = some smallClaims ∧ smallPlaced.tiles = [] := by decide

theorem witness_resumed : (match resumeAll [⟨1, 0⟩] smallPlaced with
    | .next _ => true
    | _ => false) = true := by decide

/-- A team whose state the area at 1 MiB holds, with room for its bytes. -/
theorem witness_placed_team : ((areaOf smallRig 0x100000 0).isSome = true) ∧ (smallRig.errors, smallRig.poison, smallRig.tilePoison) = ([], [], []) ∧
    (smallRig.teams[1]?).any (fun tm => tm.index == 0 && tm.hbars.length == 4 && tm.threads.length == (declOf tm.rdw).size &&
      decide (0 + (declOf tm.rdw).scr ≤ 0x20000 ∧ 0 + (declOf tm.rdw).ext ≤ 0x40000 ∧ 0 + (declOf tm.rdw).tile ≤ 2 ^ 19)) = true ∧
    Memory.wf smallRig.mem = true := by decide +kernel

/-! ### Witnesses: the host, the device and the boot -/

def host (priv : Bool) : HostAgent := ⟨3, priv⟩

/-- PRE of no launch, of one that has ended, and of one that runs, with a pool to save it in. -/
def preRig (k : Launch → Launch) : State :=
  { saveRig [] k with
    hst := { resv := some ⟨128, 0x10000000, 64, 0x11000000, 6554, 0x20000000, 0x40000000, 0x10000000, 0x60000000, 65536⟩ } }

theorem witness_pre : Awake (preRig id) ∧ (preRig id).launch? 9 = none ∧ ((preRig id).launch? 2).map Launch.pre = some .running ∧
    ((preRig fun l => { l with ended := true }).launch? 2).map Launch.ended = some true ∧
    (poolRoom (preRig id) (launchSize ((preRig id).launch 2).decl 1)).isSome = true := by decide

/-- PRE with another pre-emption under way, and with no room in the pool. -/
theorem witness_pre_refused : ((preRig fun l => { l with pre := .draining }).launch? 2).map Launch.pre = some .draining ∧
    poolRoom (saveRig [] id) 1 = none := by decide

/-- RES of the launch of `restRig`, saved into the pool, by its number and as the last one saved. -/
def resRig : State :=
  let s := restRig fun l => { l with pool := some (0x100000, 81920), area := 0x100000 }
  { s with hst := { lastPre := some 2 } }

theorem witness_res : Awake resRig ∧ (resRig.launch 2).pre = .saved ∧ (resRig.launch 2).pool.isSome = true ∧
    areaNat resRig 0x100000 8 = 1 ∧ areaNat resRig 0x100008 8 = 2 ∧ (resRig.launch 2).saved = [1] ∧ (resRig.launch 2).area = 0x100000 ∧
    resRig.launch? 9 = none := by decide +kernel

theorem witness_res_area : imageGood resRig (resRig.launch 2) 0x100000 = true := by
  have h : (resRig.launch 2).image = 0 := by decide +kernel
  simp only [imageGood, Bool.and_eq_true]
  refine ⟨⟨⟨⟨by decide +kernel, ?_⟩, by decide +kernel⟩, by decide +kernel⟩, by decide +kernel⟩
  rw [List.all_eq_true]
  intro j hj
  rw [h, beq_iff_eq]
  exact restRig_image (fun l => { l with pool := some (0x100000, 81920), area := 0x100000 }) j (List.mem_range.mp hj)

/-- KVX export of a sequence, of one with an append accepted, and of none; import of an image of one empty chain, and
of one that is malformed. -/
def kvxRig (w : Nat) : State :=
  { seqRig [] [seven] with hst := { kvxa := 0x100000 }, mem := memWith [(0x100000, w)] }

theorem witness_kvx : Awake (kvxRig 0x01010101) ∧ kvxBusy (kvxRig 0) seven = false ∧
    kvxBusy { kvxRig 0 with tiles := [writeCmd] } seven = true ∧ (kvxRig 0).seq? 8 = none ∧
    (imageRecord (kvxRig 0x01010101) 0x100000 5 0).map (fun x => x.2.map ImageChain.count) = some [0] ∧
    (imageRecord (kvxRig 0) 0x100000 5 0).isNone = true ∧ freeSeq (kvxRig 0) = some 0 ∧
    (allocPages 0 (kvxRig 0)).isSome = true := by decide

/-- The image of a chain of one page fits at KVXA. -/
theorem witness_kvx_image : Memory.wf (kvxRig 0).mem = true ∧ 0x100000 + 1024 + 16 * seven.chains.length + 0x14000 * 1 ≤ hbmSize ∧
    seven.window.length ≤ 64 ∧ (seven.chains.map fun k => k.pages.length).sum = 1 := by decide

/-- An image past the end of HBM, one whose pages would be, and no page for one. -/
theorem witness_kvx_refused : hbmSize < 0xBFFFFFFE00 + 1024 ∧ hbmSize < 0xBFFFFF0000 + 1024 + 16 * 1 + 0x14000 * 1 ∧
    (allocPages 1 rig).isNone = true := by decide

theorem witness_report : ∀ p ∈ [none, some (List.replicate 8 (5 : Word))], Awake { rig with hst := { producing := p } } ∧
    p.all (fun w => w.length == 8) = true := by decide

/-- Accesses to the windows, to CONTROL, to compute HBM at its end, and by a remote device with a port up and with
none. -/
theorem witness_windows : Awake rig ∧ rig.boot.ready = true ∧ (rig.herd.region? 0xFFE).map Region.scope = some 5 ∧
    (rig.herd.region? 5).map Region.scope = some 4 ∧ (host true).priv = true ∧ (host false).priv = false ∧
    0xBFFFFFFFC0 + (List.replicate 64 (0 : Byte)).length ≤ 0xC000000000 ∧ rig.boot.ports = [] := by decide

/-- A deposit of the agent's that is still on its way. -/
def depositRig (r : Nat) : State :=
  { rig with herd := { rigHerd with flying := [{ takeSeven 9 (.dep 3 false) with src := .window true 5 (some r) }] } }

theorem witness_deposit_waits : Awake (depositRig 3) ∧ ((depositRig 3).herd.flying.map fun q => q.src) = [.window true 5 (some (host true).channel.toNat)] ∧
    ((depositRig 4).herd.flying.all fun q => q.src != .window true 5 (some (host true).channel.toNat)) = true := by decide

/-- One that has been answered and whose counts are still to rise. -/
theorem witness_deposit_done : let s : State := { rig with herd := { rigHerd with done := [⟨9, .window true 5 (some 3), .dep 3 true, 6, 2, []⟩] } }
    Awake s ∧ (s.herd.done.map HDone.src) = [.window true 5 (some (host true).channel.toNat)] := by decide

/-- Requests of a remote device at the limit of their length, in HBM and past its end; enables with a gap; and an
atomic. -/
theorem witness_remote : let s := { rig with boot := { stage := 5, ready := true, ports := [2] } }
    Awake s ∧ s.boot.ports ≠ [] ∧ Memory.wf s.mem = true ∧ 0xBFFFFFFF00 + 256 ≤ 0xC000000000 ∧ 256 < 257 ∧
    [true, false, true].length = ([1, 2, 3] : List Byte).length ∧ remoteReturning s = false ∧ 2 ∈ s.boot.ports ∧
    s.boot.ports = [2] := by decide

/-- Bytes of HBM that hold no damage, and poisoned ones. -/
theorem witness_remote_bytes : damaged rig (span 0xBFFFFFFF00 8) = false ∧
    anyPoison { rig with poison := [0xBFFFFFFF00 / 8] } (span 0xBFFFFFFF00 8) = true := by decide

/-- A store to a remote device that a link drops; a port that is up. -/
def linkRig : State :=
  { queueRig { entry (.write [(remoteLoc 1 0x40, 1)]) with va := 0x5010 } with
    boot := { stage := 5, ready := true, ports := [2] } }

theorem witness_link : Awake linkRig ∧ ((linkRig.queue.find? fun x => x.uid == 3).map fun e => e.locs.any isRemote) = some true ∧
    ∀ e ∈ linkRig.queue, e.uid = 3 → (canPerform linkRig e.core (queueIndex linkRig e)).isSome = true := by decide

/-- One that writes a local byte besides; and a tuple in which an error is found. -/
theorem witness_link_mixed : let s := { linkRig with
      queue := [{ entry (.write [(0x5008, 1), (remoteLoc 1 0x40, 2)]) with va := 0x5FFF }] }
    Awake s ∧ (s.queue.all fun e => e.uid == 3 && e.locs.any isRemote && (canPerform s e.core (queueIndex s e)).isSome) = true ∧
    (s.thread ⟨0, 0⟩).isSome = true := by decide

theorem witness_tuple_mark : let s := { rig with herd := ranked }
    Awake s ∧ ((s.herd.tuples.find? fun t => t.dep == 2).map HTuple.region) = some 6 ∧ s.herd.flying = [] := by decide

/-- A layer that is hot, an array that sleeps, and their opposites. -/
theorem witness_device : Awake { rig with cols := { critical := [(767, 3)] }, retained := [.registerBank 1535 5] } ∧
    (767, 3) ∈ [(767, 3)] ∧ (766, 3) ∉ [(767, 3)] ∧ ArrayUnit.registerBank 1535 4 ∉ [ArrayUnit.registerBank 1535 5] ∧
    8 * 0x17FFFFFFFF < 0xC000000000 ∧ rig.poison = [] ∧ rig.tilePoison = [] ∧ poisonWaits rig [8 * 0x17FFFFFFFF] = false ∧
    (rig.thread ⟨0, 0⟩).map (fun th => decide (63 < th.v.length)) = some true := by decide

/-- The boot before each of its stages, with a rollback counter, and held. -/
def bootRig (stage : Nat) : State := { State.cleared with boot := { stage := stage, fuse := 3 } }

theorem witness_boot : ∀ n ∈ [0, 1, 2, 3], Awake (bootRig n) ∧ (bootRig n).boot.fail = false ∧ (bootRig n).boot.stage = n := by decide

/-- A formed image with no body, of version 3, and one whose magic is wrong. Whether it is sound is a matter of
SHA-512 and ECDSA, which the model does not open (log 103). -/
def firmware (magic : Nat) : FirmwareImage :=
  ⟨leBytes 8 magic ++ (leBytes 2 3 ++ (leBytes 2 2 ++ List.replicate 500 0)), []⟩

theorem witness_firmware : let part (im : FirmwareImage) (off len : Nat) : List Byte := (im.header.drop off).take len
    (firmware 0x4E5846444A524E4D).header.length = 512 ∧ leNat (part (firmware 0x4E5846444A524E4D) 0 8) = 0x4E5846444A524E4D ∧
    leNat (part (firmware 0x4E5846444A524E4D) 0xC 4) = 0 ∧ leNat (part (firmware 0x4E5846444A524E4D) 8 2) = 3 ∧
    part (firmware 0x4E5846444A524E4D) 0x158 168 = List.replicate 168 0 ∧ leNat (part (firmware 7) 0 8) ≠ 0x4E5846444A524E4D := by
  decide +kernel

theorem witness_record :
    recordGood ⟨128, 0x10000000, 64, 0x11000000, 6554, 0x20000000, 0x40000000, 0x10000000, 0x60000000, 65536⟩ = true ∧
    (2 : BitVec 16) < (bootRig 2).boot.fuse ∧ (bootRig 2).boot.fuse ≤ (3 : BitVec 16) := by decide

/-! ### Witnesses: the machine as a whole -/

/-- v2 awaits a load. -/
def pendRig : State := rig fun th => { th with pend := [⟨3, [(2, 5, {})], [], true, true⟩] }

/-- A word that waits, in full and paired form; one of an undefined MOD; one of a register beyond the declared 64; one
of a thread without privilege; one whose guard is false; and two slots that write one register. -/
theorem witness_waits : viewed pendRig (fun c =>
    c.hazard (shapeVecs (shape 1 0 (ops 1 2 3 0)) (ops 1 2 3 0)) (shapeXs (shape 1 0 (ops 1 2 3 0)) (ops 1 2 3 0)) [7] &&
    c.hazard [1, 2, 18, 9] [] [7, 7]) = true := by decide

theorem witness_traps : viewed rig (fun c =>
      (frontTrap 2 0 0 Guard.always (ops 1 2 3 0 2) c false).isSome &&
      (frontTrap 1 0 0 Guard.always (ops 1 64 3 0) c false == some { cause := 0x03, sub := 0 }) &&
      (pairTrap c ⟨2, 6, 7, false, false, 7⟩ ⟨18, 6, 10, false, false, 7⟩).isSome &&
      (fullSub 1 0 0 Guard.always (ops 1 64 3 0)).isNone && (nextWord c.th.pc false).isSome) = true ∧
    viewed (rig fun th => { th with priv := false }) (fun c =>
      (shape 0 3 (ops 0 0 0 0)).priv == 1 && (frontTrap 0 3 0 Guard.always (ops 0 0 0 0) c false).isSome) = true := by decide

theorem witness_guard : viewed rig (fun c =>
    !c.guard ⟨0, false⟩ && c.guard ⟨0, true⟩ && (frontTrap 1 0 0 ⟨0, false⟩ (ops 1 2 3 0) c false).isNone) = true ∧
    fullSub 1 0 0 ⟨7, true⟩ (ops 1 2 3 0) = some 4 ∧ fullSub 4 8 1 Guard.always (ops 5 0 0 0 4) = none ∧
    fullSub 4 8 0 Guard.always (ops 5 0 0 0 4) = some 6 ∧ fullSub 1 0 1 Guard.always (ops 1 2 3 0) = some 6 := by decide

theorem witness_limm_word : decodeWord 0x048E014000000081 (some 9) = .instr (.limm Guard.always (ops 5 0 0 0 4) 9) 16 := by decide

theorem witness_frames : (match exec (.exit Guard.always (ops 0 0 0 0)) rig with
    | .next _ => true
    | _ => false) = true ∧ parts (.exit Guard.always (ops 0 0 0 0)) ≠ .event := by decide

/-- The rig with a line of words at 0x4000 whose header marks every word as a start, and the agenda at thread 0. -/
def lineRig (header w : Nat) (ms : List Move := [.thread ⟨0, 0⟩]) : State :=
  { rig with mem := memWith [(0x4000, header), (0x4008, w)], agenda := ms, cur := none }

/-- The header of the line at 0x4000. -/
def memWord0 (t : State) : Word := (memLine t 0x4000).getD 0 0

/-- A word that no START mark names, in a consistent line: the extension of the LIMM before it. -/
theorem witness_unmarked : let t := { lineRig 0xFFFA 0x048E014000000081 with agenda := [], cur := some ⟨0, 0⟩ }
    lineSub (memLine t 0x4000) = none ∧ (memWord0 t).getLsbD 2 = false := by decide +kernel

/-- A good line's word is an instruction, or none; an inconsistent line; and the move of an event. -/
theorem witness_step : ∀ w ∈ [0x010E0040200C0000, 0x7F0E000000000000],
    let s := lineRig 0xFFFE w
    let t := { s with agenda := [], cur := some ⟨0, 0⟩ }
    Awake s ∧ viewed t (fun c => locOf (translate t c .fetch c.th.pc) == 0x4008 && c.th.pc == 0x4008) = true ∧
    lineCached t 0 0x4000 = false ∧ lineSub (memLine t 0x4000) = none ∧
    eccSub t ((List.range 16).map fun k => 0x4000 + 8 * k) = none ∧ sleeping t (span 0x4000 128) = false ∧
    (memWord0 t).getLsbD 1 = true ∧
    (match decode (memBytes t.mem 0x4008 120) with
      | .instr _ _ => w == 0x010E0040200C0000
      | .illegal sub slot => w != 0x010E0040200C0000 && sub == 1 && slot == 0
      | .short => false) = true := by decide +kernel

theorem witness_step_turn : let s := { lineRig 0xFFFE 0x010E0040200C0000 [] with turn := 2 }
    pick s = some ⟨0, 0⟩ := by decide +kernel

theorem witness_bad_line : let s := lineRig 0xFFFF 0x010E0040200C0000
    let t := { s with agenda := [], cur := some ⟨0, 0⟩ }
    viewed t (fun c =>
      match fetchLine t c c.th.pc with
      | .ok ws => lineSub ws == some 0xD
      | .error _ => false) = true ∧
    viewed { t with cur := some ⟨0, 0⟩, teams := t.teams.map fun m => { m with threads := m.threads.map fun th =>
      { th with pc := 0x7FC000004008 } } } (fun c =>
      match fetchWord t c c.th.pc with
      | .ok _ => false
      | .error e => (match e with
        | .trap _ => true
        | .fault _ => false
        | .wait => false)) = true := by decide +kernel

theorem witness_step_event : Awake (lineRig 0 0 [.event (.sleepExpiry 0 0)]) := by decide

/-- The line of 02's example is consistent; a header with a res0 bit, and one whose extension word is marked, are not. -/
def exampleLine (header : Word) : List Word :=
  [header, 0x010E0040200C0000, 0x048E014000000081, 0x240000000, 0x82018073A4048147, 0x1805FFFFFFFFFC00] ++
    List.replicate 10 0x000E000000000000

theorem test_line : (exampleLine 0x2FFF6).length = 16 ∧ lineSub (exampleLine 0x2FFF6) = none ∧
    lineSub (exampleLine 0x10002FFF6) = some 0xD ∧ lineSub (exampleLine 0x2FFFE) = some 0xE ∧
    lineSub (exampleLine 0x8FFF6) = some 0xE := by decide

theorem test_next_word : nextWord 0x40000210 true = some 0x40000220 ∧ nextWord 0x40000278 false = some 0x40000288 := by decide

/-- A thread at the last word below 2^48, which has no successor. -/
def lastPc : State := rig fun th => { th with pc := 0x0000FFFFFFFFFFF8 }

theorem witness_no_successor : viewed lastPc (fun c => (nextWord c.th.pc false).isNone && (nextWord c.th.pc true).isNone &&
    !c.hazard (shapeVecs (shape 0x04 8 (ops 5 0 0 0 4)) (ops 5 0 0 0 4)) [] [7] &&
    !wordWaits lastPc c [5]) = true := by decide

/-- A 4 KiB leaf of each target type, and where its byte 0x18 lies. -/
def leafRig (e : Nat) : State :=
  { rig with mem := memWith [(0x2028, 0x3001), (0x3000, 0x4001), (0x4000, e)], tlb := [], boot := { stage := 5, ready := true, device := some 3 } }

theorem witness_leaves : ∀ x ∈ [(2, 7, 0x1000, scratchLoc 7 0x1018), (3, 7, 0x20000, scratchLoc 7 0x20018), (5, 0, 0x1000, elandLoc 0x1018),
      (6, 9, 0x1000, remoteLoc 9 0x1018), (7, 0, 0x1000, hostLoc 0x1018), (8, 0, 0x1000, telemetryLoc 0x1018)],
    let s := leafRig (x.2.1 * 2 ^ 52 + x.2.2.1 + x.1 * 2 ^ 8 + 0x3F)
    viewed s (fun c => locOf (translate s c .load 0x140000018) == x.2.2.2) = true ∧ s.tlb = [] ∧ s.retained = [] := by decide +kernel

theorem witness_leaf_traps : ∀ x ∈ [(2, 1536, 0x1000, 4), (2, 768, 0x1000, 3), (2, 7, 0x20000, 4), (6, 3, 0x1000, 4), (8, 0, 0x10000, 4)],
    let s := leafRig (x.2.1 * 2 ^ 52 + x.2.2.1 + x.1 * 2 ^ 8 + 0x3F)
    viewed s (fun c =>
      match translate s c .load 0x140000018 with
      | .error (.trap t) => t.cause == 0x07 && t.sub == x.2.2.2
      | _ => false) = true := by decide +kernel

/-- A load of a remote device's word. -/
theorem witness_ld_remote : let s := { leafRig (9 * 2 ^ 52 + 0x1000 + 0x63F) with
      teams := (rigX [(2, 0x140000010)]).teams, boot := { stage := 5, ready := true, device := some 3, ports := [2] } }
    acting 0x20 0 (ops 8 0x202 0x3FF 0x2C1 3) s (fun c => decide (c.th.cntLd < 63) &&
      locOf (translate s c .load 0x140000018) == remoteLoc 9 0x1018 && readable s c true (span (remoteLoc 9 0x1018) 8) &&
      (unserved s c (span (remoteLoc 9 0x1018) 8)).length == 8) = true ∧
    (span (remoteLoc 9 0x1018) 8).all isOutside = true ∧ remoteLoc 9 0x1018 % 8 = 0 := by decide +kernel

/-- The walk of 5 GiB ends in the entry at 0x2028: how each entry answers a store of the rig's thread. -/
def walkRig (e : Nat) : State := { rig with mem := memWith [(0x2028, e)], tlb := [] }

theorem witness_walk : ∀ x ∈ [(0x14000003E, (some (0x05, 1) : Option (Nat × Nat))), (0x1400000BF, some (0x05, 2)),
      (0x140000037, some (0x06, 2)), (0x14000093F, some (0x07, 1)), (0x14000053F, some (0x07, 2)), (0x14000003F, none)],
    viewed (walkRig x.1) (fun c =>
      match translate (walkRig x.1) c .store 0x140000018, x.2 with
      | .ok y, none => y.loc == 0x140000018
      | .error (.trap t), some (cause, sub) => t.cause == cause && t.sub == sub
      | _, _ => false) = true ∧ (walkRig x.1).tlb = [] ∧ (walkRig x.1).poison = [] ∧ (walkRig x.1).tilePoison = [] ∧
    (walkRig x.1).errors = [] ∧ (walkRig x.1).retained = [] := by decide +kernel

theorem witness_walk_tables : viewed (walkRig 0x14000003F) (fun c =>
    c.la.troot == 0x1000 && memNat (walkRig 0x14000003F).mem (0x1000 + 8 * (0x140000018 / 2 ^ 39 % 512)) 8 == 0x2001 &&
    memNat (walkRig 0x14000003F).mem (0x2000 + 8 * (0x140000018 / 2 ^ 30 % 512)) 8 == 0x14000003F) = true := by decide +kernel

/-- 07's example of a walk: a 2 MiB leaf of TT 0, that an unprivileged fetch may use and a store may not. -/
theorem test_walk_example :
    let s := { rig (fun th => { th with priv := false }) with
      mem := [(0x1000, 0x2001), (0x2008, 0x3001), (0x3000, 0x12344000B7)].foldl (fun m p => memPut m p.1 (leBytes 8 p.2)) []
      tlb := [] }
    viewed s (fun c =>
      match translate s c .fetch 0x40000208, translate s c .store 0x40000208 with
      | .error (.trap _), .error (.trap _) => true
      | _, _ => false) = true := by decide +kernel

theorem test_walk_example_leaf :
    let s := { rig (fun th => { th with priv := false }) with
      mem := [(0x1000, 0x2001), (0x2008, 0x3001), (0x3000, 0x1234400037)].foldl (fun m p => memPut m p.1 (leBytes 8 p.2)) []
      tlb := [] }
    viewed s (fun c =>
      match translate s c .fetch 0x40000208, translate s c .store 0x40000208 with
      | .ok x, .error (.trap t) => x.loc == 0x1234400208 && t.cause == 0x06 && t.sub == 2
      | _, _ => false) = true := by decide +kernel

/-- Memory keeps its form from reset, and from a state with words in memory. -/
theorem witness_form : Memory.wf State.reset.mem = true ∧ Memory.wf (lineRig 0xFFFE 0x010E0040200C0000).mem = true ∧
    (match step (lineRig 0xFFFE 0x010E0040200C0000) with
      | .next _ => true
      | _ => false) = true := by decide +kernel

/-! ### Decoding: a word of each family, from the layouts of 02 R26, R34, R46 and the examples of the chapters -/

theorem test_decode_system : decodeTableWord 64 0x002E000000000500 = some (.trap Guard.always (ops 0 0 0 5)) ∧
    decodeTableWord 64 0x003E000000000000 = some (.eret Guard.always (ops 0 0 0 0)) ∧
    decodeTableWord 64 0x003E000000000020 = some (.eretNext Guard.always (ops 0 0 0 0 1)) ∧
    decodeTableWord 64 0x00AE0140601C0000 = some (.save Guard.always (ops 5 6 7 0)) ∧
    decodeTableWord 64 0x00BE014000000000 = some (.rest Guard.always (ops 5 0 0 0)) := by decide

theorem test_decode_data : decodeTableWord 64 0x010E0040200C0000 = some (.iadd Guard.always (ops 1 2 3 0)) ∧
    decodeTableWord 64 0x028E0040200C0000 = some (.bfe Guard.always (ops 1 2 3 0)) ∧
    decodeTableWord 64 0x030E0040200C5440 = some (.icmp Guard.always (ops 1 2 3 0x54 2)) ∧
    decodeTableWord 64 0x041E004020000500 = some (.andi Guard.always (ops 1 2 0 5)) ∧
    decodeTableWord 64 0x100E0040200C0000 = some (.fadd Guard.always (ops 1 2 3 0)) ∧
    decodeTableWord 64 0x110E004020000000 = some (.frcp Guard.always (ops 1 2 0 0)) ∧
    decodeTableWord 64 0x125E004020000000 = some (.fclass Guard.always (ops 1 2 0 0)) := by decide

theorem test_decode_control : decodeTableWord 64 0x1805FFFFFFFFFC00 = some (.bra ⟨2, true⟩ (ops 1023 1023 1023 1020)) ∧
    decodeTableWord 64 0x82018073A4048147 = some (.pairWord ⟨2, 6, 7, false, false, 7⟩ ⟨18, 9, 10, false, false, 7⟩) ∧
    decodeTableWord 128 0x240000000048E014000000081 = some (.limm Guard.always (ops 5 0 0 0 4) 0x240000000) := by decide

theorem test_decode_memory : decodeTableWord 64 0x200E0220201B0440 = some (.ld Guard.always (ops 8 514 6 772 2)) ∧
    decodeTableWord 64 0x223E000000001300 = some (.fence Guard.always (ops 0 0 0 0x13)) ∧
    decodeTableWord 64 0x303E014060001000 = some (.gscan Guard.always (ops 5 6 0 0x10)) ∧
    decodeTableWord 64 0x284E080080254A00 = some (.htak Guard.always (ops 32 8 9 330)) ∧
    decodeTableWord 64 0x280E080080014A20 = some (.hdep Guard.always (ops 32 8 0 330 1)) := by decide

theorem test_decode_engines : decodeTableWord 64 0x313E008180000000 = some (.brwait Guard.always (ops 2 24 0 0)) ∧
    decodeTableWord 64 0x400E004050000000 = some (.tset Guard.always (ops 1 5 0 0)) ∧
    decodeTableWord 64 0x482E0100A02C0000 = some (.attnt Guard.always (ops 4 10 11 0)) ∧
    decodeTableWord 64 0x500E014060000000 = some (.lstat Guard.always (ops 5 6 0 0)) ∧
    decodeTableWord 64 0x502E0140601C0800 = some (.gpatch Guard.always (ops 5 6 7 8)) := by decide

/-- What the decoder refuses, with the sub-cause of 02 R48. -/
theorem test_refused_words : decodeWord 0x7F0E000000000000 none = .illegal 1 0 ∧ decodeWord 0x0F0E000000000000 none = .illegal 1 0 ∧
    decodeWord 0x00FE000000000000 none = .illegal 2 0 ∧ decodeWord 0xC000000000000000 none = .illegal 3 0 ∧
    decodeWord 0x010F0040200C0000 none = .illegal 4 0 ∧ decodeWord 0x010E0040200C0002 none = .illegal 5 0 ∧
    decodeWord 0x010E0040200C0001 none = .illegal 6 0 ∧ decodeWord 0x020E0040200C0040 none = .illegal 7 0 := by decide

/-! ### What WellFormed refuses, one term for each check of 02 R48 -/

theorem test_ill_formed : ∀ i ∈ [
    -- an unused field, and an upper bit of a predicate field (03)
    Instr.nop Guard.always (ops 1 0 0 0), .icmp Guard.always (ops 8 2 3 0),
    -- p7 negated (04)
    .iadd ⟨7, true⟩ (ops 1 2 3 0),
    -- an undefined MOD, and a MOD of another constructor (07)
    .and Guard.always (ops 1 2 3 0 2), .eret Guard.always (ops 0 0 0 0 1), .cctlDinv Guard.always (ops 0 2 0 0 1),
    -- an odd pair (08)
    .iadd64 Guard.always (ops 1 4 6 0),
    -- a hold bit on a field that is no vector source, and HD on a MOV slot (0C)
    .trap Guard.always { ops 0 0 0 5 with ha := true }, .pairWord ⟨1, 6, 7, true, false, 7⟩ ⟨0, 0, 0, false, false, 0⟩,
    -- a barrier number of a wider scope (0F)
    .bar Guard.always (ops 0 0 0 0x41),
    -- a NOP slot that is not zero, a reserved slot operation, one destination twice, two registers of one bank (03, 09, 0A, 0B)
    .pairWord ⟨0, 6, 0, false, false, 0⟩ ⟨2, 9, 10, false, false, 7⟩, .pairWord ⟨13, 6, 7, false, false, 7⟩ ⟨0, 0, 0, false, false, 0⟩,
    .pairWord ⟨2, 6, 7, false, false, 7⟩ ⟨18, 6, 10, false, false, 7⟩, .pairWord ⟨2, 6, 12, false, false, 7⟩ ⟨18, 9, 10, false, false, 7⟩,
    -- LIMM to an odd pair (08), the form of TEPI that a register selects, and an event, which has no word
    .limm Guard.always (ops 5 0 0 0) 7, .tepiKv Guard.always (ops 0 2 3 4), .sleepExpiry 0 0],
    WellFormed i = false := by decide

theorem test_well_formed : ∀ i ∈ [Instr.nop Guard.always (ops 0 0 0 0), .iadd ⟨0, true⟩ (ops 1 2 3 0),
    .limm Guard.always (ops 4 0 0 0) 7, .pairWord ⟨2, 6, 12, false, true, 7⟩ ⟨18, 9, 10, false, false, 7⟩,
    .eretNext Guard.always (ops 0 0 0 0 1)], WellFormed i = true ∧ decode (encode i) = .instr i (8 * (encodeWords i).length) := by
  decide

/-! ### Single steps with the results of 04's worked examples -/

/-- The vector register 1 of thread 0 after the word. -/
def v1After (i : Instr) (l : List (Nat × W32)) (k : Thread → Thread := id) : Option W32 :=
  match exec i (rig fun th => k (withV l th)) with
  | .next t => (t.thread ⟨0, 0⟩).map fun th => th.v.getD 1 0
  | _ => none

theorem test_iadd : v1After (.iadd Guard.always (ops 1 2 3 0 1)) [(2, 0x7FFFFFF0), (3, 0x20)] = some 0x7FFFFFFF ∧
    v1After (.iadd Guard.always (ops 1 2 3 0)) [(2, 0x7FFFFFF0), (3, 0x20)] = some 0x80000010 := by decide

theorem test_imulh : v1After (.imulh Guard.always (ops 1 2 3 0 2)) [(2, 0xFFFFFFFF), (3, 0xFFFFFFFF)] = some 0xFFFFFFFE ∧
    v1After (.imulh Guard.always (ops 1 2 3 0)) [(2, 0xFFFFFFFF), (3, 0xFFFFFFFF)] = some 0 := by decide

theorem test_shifts : v1After (.shf Guard.always (ops 1 2 3 4)) [(2, 0x87654321), (3, 0x12345678), (4, 8)] = some 0x78876543 ∧
    v1After (.shl Guard.always (ops 1 2 4 0)) [(2, 0x87654321), (4, 40)] = some 0 := by decide

theorem test_bfe : v1After (.bfe Guard.always (ops 1 2 3 0)) [(2, 0xF00), (3, 0x408)] = some 0xFFFFFFFF ∧
    v1After (.bfe Guard.always (ops 1 2 3 0 2)) [(2, 0xF00), (3, 0x408)] = some 0xF := by decide +kernel

theorem test_prmt : v1After (.prmt Guard.always (ops 1 2 3 4)) [(2, 0x44332211), (3, 0x88776655), (4, 0xF076)] =
    some 0xFF118877 := by decide

theorem test_fmin : v1After (.fmin Guard.always (ops 1 2 3 0)) [(2, 0x7FC00001), (3, 0x3F800000)] = some 0x3F800000 ∧
    v1After (.fmin Guard.always (ops 1 2 3 0)) [(2, 0x7F800001), (3, 0x3F800000)] = some 0x3F800000 := by decide +kernel

theorem test_frcp : v1After (.frcp Guard.always (ops 1 2 0 0)) [(2, 0)] = some 0x7F800000 := by decide +kernel

theorem test_cvt : v1After (.cvt Guard.always (ops 1 2 0 0x80 4)) [(2, 0x4396599A)] = some 0x7F := by decide +kernel

theorem test_ffma : v1After (.ffma Guard.always (ops 1 2 3 4)) [(2, 0), (3, 0x7F800000), (4, 0x7FC01234)] = some 0x7FC01234 := by
  decide +kernel

/-- The two forms of the comparison of 04's example. -/
theorem test_icmp : (∀ x ∈ [((2 : BitVec 3), false), (0, true)],
    (match exec (.icmp Guard.always (ops 1 2 3 0x54 x.1)) (rig (withV [(2, 0xFFFFFFFF), (3, 1)])) with
      | .next t => (t.thread ⟨0, 0⟩).map fun th => th.p.getLsbD 1
      | _ => none) = some x.2) := by decide

/-- 04's pair word under FTZ: v6 and v9. -/
theorem test_pair_ftz :
    (match exec (.pairWord ⟨2, 6, 7, false, false, 7⟩ ⟨18, 9, 10, false, false, 7⟩)
        (rig fun th => { withV [(6, 3), (7, 5), (9, 0x00800000), (10, 0x3F000000)] th with fpmode := 1 }) with
      | .next t => (t.thread ⟨0, 0⟩).map fun th => (th.v.getD 6 0, th.v.getD 9 0)
      | _ => none) = some (8, 0) := by decide +kernel

/-! ### Worked sizes and system registers -/

/-- 05's example of a declaration: its fields, and the capacity of a cooperative launch of it. -/
theorem test_declaration : (declOf 0x4042084800502CFF).regs = 96 ∧ (declOf 0x4042084800502CFF).scr = 40960 ∧
    (declOf 0x4042084800502CFF).tile = 65536 ∧ (declOf 0x4042084800502CFF).park = 16 ∧
    coopCapacity (declOf 0x4042084800502CFF) = 3072 := by decide

/-- 15's example of a save: 64 threads of 32 registers, 16 KiB of scratchpad, 8 parked requests. -/
def savedDecl : Decl := ⟨64, 32, 16384, 0, 0, 0, 0, 0, 8, false, false, false⟩

theorem test_save_size : teamSize savedDecl = 315392 ∧ launchSize savedDecl 1 = 323584 := by decide

/-- 16's example: CORE, CLUSTER, COLUMN, LAYER and DIE of a thread on core 1,349. -/
theorem test_core_example : viewed (rig id fun t => { t with core := 1349 }) (fun c =>
    [5, 6, 7, 8, 9].map (systemValue c) == [1349, 197, 581, 2, 3]) = true := by decide

end Sys2Proof.Tests
end

section
/-! SUPPORT. The bits of a word and the fields in them (02 R26, R34), and the bytes it lies in (00 R4): what is packed reads
back, and every word is packed from what is read from it. -/

namespace Sys2Proof
open Machine

/-! ### Bit fields of a word -/

theorem wordField_eq (w lo len : Nat) : wordField w lo len = w / 2 ^ lo % 2 ^ len := by
  rw [wordField, bitField, Nat.shiftRight_eq_div_pow]

theorem wordField_lt (w lo len : Nat) : wordField w lo len < 2 ^ len := Nat.mod_lt _ (Nat.two_pow_pos len)

/-- The bits of a word below the end of a field are those below the field and the field itself. -/
theorem mod_add_wordField (w lo len : Nat) : w % 2 ^ lo + wordField w lo len * 2 ^ lo = w % 2 ^ (lo + len) := by
  rw [wordField_eq, Nat.pow_add, Nat.mod_mul, Nat.mul_comm]

/-- A field that lies in a wider field. -/
theorem wordField_wordField {w lo n k len : Nat} (h : k + len ≤ n) :
    wordField (wordField w lo n) k len = wordField w (lo + k) len := by
  refine Nat.eq_of_testBit_eq fun i => ?_
  simp only [wordField_eq, Nat.testBit_mod_two_pow, Nat.testBit_div_two_pow]
  by_cases hi : i < len
  · simp [hi, show i + k < n by omega, show i + (lo + k) = i + k + lo by omega]
  · simp [hi]

theorem bitAt_eq_testBit (w n : Nat) : bitAt w n = w.testBit n := by
  rw [bitAt, Nat.testBit_eq_decide_div_mod_eq, Nat.shiftRight_eq_div_pow]
  rfl

theorem toNat_bitAt (w n : Nat) : (bitAt w n).toNat = wordField w n 1 := by
  rw [wordField_eq, bitAt, Nat.shiftRight_eq_div_pow]
  rcases Nat.mod_two_eq_zero_or_one (w / 2 ^ n) with h | h <;> simp [h]

theorem bitAt_of_wordField {w n : Nat} {b : Bool} (h : wordField w n 1 = b.toNat) : bitAt w n = b := by
  rw [← toNat_bitAt] at h
  cases hb : bitAt w n <;> cases b <;> simp_all

theorem lt_of_bitAt_63 {w : Nat} (hw : w < 2 ^ 64) (h : bitAt w 63 = false) : w < 2 ^ 63 := by
  have hbit := toNat_bitAt w 63
  rw [h, wordField_eq, Bool.toNat_false] at hbit
  omega

theorem bitAt_wordField {w lo n k : Nat} (h : k < n) : bitAt (wordField w lo n) k = bitAt w (lo + k) :=
  bitAt_of_wordField ((wordField_wordField h).trans (toNat_bitAt w (lo + k)).symm)

theorem ofNat_of_wordField {w lo len : Nat} {x : BitVec len} (h : wordField w lo len = x.toNat) :
    BitVec.ofNat len (wordField w lo len) = x := by rw [h, BitVec.ofNat_toNat, BitVec.setWidth_eq]

theorem toNat_ofNat_wordField (w lo len : Nat) : (BitVec.ofNat len (wordField w lo len)).toNat = wordField w lo len := by
  rw [BitVec.toNat_ofNat, Nat.mod_eq_of_lt (wordField_lt w lo len)]

theorem ite_eq_toNat_mul (b : Bool) (n : Nat) : (if b then n else 0) = b.toNat * n := by cases b <;> simp

/-! ### Full words (02 R26) -/

theorem Guard.bounds (g : Guard) : g.gp.toNat < 8 ∧ g.gn.toNat < 2 := ⟨g.gp.isLt, g.gn.toNat_lt⟩

theorem Fields.bounds (f : Fields) : f.d.toNat < 1024 ∧ f.a.toNat < 1024 ∧ f.b.toNat < 1024 ∧ f.c.toNat < 1024 ∧
    f.mod.toNat < 8 ∧ f.ha.toNat < 2 ∧ f.hb.toNat < 2 ∧ f.hc.toNat < 2 :=
  ⟨f.d.isLt, f.a.isLt, f.b.isLt, f.c.isLt, f.mod.isLt, f.ha.toNat_lt, f.hb.toNat_lt, f.hc.toNat_lt⟩

section
variable {op fn x : Nat} {g : Guard} {f : Fields}

/-- A full word is the sum of its fields at their places. -/
theorem packFull_eq : packFull op fn x g f = op * 2 ^ 56 + fn * 2 ^ 52 + g.gp.toNat * 2 ^ 49 + g.gn.toNat * 2 ^ 48 +
    f.d.toNat * 2 ^ 38 + f.a.toNat * 2 ^ 28 + f.b.toNat * 2 ^ 18 + f.c.toNat * 2 ^ 8 + f.mod.toNat * 2 ^ 5 +
    f.ha.toNat * 16 + f.hb.toNat * 8 + f.hc.toNat * 4 + x := by
  simp only [packFull, ite_eq_toNat_mul]

theorem packFull_lt (hop : op < 128) (hfn : fn < 16) (hx : x < 4) : packFull op fn x g f < 2 ^ 63 := by
  have hg := g.bounds
  have hf := f.bounds
  rw [packFull_eq]
  omega

theorem codes_packFull (hop : op < 128) (hfn : fn < 16) (hx : x < 4) :
    wordField (packFull op fn x g f) 56 7 = op ∧ wordField (packFull op fn x g f) 52 4 = fn ∧
    wordField (packFull op fn x g f) 0 2 = x := by
  have hg := g.bounds
  have hf := f.bounds
  refine ⟨?_, ?_, ?_⟩ <;> rw [wordField_eq, packFull_eq] <;> omega

theorem guardOf_packFull (hx : x < 4) : guardOf (packFull op fn x g f) = g := by
  have hg := g.bounds
  have hf := f.bounds
  rw [guardOf, ofNat_of_wordField (x := g.gp), bitAt_of_wordField (b := g.gn)] <;> rw [wordField_eq, packFull_eq] <;> omega

theorem fieldsOf_packFull (hx : x < 4) : fieldsOf (packFull op fn x g f) = f := by
  have hf := f.bounds
  rw [fieldsOf, ofNat_of_wordField (x := f.d), ofNat_of_wordField (x := f.a), ofNat_of_wordField (x := f.b),
    ofNat_of_wordField (x := f.c), ofNat_of_wordField (x := f.mod), bitAt_of_wordField (b := f.ha),
    bitAt_of_wordField (b := f.hb), bitAt_of_wordField (b := f.hc)] <;> rw [wordField_eq, packFull_eq] <;> omega

end

/-- A word below bit 63 is packed from its own fields: no bit is left out. -/
theorem packFull_fields {w : Nat} (hw : w < 2 ^ 63) :
    packFull (wordField w 56 7) (wordField w 52 4) (wordField w 0 2) (guardOf w) (fieldsOf w) = w := by
  rw [packFull_eq]
  simp only [guardOf, fieldsOf, toNat_ofNat_wordField, toNat_bitAt]
  have hw := Nat.mod_eq_of_lt hw
  have h56 := mod_add_wordField w 56 7
  have h52 := mod_add_wordField w 52 4
  have h49 := mod_add_wordField w 49 3
  have h48 := mod_add_wordField w 48 1
  have h38 := mod_add_wordField w 38 10
  have h28 := mod_add_wordField w 28 10
  have h18 := mod_add_wordField w 18 10
  have h8 := mod_add_wordField w 8 10
  have h5 := mod_add_wordField w 5 3
  have h4 := mod_add_wordField w 4 1
  have h3 := mod_add_wordField w 3 1
  have h2 := mod_add_wordField w 2 1
  have h0 := mod_add_wordField w 0 2
  omega

/-! ### Pair words (02 R34) -/

theorem packSlot_eq (s : Slot) : packSlot s = s.sop.toNat * 2 ^ 25 + s.d.toNat * 2 ^ 15 + s.a.toNat * 2 ^ 5 +
    s.hd.toNat * 16 + s.ha.toNat * 8 + s.g.toNat := by
  simp only [packSlot, ite_eq_toNat_mul]

theorem Slot.bounds (s : Slot) : s.sop.toNat < 64 ∧ s.d.toNat < 1024 ∧ s.a.toNat < 1024 ∧ s.hd.toNat < 2 ∧
    s.ha.toNat < 2 ∧ s.g.toNat < 8 :=
  ⟨s.sop.isLt, s.d.isLt, s.a.isLt, s.hd.toNat_lt, s.ha.toNat_lt, s.g.isLt⟩

theorem packSlot_lt (s : Slot) : packSlot s < 2 ^ 31 := by
  have hs := s.bounds
  rw [packSlot_eq]
  omega

theorem slotOf_packSlot (s : Slot) : slotOf (packSlot s) 0 = s := by
  have hs := s.bounds
  rw [slotOf, ofNat_of_wordField (x := s.sop), ofNat_of_wordField (x := s.d), ofNat_of_wordField (x := s.a),
    bitAt_of_wordField (b := s.hd), bitAt_of_wordField (b := s.ha), ofNat_of_wordField (x := s.g)] <;>
    rw [wordField_eq, packSlot_eq] <;> omega

/-- A slot reads the 31 bits it stands in, and no others. -/
theorem slotOf_wordField (w lo : Nat) : slotOf (wordField w lo 31) 0 = slotOf w lo := by
  simp only [slotOf, Nat.zero_add]
  rw [wordField_wordField (by decide), wordField_wordField (by decide), wordField_wordField (by decide),
    wordField_wordField (by decide), bitAt_wordField (by decide), bitAt_wordField (by decide)]
  rfl

theorem packSlot_slotOf (w lo : Nat) : packSlot (slotOf w lo) = wordField w lo 31 := by
  rw [← slotOf_wordField, packSlot_eq]
  generalize hv : wordField w lo 31 = v
  simp only [slotOf, toNat_ofNat_wordField, toNat_bitAt, Nat.zero_add]
  have hlt := Nat.mod_eq_of_lt (hv ▸ wordField_lt w lo 31)
  have h25 := mod_add_wordField v 25 6
  have h15 := mod_add_wordField v 15 10
  have h5 := mod_add_wordField v 5 10
  have h4 := mod_add_wordField v 4 1
  have h3 := mod_add_wordField v 3 1
  have h0 := mod_add_wordField v 0 3
  omega

/-- A pair word from its slots. -/
def packPair (s0 s1 : Slot) : Nat := 2 ^ 63 + packSlot s0 * 2 ^ 31 + packSlot s1

theorem packPair_lt (s0 s1 : Slot) : packPair s0 s1 < 2 ^ 64 := by
  have h0 := packSlot_lt s0
  have h1 := packSlot_lt s1
  unfold packPair
  omega

theorem slots_packPair (s0 s1 : Slot) : slotOf (packPair s0 s1) 31 = s0 ∧ slotOf (packPair s0 s1) 0 = s1 := by
  have h0 := packSlot_lt s0
  have h1 := packSlot_lt s1
  have hf0 : wordField (packPair s0 s1) 31 31 = packSlot s0 := by rw [wordField_eq, packPair]; omega
  have hf1 : wordField (packPair s0 s1) 0 31 = packSlot s1 := by rw [wordField_eq, packPair]; omega
  exact ⟨by rw [← slotOf_wordField, hf0, slotOf_packSlot], by rw [← slotOf_wordField, hf1, slotOf_packSlot]⟩

theorem marks_packPair (s0 s1 : Slot) : bitAt (packPair s0 s1) 63 = true ∧ bitAt (packPair s0 s1) 62 = false := by
  have h0 := packSlot_lt s0
  have h1 := packSlot_lt s1
  refine ⟨bitAt_of_wordField ?_, bitAt_of_wordField ?_⟩ <;>
    simp only [wordField_eq, packPair, Bool.toNat_true, Bool.toNat_false] <;> omega

/-- A word with bit 63 set and bit 62 clear is packed from its own slots. -/
theorem packPair_slots {w : Nat} (hw : w < 2 ^ 64) (h63 : bitAt w 63 = true) (h62 : bitAt w 62 = false) :
    packPair (slotOf w 31) (slotOf w 0) = w := by
  rw [packPair, packSlot_slotOf, packSlot_slotOf]
  have hb63 := toNat_bitAt w 63
  have hb62 := toNat_bitAt w 62
  rw [h63, Bool.toNat_true] at hb63
  rw [h62, Bool.toNat_false] at hb62
  have hw := Nat.mod_eq_of_lt hw
  have hs63 := mod_add_wordField w 63 1
  have hs62 := mod_add_wordField w 62 1
  have hs31 := mod_add_wordField w 31 31
  have hs0 := mod_add_wordField w 0 31
  omega

/-! ### Bytes (00 R4) -/

theorem leBytes_length (n x : Nat) : (leBytes n x).length = n := by
  induction n generalizing x with
  | zero => rfl
  | succ n ih => simp [leBytes, ih]

theorem leNat_leBytes (n x : Nat) : leNat (leBytes n x) = x % 256 ^ n := by
  induction n generalizing x with
  | zero => simp [leBytes, leNat, Nat.mod_one]
  | succ n ih => simp [leBytes, leNat, ih, Nat.pow_succ', Nat.mod_mul]

/-- The word at the head of bytes that begin with a word's. -/
theorem headWord_append (w : Word) (bs : List Byte) : headWord (leBytes 8 w.toNat ++ bs) = some w.toNat := by
  have hlen := leBytes_length 8 w.toNat
  have hmod : w.toNat % 256 ^ 8 = w.toNat := Nat.mod_eq_of_lt w.isLt
  rw [headWord, if_neg (by simp [hlen]), List.take_left' hlen, leNat_leBytes, hmod]

/-- Bytes that begin with a word's decode as that word does, with the word that follows it. -/
theorem decode_append (w : Word) (bs : List Byte) :
    decode (leBytes 8 w.toNat ++ bs) = decodeWord w.toNat ((headWord bs).map (BitVec.ofNat 64)) := by
  simp [decode, headWord_append, List.drop_left' (leBytes_length 8 w.toNat)]

theorem decode_one (w : Word) : decode ([w].flatMap fun v => leBytes 8 v.toNat) = decodeWord w.toNat none :=
  decode_append w []

theorem decode_two (w x : Word) : decode ([w, x].flatMap fun v => leBytes 8 v.toNat) = decodeWord w.toNat (some x) := by
  have hx : headWord ([x].flatMap fun v => leBytes 8 v.toNat) = some x.toNat := headWord_append x []
  rw [List.flatMap_cons, decode_append, hx, Option.map_some, BitVec.ofNat_toNat, BitVec.setWidth_eq]

end Sys2Proof

end

section
/-! SUPPORT. The opcode map (02 R46): `ofCode` and `parts` are one table, and the codes of a word that no check refuses. -/

namespace Sys2Proof.Machine

/-! ### Opcodes and functions (02 R46) -/

section
variable {op fn x : Nat} {g : Guard} {f : Fields} {i : Instr}

theorem mem_opcodes_of_lt_fnCount (h : fn < fnCount op) : op ∈ [0x00, 0x01, 0x02, 0x03, 0x04, 0x10, 0x11, 0x12, 0x18, 0x20,
    0x21, 0x22, 0x28, 0x30, 0x31, 0x38, 0x40, 0x48, 0x50] := by
  unfold fnCount at h
  split at h
  on_goal 20 => exact absurd h (Nat.not_lt_zero fn)
  all_goals decide

theorem fnCount_le (op : Nat) : fnCount op ≤ 16 := by
  unfold fnCount
  split <;> decide

theorem codes_lt (h : fn < fnCount op) : op < 128 ∧ fn < 16 := by
  refine ⟨?_, h.trans_le (fnCount_le op)⟩
  have hmem := mem_opcodes_of_lt_fnCount h
  simp only [List.mem_cons, List.not_mem_nil, or_false] at hmem
  omega

/-- The constructor that an opcode and a function name has that opcode and function, whatever MOD picks: `ofCode` and
`parts` are the same table. The split runs through its rows; where MOD picks the form, through the forms. -/
theorem parts_ofCode (hfn : fn < fnCount op) (h : ofCode op fn g f = some i) : parts i = .full op fn g f := by
  have hop := mem_opcodes_of_lt_fnCount hfn
  simp only [List.mem_cons, List.not_mem_nil, or_false] at hop
  rcases hop with rfl | rfl | rfl | rfl | rfl | rfl | rfl | rfl | rfl | rfl | rfl | rfl | rfl | rfl | rfl | rfl | rfl | rfl | rfl
  all_goals
    simp only [fnCount] at hfn
    interval_cases fn
  all_goals
    repeat
      obtain ⟨-, ⟨⟩⟩ | ⟨-, h⟩ := ite_eq_iff.mp h
      · rfl
    cases h <;> rfl

/-- LIMM alone has an extension word (02 R33). -/
theorem eq_limm_of_parts {w : Word} (h : parts i = .ext g f w) : i = .limm g f w := by
  cases i with
  | limm => cases h; rfl
  | _ => cases h

theorem eq_pairWord_of_parts {s0 s1 : Slot} (h : parts i = .pair s0 s1) : i = .pairWord s0 s1 := by
  cases i with
  | pairWord => cases h; rfl
  | _ => cases h

/-! ### Sub-causes -/

theorem lowest_eq_none {l : List Nat} (h : lowest l = none) : l = [] := by
  cases l with
  | nil => rfl
  | cons a l =>
    unfold lowest at h
    split at h <;> cases h

theorem subIf_eq_nil {b : Bool} {sub : Nat} : subIf b sub = [] ↔ b = false := by cases b <;> simp [subIf]

/-- A full word that no check refuses has an assigned opcode and function, and X = 01 exactly for LIMM (02 R46, R33). -/
theorem codes_of_fullSub (h : fullSub op fn x g f = none) : fn < fnCount op ∧ x = if op = 4 ∧ fn = 8 then 1 else 0 := by
  unfold fullSub at h
  split at h
  · cases h
  split at h
  · cases h
  next hfn =>
    obtain ⟨hx, -⟩ := List.append_eq_nil_iff.mp (lowest_eq_none h)
    obtain ⟨hle, hone, hzero⟩ : x < 2 ∧ (x = 1 → op = 4 ∧ fn = 8) ∧ (x = 0 → op = 4 → fn ≠ 8) := by
      simpa [subIf_eq_nil] using hx
    refine ⟨Nat.lt_of_not_le hfn, ?_⟩
    split_ifs <;> omega

end

end Sys2Proof.Machine

end

section
/-! SUPPORT. What the decoder reads from a word and what the encoder makes of an instruction, by the kind of word (02 R25,
R33, R34). -/

namespace Sys2Proof
open Machine

section
variable {op fn x w : Nat} {g : Guard} {f : Fields} {i : Instr} {next : Option Word}

/-! ### The decoder and the encoder, by the kind of word -/

/-- The decoder reads an instruction from a word in three ways: a pair word, LIMM with its extension word, or a full word
of any other opcode and function. -/
theorem decodeWord_eq_instr {len : Nat} : decodeWord w next = .instr i len ↔
    (bitAt w 63 = true ∧ bitAt w 62 = false ∧ pairSub (slotOf w 31) (slotOf w 0) = none ∧
      .pairWord (slotOf w 31) (slotOf w 0) = i ∧ 8 = len) ∨
    (bitAt w 63 = false ∧
      fullSub (wordField w 56 7) (wordField w 52 4) (wordField w 0 2) (guardOf w) (fieldsOf w) = none ∧
      (((wordField w 56 7 = 4 ∧ wordField w 52 4 = 8) ∧ ∃ v, next = some v ∧ .limm (guardOf w) (fieldsOf w) v = i ∧ 16 = len) ∨
      (¬ (wordField w 56 7 = 4 ∧ wordField w 52 4 = 8) ∧
        ofCode (wordField w 56 7) (wordField w 52 4) (guardOf w) (fieldsOf w) = some i ∧ 8 = len))) := by
  unfold decodeWord
  cases bitAt w 63 with
  | true =>
    cases bitAt w 62 with
    | true => simp
    | false => cases pairSub (slotOf w 31) (slotOf w 0) <;> simp
  | false =>
    cases fullSub (wordField w 56 7) (wordField w 52 4) (wordField w 0 2) (guardOf w) (fieldsOf w) with
    | some sub => simp
    | none =>
      by_cases hext : wordField w 56 7 = 4 ∧ wordField w 52 4 = 8
      · cases next <;> simp [hext]
      · cases ofCode (wordField w 56 7) (wordField w 52 4) (guardOf w) (fieldsOf w) <;> simp [hext]

/-- An instruction that has a word is a full word that its codes name, LIMM or a pair word, and no check refuses it. -/
theorem wellFormed_iff : WellFormed i = true ↔
    (∃ op fn g f, parts i = .full op fn g f ∧ fullSub op fn 0 g f = none ∧ ofCode op fn g f = some i) ∨
    (∃ g f v, .limm g f v = i ∧ fullSub 4 8 1 g f = none) ∨ ∃ s0 s1, .pairWord s0 s1 = i ∧ pairSub s0 s1 = none := by
  have hlimm {g f v} : parts (.limm g f v) = .ext g f v := rfl
  have hpair {s0 s1} : parts (.pairWord s0 s1) = .pair s0 s1 := rfl
  constructor
  · intro h
    unfold WellFormed at h
    split at h
    next op fn g f hp =>
      obtain ⟨hsub, hi⟩ := (Bool.and_eq_true _ _).mp h
      exact .inl ⟨op, fn, g, f, hp, Option.isNone_iff_eq_none.mp hsub, of_decide_eq_true hi⟩
    next g f v hp => exact .inr (.inl ⟨g, f, v, (eq_limm_of_parts hp).symm, Option.isNone_iff_eq_none.mp h⟩)
    next s0 s1 hp => exact .inr (.inr ⟨s0, s1, (eq_pairWord_of_parts hp).symm, Option.isNone_iff_eq_none.mp h⟩)
    next => cases h
  · rintro (⟨op, fn, g, f, hp, hsub, hi⟩ | ⟨g, f, v, rfl, hsub⟩ | ⟨s0, s1, rfl, hsub⟩)
    · simp only [WellFormed, hp, hsub, hi, Option.isNone_none, decide_true, Bool.and_self]
    · simp only [WellFormed, hlimm, hsub, Option.isNone_none]
    · simp only [WellFormed, hpair, hsub, Option.isNone_none]

theorem encodeWords_full (h : parts i = .full op fn g f) : encodeWords i = [BitVec.ofNat 64 (packFull op fn 0 g f)] := by
  simp only [encodeWords, h]

theorem encodeWords_limm (g : Guard) (f : Fields) (v : Word) :
    encodeWords (.limm g f v) = [BitVec.ofNat 64 (packFull 4 8 1 g f), v] := rfl

theorem encodeWords_pairWord (s0 s1 : Slot) : encodeWords (.pairWord s0 s1) = [BitVec.ofNat 64 (packPair s0 s1)] := rfl

/-- A word packed from fields that no check refuses decodes by its opcode and function. -/
theorem decodeWord_packFull {len : Nat} (hsub : fullSub op fn x g f = none) (hx : x < 4) :
    decodeWord (BitVec.ofNat 64 (packFull op fn x g f)).toNat next = .instr i len ↔
    ((op = 4 ∧ fn = 8) ∧ ∃ v, next = some v ∧ .limm g f v = i ∧ 16 = len) ∨
    (¬ (op = 4 ∧ fn = 8) ∧ ofCode op fn g f = some i ∧ 8 = len) := by
  obtain ⟨hop, hfn⟩ := codes_lt (codes_of_fullSub hsub).1
  have hlt : packFull op fn x g f < 2 ^ 63 := packFull_lt hop hfn hx
  have h63 : bitAt (packFull op fn x g f) 63 = false := by rw [bitAt_eq_testBit, Nat.testBit_lt_two_pow hlt]
  obtain ⟨h56, h52, h0⟩ := codes_packFull (g := g) (f := f) hop hfn hx
  rw [BitVec.toNat_ofNat, Nat.mod_eq_of_lt (hlt.trans (by decide)), decodeWord_eq_instr, h63, h56, h52, h0,
    guardOf_packFull hx, fieldsOf_packFull hx, hsub]
  simp

theorem decodeWord_packPair {s0 s1 : Slot} (hsub : pairSub s0 s1 = none) :
    decodeWord (BitVec.ofNat 64 (packPair s0 s1)).toNat next = .instr (.pairWord s0 s1) 8 := by
  obtain ⟨h63, h62⟩ := marks_packPair s0 s1
  obtain ⟨h0, h1⟩ := slots_packPair s0 s1
  rw [BitVec.toNat_ofNat, Nat.mod_eq_of_lt (packPair_lt s0 s1), decodeWord_eq_instr, h0, h1]
  exact .inl ⟨h63, h62, hsub, rfl, rfl⟩

/-- LIMM's codes name no instruction of one word. -/
theorem ofCode_limm (g : Guard) (f : Fields) : ofCode 4 8 g f = none := rfl

theorem decode_encode (h : WellFormed i = true) : decode (encode i) = .instr i (8 * (encodeWords i).length) := by
  unfold encode
  rcases wellFormed_iff.mp h with ⟨op, fn, g, f, hp, hsub, hi⟩ | ⟨g, f, v, rfl, hsub⟩ | ⟨s0, s1, rfl, hsub⟩
  · have hcodes : ¬ (op = 4 ∧ fn = 8) := by
      rintro ⟨rfl, rfl⟩
      rw [ofCode_limm] at hi
      cases hi
    rw [encodeWords_full hp, decode_one]
    exact (decodeWord_packFull hsub (by decide)).mpr (.inr ⟨hcodes, hi, rfl⟩)
  · rw [encodeWords_limm, decode_two]
    exact (decodeWord_packFull hsub (by decide)).mpr (.inl ⟨⟨rfl, rfl⟩, v, rfl, rfl, rfl⟩)
  · rw [encodeWords_pairWord, decode_one]
    exact decodeWord_packPair hsub

/-- What the decoder reads from a word is well-formed and has exactly that word. -/
theorem encode_decodeWord {w : Word} {len : Nat} (h : decodeWord w.toNat next = .instr i len) :
    WellFormed i = true ∧ len = 8 * (encodeWords i).length ∧
    (encodeWords i = [w] ∨ ∃ v, next = some v ∧ encodeWords i = [w, v]) := by
  rw [wellFormed_iff]
  rcases decodeWord_eq_instr.mp h with ⟨h63, h62, hsub, rfl, rfl⟩ | ⟨h63, hsub, hfull⟩
  · have hw : encodeWords (.pairWord (slotOf w.toNat 31) (slotOf w.toNat 0)) = [w] := by
      rw [encodeWords_pairWord, packPair_slots w.isLt h63 h62, BitVec.ofNat_toNat, BitVec.setWidth_eq]
    exact ⟨.inr (.inr ⟨_, _, rfl, hsub⟩), by rw [hw]; rfl, .inl hw⟩
  have hlt := lt_of_bitAt_63 w.isLt h63
  obtain ⟨hfn, hx⟩ := codes_of_fullSub hsub
  have hpack := packFull_fields hlt
  rcases hfull with ⟨hcodes, v, rfl, rfl, rfl⟩ | ⟨hcodes, hi, rfl⟩
  · rw [if_pos hcodes] at hx
    rw [hcodes.1, hcodes.2, hx] at hsub hpack
    have hw : encodeWords (.limm (guardOf w.toNat) (fieldsOf w.toNat) v) = [w, v] := by
      rw [encodeWords_limm, hpack, BitVec.ofNat_toNat, BitVec.setWidth_eq]
    exact ⟨.inr (.inl ⟨_, _, _, rfl, hsub⟩), by rw [hw]; rfl, .inr ⟨v, rfl, hw⟩⟩
  · rw [if_neg hcodes] at hx
    rw [hx] at hsub hpack
    have hp := parts_ofCode hfn hi
    have hw : encodeWords i = [w] := by
      rw [encodeWords_full hp, hpack, BitVec.ofNat_toNat, BitVec.setWidth_eq]
    exact ⟨.inl ⟨_, _, _, _, hp, hsub, hi⟩, by rw [hw]; rfl, .inl hw⟩

end

end Sys2Proof

end

section
/-! SUPPORT. What makes a fetch line inconsistent (02 R41), and what the fetch of a word of such a line does (02 R42). -/

namespace Sys2Proof.Machine

section
variable {ws : List Word}

/-- The line's header, whose bits 15:0 are START and bits 31:16 TARGET. -/
def lineHeader (ws : List Word) : Nat := (ws.getD 0 0).toNat

/-- The header sets a bit that 02 R41 requires clear. -/
def lineHeaderBad (ws : List Word) : Bool :=
  bitAt (lineHeader ws) 0 || bitAt (lineHeader ws) 16 || bitField (lineHeader ws) 32 32 != 0

/-- START and TARGET contradict 02 R41 at word `i`. -/
def markBad (ws : List Word) (i : Nat) : Bool :=
  (bitAt (lineHeader ws) i == (decide (2 ≤ i) && claims (lineHeader ws) ws (i - 1))) ||
    (bitAt (lineHeader ws) (16 + i) && !bitAt (lineHeader ws) i)

/-- Some word of the line is marked wrongly, or its last word claims an extension that the line does not hold. -/
def marksBad (ws : List Word) : Bool :=
  (List.range 15).any (fun j => markBad ws (j + 1)) || claims (lineHeader ws) ws 15

/-- The two ways in which a line is inconsistent, in the order in which they are reported. -/
theorem lineSub_eq (ws : List Word) :
    lineSub ws = if lineHeaderBad ws then some 0xD else if marksBad ws then some 0xE else none := rfl

theorem lineHeaderBad_eq_false : lineHeaderBad ws = false ↔
    (lineHeader ws).testBit 0 = false ∧ (lineHeader ws).testBit 16 = false ∧ lineHeader ws / 2 ^ 32 = 0 := by
  have hlt : lineHeader ws / 2 ^ 32 < 2 ^ 32 := Nat.div_lt_of_lt_mul (ws.getD 0 0).isLt
  simp only [lineHeaderBad, bitAt_eq_testBit, bitField, Nat.shiftRight_eq_div_pow, Nat.mod_eq_of_lt hlt, Bool.or_eq_false_iff,
    bne_eq_false_iff_eq, and_assoc]

/-- A marked full word with X = 01 claims the word after it. -/
theorem claims_iff {hd i : Nat} (h : 1 ≤ i) : claims hd ws i = true ↔
    hd.testBit i = true ∧ (ws.getD i 0).getLsbD 63 = false ∧ (ws.getD i 0).toNat % 4 = 1 := by
  simp [claims, h, bitAt_eq_testBit, bitField, BitVec.getLsbD, and_assoc]

theorem markBad_eq_false {i : Nat} : markBad ws i = false ↔
    ((lineHeader ws).testBit i = false ↔ 2 ≤ i ∧ claims (lineHeader ws) ws (i - 1) = true) ∧
    ((lineHeader ws).testBit (16 + i) = true → (lineHeader ws).testBit i = true) := by
  simp only [markBad, bitAt_eq_testBit]
  cases (lineHeader ws).testBit i <;> cases (lineHeader ws).testBit (16 + i) <;> simp

/-- The first word after the header is claimed by none. -/
theorem markBad_one : markBad ws 1 = false ↔ (lineHeader ws).testBit 1 = true := by
  simp +contextual [markBad_eq_false]

theorem marksBad_eq_false : marksBad ws = false ↔
    (∀ i, 1 ≤ i → i ≤ 15 → markBad ws i = false) ∧ claims (lineHeader ws) ws 15 = false := by
  rw [marksBad, Bool.or_eq_false_iff, List.any_eq_false]
  refine and_congr_left' ⟨fun h i h1 h15 => ?_, fun h j hj => ?_⟩
  · have hi := h (i - 1) (List.mem_range.mpr (by omega))
    rw [Nat.sub_add_cancel h1] at hi
    exact Bool.eq_false_iff.mpr hi
  · have hj := List.mem_range.mp hj
    exact Bool.eq_false_iff.mp (h (j + 1) (by omega) (by omega))

/-- The marks of a line agree with its words (02 R41). -/
theorem marksBad_eq_false_iff_marks {claimed : Nat → Prop}
    (hclaimed : ∀ i, 1 ≤ i → (claims (lineHeader ws) ws i = true ↔ claimed i)) : marksBad ws = false ↔
    ((lineHeader ws).testBit 1 = true ∧ ∀ i, 2 ≤ i → i ≤ 15 → ((lineHeader ws).testBit i = false ↔ claimed (i - 1))) ∧
    ¬ claimed 15 ∧
    ∀ i, 1 ≤ i → i ≤ 15 → (lineHeader ws).testBit (16 + i) = true → (lineHeader ws).testBit i = true := by
  have hlater (i : Nat) (hi : 2 ≤ i) : markBad ws i = false ↔ ((lineHeader ws).testBit i = false ↔ claimed (i - 1)) ∧
      ((lineHeader ws).testBit (16 + i) = true → (lineHeader ws).testBit i = true) := by
    rw [markBad_eq_false, hclaimed (i - 1) (by omega), and_iff_right hi]
  rw [marksBad_eq_false, ← hclaimed 15 (by decide), Bool.not_eq_true]
  constructor
  · rintro ⟨hmarks, hlast⟩
    refine ⟨⟨markBad_one.mp (hmarks 1 (by decide) (by decide)), fun i h2 h15 => ?_⟩, hlast, fun i h1 h15 => ?_⟩
    · exact ((hlater i h2).mp (hmarks i (by omega) h15)).1
    · exact (markBad_eq_false.mp (hmarks i h1 h15)).2
  · rintro ⟨⟨hone, hstart⟩, hlast, htarget⟩
    refine ⟨fun i h1 h15 => ?_, hlast⟩
    rcases Nat.eq_or_lt_of_le h1 with rfl | h2
    · exact markBad_one.mpr hone
    · exact (hlater i h2).mpr ⟨hstart i h2 h15, htarget i h1 h15⟩

variable {s : State} {c : Cx} {sub : Nat}

/-- A word of an inconsistent line is not fetched. -/
theorem fetchWord_inconsistent {pc : Word} (hline : fetchLine s c pc = .ok ws) (hsub : lineSub ws = some sub) :
    fetchWord s c pc = .error (.trap { cause := cIllegal, sub := sub }) := by
  simp [fetchWord, hline, hsub, stopTrap]

/-- A thread whose fetch faults takes the trap. -/
theorem runCurrent_fetchTrap {tr : Trap} (hview : s.view = some c) (hissue : c.canIssue = true) (hquiet : c.th.quiet = true)
    (hword : fetchWord s c c.th.pc = .error (.trap tr)) : runCurrent s = .next (s.takeTrap c tr) := by
  simp [runCurrent, hview, hissue, hword, trapIn_quiet hquiet]

end
end Sys2Proof.Machine

end

section
/-! The statements on instruction words, settled. -/

open Sys2Proof Sys2Proof.Machine

/-- Settles O56: the fields of a packed word read back as they were packed, and a word is packed from the fields that are
read from it. -/
theorem decodeEncode : Obligations.DecodeEncode :=
  ⟨fun _ h => decode_encode h, fun _ _ _ _ h => encode_decodeWord h⟩

/-- Settles O59: the two tests of `lineSub` say what 02 R41 requires of the header and of the marks, and a fetch that is
refused ends in the trap. -/
theorem fetchLines : Obligations.FetchLines := by
  unfold Obligations.FetchLines
  refine ⟨?_, ?_⟩
  · intro ws _ header start claimed clear marks
    have hclear : lineHeaderBad ws = false ↔ clear := lineHeaderBad_eq_false
    have hmarks : marksBad ws = false ↔ marks := marksBad_eq_false_iff_marks fun i hi => claims_iff hi
    rw [← hclear, ← hmarks, lineSub_eq]
    cases lineHeaderBad ws <;> cases marksBad ws <;> decide
  · intro s c ws sub hview hissue hquiet hline hsub
    have hrun := runCurrent_fetchTrap hview hissue hquiet (fetchWord_inconsistent hline hsub)
    obtain ⟨fid, hself⟩ := takeTrap_self { cause := cIllegal, sub := sub } (view_thread hview)
    exact ⟨_, _, hrun, hself, rfl, rfl, rfl, rfl, by simp, takeTrap_mem _⟩

/-- Settles O55, by running the decoder on the words. -/
theorem decodeWords : Obligations.DecodeWords := by
  unfold Obligations.DecodeWords
  decide

end

section
/-! SUPPORT. Rounding among growing magnitudes (03 R57): the magnitudes of a format grow, and what `roundsUp` decides from
the discarded part of a mantissa is the place that the mode picks. -/

namespace Sys2Proof.Machine

/-! ### The magnitudes of a format (03 R56) -/

section
variable {t : Fmt}

theorem Fmt.two_le_pow_fbits (t : Fmt) : 2 ≤ 2 ^ t.fbits := by cases t <;> decide

theorem Fmt.pow_fbits_mod_two (t : Fmt) : 2 ^ t.fbits % 2 = 0 := by cases t <;> rfl

/-- Magnitude bits as a count of units of the least precision of binade `j`. -/
theorem Fmt.step_binade {j h : Nat} (hj : j = 0 ∨ 2 ^ t.fbits ≤ h) (hh : h ≤ 2 ^ (t.fbits + 1)) :
    t.step (j * 2 ^ t.fbits + h) = (h : Rat) * 2 ^ (t.emin - t.fbits + j) := by
  have hpos := Nat.two_pow_pos t.fbits
  have hpow : 2 ^ (t.fbits + 1) = 2 ^ t.fbits + 2 ^ t.fbits := by rw [Nat.pow_succ]; omega
  rcases Nat.lt_or_ge h (2 ^ t.fbits) with hlt | hge
  · obtain rfl : j = 0 := hj.resolve_right (by omega)
    simp [Fmt.step, hlt]
  have hnot : ¬ j * 2 ^ t.fbits + h < 2 ^ t.fbits := by
    have := Nat.zero_le (j * 2 ^ t.fbits)
    omega
  rcases Nat.lt_or_ge h (2 ^ (t.fbits + 1)) with hlt | hge2
  · obtain ⟨r, rfl⟩ := Nat.exists_eq_add_of_le hge
    have hr : r < 2 ^ t.fbits := by omega
    have hk : j * 2 ^ t.fbits + (2 ^ t.fbits + r) = r + (j + 1) * 2 ^ t.fbits := by ring
    rw [Fmt.step, if_neg hnot, hk, Nat.add_mul_mod_self_right, Nat.mod_eq_of_lt hr, Nat.add_mul_div_right _ _ hpos,
      Nat.div_eq_of_lt hr]
    congr 2
    push_cast
    ring
  · obtain rfl : h = 2 ^ (t.fbits + 1) := Nat.le_antisymm hh hge2
    have hk : j * 2 ^ t.fbits + 2 ^ (t.fbits + 1) = 0 + (j + 2) * 2 ^ t.fbits := by ring
    rw [Fmt.step, if_neg hnot, hk, Nat.add_mul_mod_self_right, Nat.zero_mod, Nat.add_mul_div_right _ _ hpos, Nat.zero_div]
    have he : t.emin - t.fbits + ((0 + (j + 2) : Nat) : Int) - 1 = t.emin - t.fbits + j + 1 := by push_cast; ring
    rw [he, zpow_add_one₀ (by norm_num)]
    push_cast
    ring

/-- Every magnitude lies in a binade. -/
theorem Fmt.exists_binade (t : Fmt) (k : Nat) :
    ∃ j h, k = j * 2 ^ t.fbits + h ∧ (j = 0 ∨ 2 ^ t.fbits ≤ h) ∧ h < 2 ^ (t.fbits + 1) := by
  have hmod := Nat.mod_lt k (Nat.two_pow_pos t.fbits)
  have hpow : 2 ^ (t.fbits + 1) = 2 ^ t.fbits + 2 ^ t.fbits := by rw [Nat.pow_succ]; omega
  have hdiv := Nat.div_add_mod' k (2 ^ t.fbits)
  cases hq : k / 2 ^ t.fbits with
  | zero => exact ⟨0, k % 2 ^ t.fbits, by rw [← hdiv, hq]; simp, .inl rfl, by omega⟩
  | succ j =>
    rw [hq, Nat.succ_mul] at hdiv
    exact ⟨j, 2 ^ t.fbits + k % 2 ^ t.fbits, by omega, .inr (by omega), by omega⟩

theorem Fmt.step_strictMono (t : Fmt) : StrictMono t.step := by
  refine strictMono_nat_of_lt_succ fun k => ?_
  obtain ⟨j, h, rfl, hj, hh⟩ := t.exists_binade k
  rw [Nat.add_assoc, Fmt.step_binade hj hh.le, Fmt.step_binade (hj.imp_right (by omega)) hh]
  have : (0 : Rat) < 2 ^ (t.emin - t.fbits + (j : Int)) := by positivity
  push_cast
  linarith

@[simp] theorem Fmt.step_zero (t : Fmt) : t.step 0 = 0 := by simp [Fmt.step]

theorem Fmt.step_nonneg (t : Fmt) (k : Nat) : 0 ≤ t.step k := t.step_zero ▸ t.step_strictMono.monotone k.zero_le

theorem Fmt.step_eq_zero {k : Nat} : t.step k = 0 ↔ k = 0 := by
  conv_lhs => rw [← t.step_zero]
  exact t.step_strictMono.injective.eq_iff

end

/-! ### The place that a mode picks -/

section
variable {g : Nat → Rat} {mode : RMode} {s : Bool} {x : Rat} {k : Nat}

/-- A magnitude that stands at a place is rounded to it. -/
theorem picks_self (hg : StrictMono g) : Picks mode s g (g k) k := by
  have htoward : g k ≤ g k ∧ g k < g (k + 1) := ⟨le_rfl, hg k.lt_succ_self⟩
  have haway : g k ≤ g k ∧ (k = 0 ∨ g (k - 1) < g k) :=
    ⟨le_rfl, k.eq_zero_or_pos.imp_right fun hk => hg (Nat.sub_lt hk Nat.one_pos)⟩
  cases mode with
  | rn =>
    refine fun j => ⟨by rw [sub_self]; positivity, fun hj he => absurd (hg.injective ?_) hj⟩
    rw [sub_self, zero_pow two_ne_zero, sq_eq_zero_iff, sub_eq_zero] at he
    exact he.symm
  | rz => exact htoward
  | ru => cases s; exacts [haway, htoward]
  | rd => cases s; exacts [htoward, haway]

/-- To nearest, a magnitude in the lower half of an interval, or in its middle above an even place, goes down. -/
theorem picks_rn_down (hg : StrictMono g) (hlo : g k ≤ x) (hhalf : x - g k ≤ g (k + 1) - x)
    (heven : x - g k = g (k + 1) - x → k % 2 = 0) : Picks .rn s g x k := by
  intro j
  rcases Nat.lt_or_ge k j with hj | hj
  · have hle : g (k + 1) ≤ g j := hg.monotone hj
    exact ⟨by nlinarith, fun _ he => heven (by nlinarith)⟩
  · have hle : g j ≤ g k := hg.monotone hj
    refine ⟨by nlinarith, fun hne he => ?_⟩
    have hlt : g j < g k := hg (Nat.lt_of_le_of_ne hj hne)
    nlinarith

/-- To nearest, a magnitude in the upper half of an interval, or in its middle above an odd place, goes up. -/
theorem picks_rn_up (hg : StrictMono g) (hhi : x < g (k + 1)) (hhalf : g (k + 1) - x ≤ x - g k)
    (hodd : g (k + 1) - x = x - g k → k % 2 = 1) : Picks .rn s g x (k + 1) := by
  intro j
  rcases Nat.lt_or_ge k j with hj | hj
  · have hle : g (k + 1) ≤ g j := hg.monotone hj
    refine ⟨by nlinarith, fun hne he => ?_⟩
    have hlt : g (k + 1) < g j := hg (by omega)
    nlinarith
  · have hle : g j ≤ g k := hg.monotone hj
    refine ⟨by nlinarith, fun _ he => ?_⟩
    have := hodd (by nlinarith)
    omega

/-- The nearest place, of two the even one, is unique. -/
theorem picks_rn_unique {s' : Bool} {l : Nat} (hg : StrictMono g) (hk : Picks .rn s g x k) (hl : Picks .rn s' g x l) :
    k = l := by
  wlog hlt : k < l generalizing k l s s'
  · rcases Nat.eq_or_lt_of_le (Nat.le_of_not_lt hlt) with h | h
    · exact h.symm
    · exact (this hl hk h).symm
  have heq : (x - g l) ^ 2 = (x - g k) ^ 2 := le_antisymm (hl k).1 (hk l).1
  have hke := (hk l).2 hlt.ne' heq
  have hle := (hl k).2 hlt.ne heq.symm
  have h1 : g k < g (k + 1) := hg k.lt_succ_self
  have h2 : g (k + 1) < g l := hg (by omega)
  have hmid : x - g k = g l - x := by
    rcases sq_eq_sq_iff_eq_or_eq_neg.mp heq with h | h <;> linarith
  nlinarith [(hk (k + 1)).1]

end

/-! ### The discarded part of a mantissa -/

/-- Places `k` and `k + 1` are the multiples `n` and `n + 1` of a unit. -/
structure Neighbours (g : Nat → Rat) (k n : Nat) (unit : Rat) : Prop where
  lower : g k = n * unit
  upper : g (k + 1) = (n + 1) * unit

/-- What rounding adds to a mantissa that is cut at bit `sh`. -/
def roundCarry (mode : RMode) (s sticky : Bool) (m sh : Nat) : Nat :=
  if roundsUp mode s (m / 2 ^ sh % 2 == 1) (m % 2 ^ sh) sh sticky then 1 else 0

theorem roundCarry_le (mode : RMode) (s sticky : Bool) (m sh : Nat) : roundCarry mode s sticky m sh ≤ 1 := by
  rw [roundCarry]
  split <;> decide

/-- `y` is held by the mantissa `m`, a multiple of `2 ^ d`, and `sticky`, which stands for a rest below `2 ^ d`. -/
structure Held (d m : Nat) (sticky : Bool) (y : Rat) : Prop where
  low : (m : Rat) ≤ y
  exact : sticky = false → y = m
  rest : sticky = true → 2 ^ d ∣ m ∧ (m : Rat) < y ∧ y < m + 2 ^ d

section
variable {d m sh : Nat} {sticky : Bool} {y : Rat}

theorem held_exact (m : Nat) : Held 0 m false m := ⟨le_rfl, fun _ => rfl, fun h => by cases h⟩

/-- The same number in smaller units. -/
theorem Held.scale (h : Held d m sticky y) (n : Nat) : Held (d + n) (m * 2 ^ n) sticky (y * 2 ^ n) := by
  have hpos : (0 : Rat) < 2 ^ n := by positivity
  refine ⟨?_, fun hs => ?_, fun hs => ?_⟩
  · push_cast
    exact mul_le_mul_of_nonneg_right h.low hpos.le
  · rw [h.exact hs]
    push_cast
    rfl
  · obtain ⟨hd, hlt, hgt⟩ := h.rest hs
    refine ⟨pow_add 2 d n ▸ Nat.mul_dvd_mul_right hd _, ?_, ?_⟩
    · push_cast
      exact mul_lt_mul_of_pos_right hlt hpos
    · push_cast
      rw [pow_add, ← add_mul]
      exact mul_lt_mul_of_pos_right hgt hpos

/-- A held number stays below a multiple of `2 ^ d` that its mantissa stays below. -/
theorem Held.lt_of_lt (h : Held d m sticky y) {n : Nat} (hn : sticky = true → 2 ^ d ∣ n) (hlt : m < n) : y < n := by
  cases hs : sticky with
  | false => rw [h.exact hs]; exact_mod_cast hlt
  | true =>
    obtain ⟨hd, -, hgt⟩ := h.rest hs
    obtain ⟨a, rfl⟩ := hd
    obtain ⟨b, rfl⟩ := hn hs
    have hab : a + 1 ≤ b := Nat.lt_of_mul_lt_mul_left hlt
    have : ((2 ^ d * (a + 1) : Nat) : Rat) ≤ (2 ^ d * b : Nat) := by exact_mod_cast Nat.mul_le_mul_left _ hab
    push_cast at this hgt ⊢
    linarith

/-- A held number lies above its mantissa just when something is sticky. -/
theorem Held.lt_iff (h : Held d m sticky y) : (m : Rat) < y ↔ sticky = true := by
  cases hs : sticky with
  | false => simp [h.exact hs]
  | true => simp [(h.rest hs).2.1]

theorem mantissa_cut (m sh : Nat) : (m : Rat) = (m / 2 ^ sh : Nat) * 2 ^ sh + (m % 2 ^ sh : Nat) := by
  exact_mod_cast (Nat.div_add_mod' m (2 ^ sh)).symm

theorem roundsUp_rn_eq {odd : Bool} {s : Bool} {rem : Nat} (hsh : 0 < sh) : roundsUp .rn s odd rem sh sticky =
    if rem = 2 ^ (sh - 1) then sticky || odd else decide (2 ^ (sh - 1) < rem) := by
  simp [roundsUp, Nat.ne_of_gt hsh]

/-- What a cut at bit `sh` keeps of a mantissa is the multiple of `2 ^ sh` at or below the number. -/
theorem Held.cut_bounds (h : Held d m sticky y) (hd : sticky = true → d ≤ sh) :
    ((m / 2 ^ sh : Nat) : Rat) * 2 ^ sh ≤ y ∧ y < ((m / 2 ^ sh : Nat) + 1) * 2 ^ sh := by
  have hcut := mantissa_cut m sh
  have hrem : (0 : Rat) ≤ (m % 2 ^ sh : Nat) := Nat.cast_nonneg _
  refine ⟨by linarith [h.low], ?_⟩
  have hlt := h.lt_of_lt (n := (m / 2 ^ sh + 1) * 2 ^ sh)
    (fun hs => (Nat.pow_dvd_pow 2 (hd hs)).mul_left _) (Nat.lt_mul_of_div_lt (Nat.lt_succ_self _) (Nat.two_pow_pos sh))
  exact_mod_cast hlt

/-- A cut loses nothing just when the discarded bits are zero and nothing is sticky. -/
theorem Held.cut_exact_iff (h : Held d m sticky y) :
    ((m / 2 ^ sh : Nat) : Rat) * 2 ^ sh = y ↔ (decide (0 < m % 2 ^ sh) || sticky) = false := by
  have hcut := mantissa_cut m sh
  have hrem : (0 : Rat) ≤ (m % 2 ^ sh : Nat) := Nat.cast_nonneg _
  have hlow := h.low
  rw [Bool.or_eq_false_iff, decide_eq_false_iff_not, Nat.not_lt, Nat.le_zero, ← Bool.not_eq_true, ← h.lt_iff, not_lt]
  constructor
  · intro he
    exact ⟨by exact_mod_cast (by linarith : ((m % 2 ^ sh : Nat) : Rat) = 0), by linarith⟩
  · rintro ⟨h0, hle⟩
    rw [h0, Nat.cast_zero] at hcut
    linarith

/-- The discarded part against the middle of the interval. -/
theorem Held.cut_half (h : Held d m sticky y) (hd : sticky = true → d < sh) :
    let mid : Rat := ((m / 2 ^ sh : Nat) : Rat) * 2 ^ sh + 2 ^ (sh - 1)
    (m % 2 ^ sh < 2 ^ (sh - 1) → y < mid) ∧ (2 ^ (sh - 1) < m % 2 ^ sh → mid < y) ∧
      (m % 2 ^ sh = 2 ^ (sh - 1) → mid ≤ y ∧ (mid = y ↔ sticky = false)) := by
  intro mid
  have hcut := mantissa_cut m sh
  have hlow := h.low
  refine ⟨fun hlt => ?_, fun hgt => ?_, fun he => ?_⟩
  · have hlt' := h.lt_of_lt (n := m / 2 ^ sh * 2 ^ sh + 2 ^ (sh - 1))
      (fun hs => dvd_add ((Nat.pow_dvd_pow 2 (hd hs).le).mul_left _) (Nat.pow_dvd_pow 2 (Nat.le_sub_one_of_lt (hd hs))))
      (by have := Nat.div_add_mod' m (2 ^ sh); omega)
    push_cast at hlt'
    exact hlt'
  · have : ((2 ^ (sh - 1) : Nat) : Rat) < (m % 2 ^ sh : Nat) := by exact_mod_cast hgt
    push_cast at this
    simp only [mid]
    linarith
  · have hmid : mid = m := by rw [hcut, he]; push_cast; rfl
    rw [hmid]
    exact ⟨hlow, by rw [← Bool.not_eq_true, ← h.lt_iff, not_lt]; exact ⟨fun e => e.ge, fun e => le_antisymm hlow e⟩⟩

variable {g : Nat → Rat} {u : Rat} {k : Nat}

/-- The number stands between the two places that the cut names. -/
theorem Held.between (h : Held d m sticky y) (hu : 0 < u) (hd : sticky = true → d ≤ sh)
    (hn : Neighbours g k (m / 2 ^ sh) (2 ^ sh * u)) : g k ≤ y * u ∧ y * u < g (k + 1) := by
  obtain ⟨hge, hlt⟩ := h.cut_bounds hd
  rw [hn.lower, hn.upper, ← mul_assoc, ← mul_assoc]
  exact ⟨mul_le_mul_of_nonneg_right hge hu.le, mul_lt_mul_of_pos_right hlt hu⟩

/-- It stands at the lower one just when the cut loses nothing. -/
theorem Held.lower_eq_iff (h : Held d m sticky y) (hu : 0 < u) (hn : Neighbours g k (m / 2 ^ sh) (2 ^ sh * u)) :
    g k = y * u ↔ (decide (0 < m % 2 ^ sh) || sticky) = false := by
  rw [hn.lower, ← mul_assoc, ← h.cut_exact_iff]
  exact ⟨mul_right_cancel₀ hu.ne', congrArg (· * u)⟩

/-- The discarded part decides to nearest as the distances do. -/
theorem Held.picks_rn (h : Held d m sticky y) (hg : StrictMono g) (hu : 0 < u) (hsh : 0 < sh) (hd : sticky = true → d < sh)
    (hpar : k % 2 = m / 2 ^ sh % 2) (hn : Neighbours g k (m / 2 ^ sh) (2 ^ sh * u)) (s : Bool) :
    Picks .rn s g (y * u) (k + roundCarry .rn s sticky m sh) := by
  obtain ⟨hbelow, habove, hmiddle⟩ := h.cut_half hd
  have hpow : (2 : Rat) ^ sh = 2 * 2 ^ (sh - 1) := by rw [← pow_succ', Nat.sub_add_cancel hsh]
  obtain ⟨hlo', hhi'⟩ := h.between hu (fun hs => (hd hs).le) hn
  have hgap : g (k + 1) = g k + 2 * (2 ^ (sh - 1) * u) := by rw [hn.lower, hn.upper, hpow]; ring
  have hmid : ((m / 2 ^ sh : Nat) * 2 ^ sh + 2 ^ (sh - 1) : Rat) * u = g k + 2 ^ (sh - 1) * u := by rw [hn.lower]; ring
  rw [roundCarry, roundsUp_rn_eq hsh]
  rcases Nat.lt_trichotomy (m % 2 ^ sh) (2 ^ (sh - 1)) with hr | hr | hr
  · have := mul_lt_mul_of_pos_right (hbelow hr) hu
    rw [if_neg hr.ne, if_neg (by simp [hr.le]), add_zero]
    exact picks_rn_down hg hlo' (by linarith) fun he => by linarith
  · obtain ⟨hle, heq⟩ := hmiddle hr
    have hle := mul_le_mul_of_nonneg_right hle hu.le
    rw [if_pos hr]
    cases hs : sticky with
    | true =>
      refine picks_rn_up hg hhi' (by linarith) fun he => ?_
      have := heq.mp (mul_right_cancel₀ hu.ne' (by linarith))
      rw [hs] at this
      cases this
    | false =>
      have he : _ * u = y * u := congrArg (· * u) (heq.mpr hs)
      by_cases hodd : m / 2 ^ sh % 2 = 1
      · rw [if_pos (by simp [hodd])]
        exact picks_rn_up hg hhi' (by linarith) fun _ => hpar.trans hodd
      · rw [if_neg (by simp [hodd]), add_zero]
        exact picks_rn_down hg hlo' (by linarith) fun _ => by omega
  · have := mul_lt_mul_of_pos_right (habove hr) hu
    rw [if_neg hr.ne', if_pos (by simp [hr])]
    exact picks_rn_up hg hhi' (by linarith) fun he => by linarith

/-- In a directed mode the discarded part rounds up just where the mode leads away from zero. -/
theorem Held.picks_directed (h : Held d m sticky y) (hg : StrictMono g) (hu : 0 < u) (hd : sticky = true → d ≤ sh)
    (hn : Neighbours g k (m / 2 ^ sh) (2 ^ sh * u))
    {mode : RMode} (hmode : mode ≠ .rn) (s : Bool) :
    Picks mode s g (y * u) (k + roundCarry mode s sticky m sh) := by
  obtain ⟨hlo', hhi'⟩ := h.between hu hd hn
  have heq := h.lower_eq_iff hu hn
  have htoward (mode : RMode) (s : Bool) (hx : Picks mode s g (y * u) = fun k => g k ≤ y * u ∧ y * u < g (k + 1)) :
      Picks mode s g (y * u) k := by rw [hx]; exact ⟨hlo', hhi'⟩
  have haway (mode : RMode) (s : Bool) (hx : Picks mode s g (y * u) = fun k => y * u ≤ g k ∧ (k = 0 ∨ g (k - 1) < y * u)) :
      Picks mode s g (y * u) (k + if (decide (0 < m % 2 ^ sh) || sticky) = true then 1 else 0) := by
    cases hi : decide (0 < m % 2 ^ sh) || sticky with
    | false => rw [← heq.mpr hi]; exact picks_self hg
    | true => rw [hx]; exact ⟨hhi'.le, .inr (lt_of_le_of_ne hlo' fun he => by simp [heq.mp he] at hi)⟩
  cases mode with
  | rn => exact absurd rfl hmode
  | rz => simpa only [roundCarry, roundsUp, Bool.false_eq_true, if_false, add_zero] using htoward .rz s rfl
  | ru =>
    cases s with
    | true =>
      simpa only [roundCarry, roundsUp, Bool.not_true, Bool.and_false, Bool.false_eq_true, if_false, add_zero] using
        htoward .ru true rfl
    | false => simpa [roundCarry, roundsUp] using haway .ru false rfl
  | rd =>
    cases s with
    | true => simpa [roundCarry, roundsUp] using haway .rd true rfl
    | false =>
      simpa only [roundCarry, roundsUp, Bool.and_false, Bool.false_eq_true, if_false, add_zero] using htoward .rd false rfl

/-- `roundsUp` takes a number between two neighbouring places to the place that the mode picks. -/
theorem Held.picks (h : Held d m sticky y) (hg : StrictMono g) (hu : 0 < u) (hsh : 0 < sh) (hd : sticky = true → d < sh)
    (hpar : k % 2 = m / 2 ^ sh % 2) (hn : Neighbours g k (m / 2 ^ sh) (2 ^ sh * u)) (mode : RMode) (s : Bool) :
    Picks mode s g (y * u) (k + roundCarry mode s sticky m sh) := by
  by_cases hmode : mode = .rn
  · exact hmode ▸ h.picks_rn hg hu hsh hd hpar hn s
  · exact h.picks_directed hg hu (fun hs => (hd hs).le) hn hmode s

/-- A number at its lower place is not rounded up. -/
theorem roundsUp_exact (mode : RMode) (s odd : Bool) (sh : Nat) : roundsUp mode s odd 0 sh false = false := by
  cases mode <;> simp [roundsUp, (Nat.two_pow_pos _).ne]

/-- The place that a cut is rounded to holds the number just when the cut loses nothing. -/
theorem Held.rounded_exact_iff (h : Held d m sticky y) (hu : 0 < u) (hd : sticky = true → d ≤ sh)
    (hn : Neighbours g k (m / 2 ^ sh) (2 ^ sh * u))
    (mode : RMode) (s : Bool) :
    g (k + roundCarry mode s sticky m sh) = y * u ↔
      (decide (0 < m % 2 ^ sh) || sticky) = false := by
  rw [roundCarry]
  cases hup : roundsUp mode s (m / 2 ^ sh % 2 == 1) (m % 2 ^ sh) sh sticky with
  | false => simpa using h.lower_eq_iff hu hn
  | true =>
    refine ⟨fun he => ?_, fun hi => ?_⟩
    · exact absurd he (h.between hu hd hn).2.ne'
    · rw [Bool.or_eq_false_iff, decide_eq_false_iff_not, Nat.not_lt, Nat.le_zero] at hi
      rw [hi.1, hi.2, roundsUp_exact] at hup
      cases hup

end
end Sys2Proof.Machine
end

section
/-! SUPPORT. `roundMag` and `roundFp` say what 03 R57 and R58 say: a mantissa that holds an exact magnitude is rounded once. -/

namespace Sys2Proof.Machine

section
variable {t : Fmt} {d m : Nat} {e : Int} {sticky : Bool} {y : Rat}

/-- The exponent of the leading bit of a number that a mantissa holds. -/
theorem Held.log2_bounds (h : Held d m sticky y) (hm : m ≠ 0) (hd : sticky = true → d ≤ m.log2) :
    2 ^ ((m.log2 : Int) + e) ≤ y * 2 ^ e ∧ y * 2 ^ e < 2 ^ ((m.log2 : Int) + e + 1) := by
  have hpos : (0 : Rat) < 2 ^ e := by positivity
  have hlow : ((2 ^ m.log2 : Nat) : Rat) ≤ y := le_trans (by exact_mod_cast Nat.log2_self_le hm) h.low
  have hhigh := h.lt_of_lt (n := 2 ^ (m.log2 + 1)) (fun hs => Nat.pow_dvd_pow 2 (Nat.le_succ_of_le (hd hs))) Nat.lt_log2_self
  have he : (2 : Rat) ^ ((m.log2 : Int) + e + 1) = 2 ^ (m.log2 + 1) * 2 ^ e := by
    rw [← zpow_natCast, ← zpow_add₀ (by norm_num)]
    congr 1
    push_cast
    ring
  rw [he, zpow_add₀ (by norm_num), zpow_natCast]
  push_cast at hlow hhigh
  exact ⟨mul_le_mul_of_nonneg_right hlow hpos.le, mul_lt_mul_of_pos_right hhigh hpos⟩

/-- A mantissa cut to at most `n + 1` bits. -/
theorem cut_lt {n sh : Nat} (h : m.log2 ≤ sh + n) : m / 2 ^ sh < 2 ^ (n + 1) := by
  refine Nat.div_lt_of_lt_mul (lt_of_lt_of_le Nat.lt_log2_self ?_)
  rw [← Nat.pow_add]
  exact Nat.pow_le_pow_right (by decide) (by omega)

/-- A mantissa cut to no less than `n + 1` bits. -/
theorem le_cut {n sh : Nat} (hm : m ≠ 0) (h : sh + n ≤ m.log2) : 2 ^ n ≤ m / 2 ^ sh := by
  rw [Nat.le_div_iff_mul_le (Nat.two_pow_pos sh), ← Nat.pow_add, Nat.add_comm]
  exact le_trans (Nat.pow_le_pow_right (by decide) h) (Nat.log2_self_le hm)

theorem unit_of_shift {q : Int} {sh : Nat} (h : (sh : Int) = q - e) : (2 : Rat) ^ sh * 2 ^ e = 2 ^ q := by
  rw [← zpow_natCast, h, ← zpow_add₀ (by norm_num), Int.sub_add_cancel]

/-- Neighbours among the magnitudes of a format, for a cut at the exponent that the format leaves to a leading bit. -/
theorem neighbours_step (hm : m ≠ 0) {j sh : Nat}
    (hj : (j : Int) = max ((m.log2 : Int) + e) t.emin - t.emin) (hsh : (sh : Int) = t.emin - t.fbits + j - e) :
    Neighbours t.step (j * 2 ^ t.fbits + m / 2 ^ sh) (m / 2 ^ sh) (2 ^ sh * 2 ^ e) := by
  have hlt : m / 2 ^ sh < 2 ^ (t.fbits + 1) := cut_lt (by omega)
  have hge : j = 0 ∨ 2 ^ t.fbits ≤ m / 2 ^ sh := j.eq_zero_or_pos.imp_right fun hpos => le_cut hm (by omega)
  rw [unit_of_shift hsh]
  constructor
  · rw [Fmt.step_binade hge hlt.le]
  · rw [Nat.add_assoc, Fmt.step_binade (hge.imp_right (by omega)) hlt]
    push_cast
    ring

/-- Neighbours among the magnitudes of a format's precision and no least exponent. -/
theorem neighbours_unbounded {q : Int} {sh n : Nat} (hsh : (sh : Int) = q - e) :
    Neighbours (fun n => (n : Rat) * 2 ^ q) n n (2 ^ sh * 2 ^ e) := by
  rw [unit_of_shift hsh]
  exact ⟨rfl, by push_cast; ring⟩

theorem strictMono_mul_zpow (q : Int) : StrictMono fun n : Nat => (n : Rat) * 2 ^ q := fun a b hab =>
  mul_lt_mul_of_pos_right (by exact_mod_cast hab) (by positivity)

/-- A number of the format's precision is below the least normal magnitude (03 R57). -/
theorem tiny_iff {q n : Nat} {top emin : Int} (hlo : 2 ^ n ≤ q) (hhi : q ≤ 2 ^ (n + 1)) :
    (q : Rat) * 2 ^ (top - n) < 2 ^ emin ↔ top < emin ∧ ¬ (top = emin - 1 ∧ q = 2 ^ (n + 1)) := by
  have hpos : (0 : Rat) < 2 ^ (top - n) := by positivity
  have hlow : (2 : Rat) ^ top ≤ q * 2 ^ (top - n) := by
    have : (2 : Rat) ^ top = 2 ^ n * 2 ^ (top - n) := by rw [← zpow_natCast, ← zpow_add₀ (by norm_num)]; congr 1; ring
    rw [this]
    exact mul_le_mul_of_nonneg_right (by exact_mod_cast hlo) hpos.le
  have htop : (2 : Rat) ^ (top + 1) = ((2 ^ (n + 1) : Nat) : Rat) * 2 ^ (top - n) := by
    push_cast
    rw [← zpow_natCast, ← zpow_add₀ (by norm_num)]
    congr 1
    push_cast
    ring
  have hhigh : (q : Rat) * 2 ^ (top - n) ≤ 2 ^ (top + 1) := by
    rw [htop]
    exact mul_le_mul_of_nonneg_right (by exact_mod_cast hhi) hpos.le
  rcases lt_trichotomy top (emin - 1) with h | h | h
  · have : (2 : Rat) ^ (top + 1) < 2 ^ emin := zpow_lt_zpow_right₀ (by norm_num) (by omega)
    exact iff_of_true (lt_of_le_of_lt hhigh this) ⟨by omega, by omega⟩
  · obtain rfl : emin = top + 1 := by omega
    rw [htop, mul_lt_mul_iff_left₀ hpos, Nat.cast_lt]
    omega
  · have : (2 : Rat) ^ emin ≤ 2 ^ top := zpow_le_zpow_right₀ (by norm_num) (by omega)
    exact iff_of_false (not_lt.mpr (this.trans hlow)) (by omega)

end

section
variable {t : Fmt} {m : Nat} {sticky : Bool} {y : Rat}

/-- The parts of `roundMag`: the mantissa `m'` with its guard bits and its exponent, its leading bit `top`, the cut at `sh` in
binade `j` of the format, and the cut at `shu` with no least exponent. -/
theorem roundMag_eq (hm : m ≠ 0) (mode : RMode) (s : Bool) {e e' top : Int} {m' j sh shu : Nat}
    (hm' : m' = m * 2 ^ (t.fbits + 4)) (he' : e' = e - (t.fbits + 4 : Nat)) (htop : top = (m'.log2 : Int) + e')
    (hj : (j : Int) = max top t.emin - t.emin) (hsh : (sh : Int) = t.emin - t.fbits + j - e')
    (hshu : (shu : Int) = top - t.fbits - e') :
    let mag := j * 2 ^ t.fbits + m' / 2 ^ sh + roundCarry mode s sticky m' sh
    roundMag t mode s m e sticky = ⟨mag, decide (0 < m' % 2 ^ sh) || sticky,
      decide (top < t.emin) &&
        !(decide (top = t.emin - 1) && m' / 2 ^ shu + roundCarry mode s sticky m' shu == 2 ^ (t.fbits + 1)),
      decide (t.infBits ≤ mag)⟩ := by
  have hj' : (max top t.emin - t.fbits - (t.emin - t.fbits)).toNat = j := by omega
  have hsh' : (max top t.emin - t.fbits - e').toNat = sh := by omega
  have hshu' : (top - t.fbits - e').toNat = shu := by omega
  simp only [roundMag, if_neg hm, ← hm', ← he', ← htop, hj', hsh', hshu', roundCarry, Nat.add_assoc]

/-- What `roundMag` gives for a mantissa that holds `y`: the magnitude bits, whether they are exact and whether they fit,
and whether the number is tiny (03 R57). -/
theorem roundMag_spec (hm : m ≠ 0) (h : Held 0 m sticky y) (hs : sticky = true → 2 ^ (t.fbits + 1) ≤ m)
    (mode : RMode) (s : Bool) (e : Int) :
    let r := roundMag t mode s m e sticky
    Picks mode s t.step (y * 2 ^ e) r.mag ∧ (t.step r.mag = y * 2 ^ e ↔ r.inexact = false) ∧
    (r.tooBig = true ↔ t.infBits ≤ r.mag) ∧ ∃ (q : Nat) (top : Int), 2 ^ top ≤ y * 2 ^ e ∧ y * 2 ^ e < 2 ^ (top + 1) ∧
      Picks mode s (fun n => (n : Rat) * 2 ^ (top - t.fbits)) (y * 2 ^ e) q ∧
      (r.tiny = true ↔ (q : Rat) * 2 ^ (top - t.fbits) < 2 ^ t.emin) := by
  obtain ⟨e', he'⟩ : ∃ e', e' = e - (t.fbits + 4 : Nat) := ⟨_, rfl⟩
  obtain ⟨m', hm'⟩ : ∃ m', m' = m * 2 ^ (t.fbits + 4) := ⟨_, rfl⟩
  obtain ⟨top, htop⟩ : ∃ top, top = (m'.log2 : Int) + e' := ⟨_, rfl⟩
  have h' := h.scale (t.fbits + 4)
  have hx : y * 2 ^ e = y * 2 ^ (t.fbits + 4) * 2 ^ e' := by
    rw [mul_assoc, unit_of_shift (q := e) (by rw [he']; ring)]
  rw [← hm'] at h'
  have hne : m' ≠ 0 := hm' ▸ Nat.mul_ne_zero hm (Nat.two_pow_pos _).ne'
  have hlog : t.fbits + 4 ≤ m'.log2 :=
    (Nat.le_log2 hne).mpr (hm' ▸ Nat.le_mul_of_pos_left _ (Nat.pos_of_ne_zero hm))
  have hslog (hst : sticky = true) : t.fbits + 1 + (t.fbits + 4) ≤ m'.log2 := by
    rw [Nat.le_log2 hne, Nat.pow_add, hm']
    exact Nat.mul_le_mul_right _ (hs hst)
  obtain ⟨j, hj⟩ := Int.eq_ofNat_of_zero_le (show 0 ≤ max top t.emin - t.emin by omega)
  obtain ⟨sh, hsh⟩ := Int.eq_ofNat_of_zero_le (show 0 ≤ t.emin - t.fbits + j - e' by omega)
  obtain ⟨shu, hshu⟩ := Int.eq_ofNat_of_zero_le (show 0 ≤ top - t.fbits - e' by omega)
  have hr := roundMag_eq (sticky := sticky) hm mode s hm' he' htop hj.symm hsh.symm hshu.symm
  have hu : (0 : Rat) < 2 ^ e' := by positivity
  have hn := neighbours_step (t := t) hne (htop ▸ hj.symm) hsh.symm
  have hnu : Neighbours (fun n => (n : Rat) * 2 ^ (top - t.fbits)) (m' / 2 ^ shu) (m' / 2 ^ shu) (2 ^ shu * 2 ^ e') :=
    neighbours_unbounded hshu.symm
  have hdsh (hst : sticky = true) : 0 + (t.fbits + 4) < sh := by have := hslog hst; omega
  have hpar : (j * 2 ^ t.fbits + m' / 2 ^ sh) % 2 = m' / 2 ^ sh % 2 := by
    rw [Nat.add_mod, Nat.mul_mod, t.pow_fbits_mod_two, Nat.mul_zero, Nat.zero_mod, Nat.zero_add, Nat.mod_mod]
  have hlow : 2 ^ t.fbits ≤ m' / 2 ^ shu := le_cut hne (by omega)
  have hhigh : m' / 2 ^ shu < 2 ^ (t.fbits + 1) := cut_lt (by omega)
  obtain ⟨htlo, hthi⟩ := h'.log2_bounds (e := e') hne fun hst => by have := hslog hst; omega
  rw [hx, hr]
  refine ⟨h'.picks t.step_strictMono hu (by omega) hdsh hpar hn mode s,
    h'.rounded_exact_iff hu (fun hst => (hdsh hst).le) hn mode s, decide_eq_true_iff, _, top, htop ▸ htlo, htop ▸ hthi,
    h'.picks (strictMono_mul_zpow _) hu (by omega) (fun hst => by have := hslog hst; omega) rfl hnu mode s, ?_⟩
  rw [tiny_iff (hlow.trans (Nat.le_add_right _ _)) (by have := roundCarry_le mode s sticky m' shu; omega)]
  simp only [Bool.and_eq_true, decide_eq_true_eq, Bool.not_eq_true', Bool.and_eq_false_iff,
    decide_eq_false_iff_not, beq_eq_false_iff_ne, not_and_or, ne_eq]

/-- A mantissa that holds an exact magnitude is rounded once (03 R57, R58). -/
theorem roundFp_roundedTo (hm : m ≠ 0) (h : Held 0 m sticky y) (hs : sticky = true → 2 ^ (t.fbits + 1) ≤ m)
    (mode : RMode) (ftz s : Bool) (e : Int) : RoundedTo t mode ftz s (y * 2 ^ e) (roundFp t mode ftz s m e sticky) := by
  obtain ⟨hk, hexact, hbig, q, top, hlo, hhi, hq, htiny⟩ := roundMag_spec hm h hs mode s e
  refine ⟨_, q, top, hk, hlo, hhi, hq, fun hge => ?_, fun hlt hflush => ?_, fun hlt hflush => ?_⟩
  · rw [roundFp, if_pos (hbig.mpr hge)]
    cases mode <;> rfl
  · obtain ⟨rfl, rfl, htn⟩ := hflush
    rw [roundFp, if_neg (by rw [hbig]; omega), if_pos (by simp [htiny.mpr htn, Nat.pos_of_ne_zero hm])]
    rfl
  · have hno : ¬ (ftz = true ∧ t = .f32 ∧ (roundMag t mode s m e sticky).tiny = true) := by rwa [htiny]
    rw [← htiny, roundFp, if_neg (by rw [hbig]; omega), if_neg (by simpa [Nat.pos_of_ne_zero hm, and_assoc] using hno)]
    refine ⟨rfl, fun ht => ?_, fun ht => ?_⟩
    · cases hi : (roundMag t mode s m e sticky).inexact <;> simp only [hexact, hi, ht] <;> rfl
    · cases hi : (roundMag t mode s m e sticky).inexact <;> simp only [hexact, hi, ht] <;> rfl

end
end Sys2Proof.Machine
end

section
/-! SUPPORT. Patterns and the values that they stand for (03 R56), exact sums and products, and the rounding of a value
(03 R57). -/

namespace Sys2Proof.Machine

/-! ### Patterns -/

section
variable {t : Fmt} {w : W32} {s : Bool} {k : Nat}

theorem Fmt.infBits_eq (t : Fmt) : t.infBits = 2 ^ t.fbits * (2 * t.bias + 1) := by cases t <;> decide

theorem Fmt.infBits_lt (t : Fmt) : t.infBits + 2 ^ t.fbits = 2 ^ (t.width - 1) := by cases t <;> decide

theorem Fmt.bounds (t : Fmt) : 7 ≤ t.fbits ∧ t.fbits ≤ 23 ∧ t.fbits + 3 < t.bias ∧ t.bias ≤ 127 := by cases t <;> decide

theorem Fmt.emin_eq (t : Fmt) : t.emin = 1 - (t.bias : Int) := rfl

theorem toNat_fpPattern (hk : k < 2 ^ (t.width - 1)) :
    (fpPattern t s k).toNat = (if s then 2 ^ (t.width - 1) else 0) + k := by
  have hw : 2 ^ (t.width - 1) + 2 ^ (t.width - 1) ≤ 2 ^ 32 := by cases t <;> decide
  rw [fpPattern, BitVec.toNat_ofNat, Nat.mod_eq_of_lt]
  split <;> omega

theorem fpMag_fpPattern (hk : k < 2 ^ (t.width - 1)) : fpMag t (fpPattern t s k) = k := by
  rw [fpMag, toNat_fpPattern hk]
  cases s <;> simp [Nat.mod_eq_of_lt hk]

theorem fpSign_fpPattern (hk : k < 2 ^ (t.width - 1)) : fpSign t (fpPattern t s k) = s := by
  rw [fpSign, bitAt_eq_testBit, toNat_fpPattern hk]
  cases s with
  | false => simpa using Nat.testBit_lt_two_pow hk
  | true => simpa [Nat.testBit_two_pow_add_eq] using Nat.testBit_lt_two_pow hk

theorem isNan_iff : isNan t w = true ↔ t.infBits < fpMag t w := decide_eq_true_iff
theorem isInf_iff : isInf t w = true ↔ fpMag t w = t.infBits := beq_iff_eq
theorem isFinite_iff : isFinite t w = true ↔ fpMag t w < t.infBits := decide_eq_true_iff

theorem isNan_of_finite (h : isFinite t w = true) : isNan t w = false := by
  rw [isFinite_iff] at h
  rw [← Bool.not_eq_true, isNan_iff]
  omega

theorem isNan_of_inf (h : isInf t w = true) : isNan t w = false := by
  rw [isInf_iff] at h
  rw [← Bool.not_eq_true, isNan_iff]
  omega

theorem isInf_of_finite (h : isFinite t w = true) : isInf t w = false := by
  rw [isFinite_iff] at h
  rw [← Bool.not_eq_true, isInf_iff]
  omega

theorem isFinite_or (hnan : ¬ isNan t w = true) : isInf t w = true ∨ isFinite t w = true := by
  rw [isNan_iff] at hnan
  rw [isInf_iff, isFinite_iff]
  omega

theorem isSnan_of_not_nan (h : isNan t w = false) : isSnan t w = false := by simp [isSnan, h]

theorem fpValue_nan (h : isNan t w = true) : fpValue t w = .nan := by simp [fpValue, isNan_iff.mp h]

theorem fpValue_inf (h : isInf t w = true) : fpValue t w = .inf (fpSign t w) := by simp [fpValue, isInf_iff.mp h]

/-- Quieting sets the top fraction bit of the magnitude of a NaN. -/
theorem quiet_fpPattern {fr : Nat} (hfr : fr < 2 ^ t.fbits) :
    quiet t (fpPattern t s (t.infBits + fr)) = fpPattern t s (t.infBits + (fr ||| 2 ^ (t.fbits - 1))) := by
  have hq : 2 ^ (t.fbits - 1) < 2 ^ t.fbits := by cases t <;> decide
  have hor : fr ||| 2 ^ (t.fbits - 1) < 2 ^ t.fbits := Nat.or_lt_two_pow hfr hq
  have hinf := t.infBits_lt
  have hq32 : 2 ^ (t.fbits - 1) % 2 ^ 32 = 2 ^ (t.fbits - 1) := by cases t <;> rfl
  obtain ⟨a, ha⟩ : ∃ a, (if s then 2 ^ (t.width - 1) else 0) + t.infBits = 2 ^ t.fbits * a := by
    rw [← hinf, t.infBits_eq]
    exact ⟨(if s then 2 * t.bias + 2 else 0) + (2 * t.bias + 1), by split <;> ring⟩
  refine BitVec.eq_of_toNat_eq ?_
  rw [quiet, BitVec.toNat_or, toNat_fpPattern (by omega), toNat_fpPattern (by omega), BitVec.toNat_ofNat, hq32, ← Nat.add_assoc,
    ← Nat.add_assoc, ha, Nat.two_pow_add_eq_or_of_lt hfr, Nat.two_pow_add_eq_or_of_lt hor, Nat.or_assoc]

end

/-! ### Magnitudes -/

section
variable {t : Fmt} {m k : Nat} {e : Int}

theorem ratAbs_eq_abs (x : Rat) : ratAbs x = |x| := by
  unfold ratAbs
  split
  · exact (abs_of_neg ‹_›).symm
  · exact (abs_of_nonneg (le_of_not_gt ‹_›)).symm

/-- A power of two among the magnitudes. -/
theorem Fmt.step_pow (t : Fmt) (j : Nat) : t.step (j * 2 ^ t.fbits + 2 ^ t.fbits) = 2 ^ (t.emin + j) := by
  rw [Fmt.step_binade (.inr le_rfl) (Nat.pow_le_pow_right (by decide) (Nat.le_succ _)), Nat.cast_pow, Nat.cast_ofNat,
    ← zpow_natCast, ← zpow_add₀ (by norm_num)]
  congr 1
  ring

/-- The place of infinity lies one binade above the greatest exponent. -/
theorem Fmt.step_infBits (t : Fmt) : t.step t.infBits = 2 ^ ((t.bias : Int) + 1) := by
  have h : t.infBits = 2 * t.bias * 2 ^ t.fbits + 2 ^ t.fbits := by rw [t.infBits_eq]; ring
  rw [h, t.step_pow, t.emin_eq]
  congr 1
  push_cast
  ring

theorem Fmt.step_lt_infBits : t.step k < 2 ^ ((t.bias : Int) + 1) ↔ k < t.infBits := by
  rw [← t.step_infBits, t.step_strictMono.lt_iff_lt]

/-- What a mantissa and an exponent of the format name is one of its magnitudes. -/
theorem Fmt.exists_step (hm : m < 2 ^ (t.fbits + 1)) (he : t.emin - t.fbits ≤ e) : ∃ k, t.step k = (m : Rat) * 2 ^ e := by
  rcases eq_or_ne m 0 with rfl | hne
  · exact ⟨0, by simp⟩
  have hlog : m.log2 ≤ t.fbits := Nat.lt_succ_iff.mp ((Nat.log2_lt hne).mpr hm)
  obtain ⟨j, hj⟩ := Int.eq_ofNat_of_zero_le (show 0 ≤ max ((m.log2 : Int) + e) t.emin - t.emin by omega)
  obtain ⟨n, hn⟩ := Int.eq_ofNat_of_zero_le (show 0 ≤ e - (t.emin - t.fbits + j) by omega)
  have hlo : j = 0 ∨ 2 ^ t.fbits ≤ m * 2 ^ n := j.eq_zero_or_pos.imp_right fun hpos => by
    calc 2 ^ t.fbits ≤ 2 ^ m.log2 * 2 ^ n := by rw [← Nat.pow_add]; exact Nat.pow_le_pow_right (by decide) (by omega)
      _ ≤ m * 2 ^ n := Nat.mul_le_mul_right _ (Nat.log2_self_le hne)
  have hhi : m * 2 ^ n ≤ 2 ^ (t.fbits + 1) := by
    calc m * 2 ^ n ≤ 2 ^ (m.log2 + 1) * 2 ^ n := Nat.mul_le_mul_right _ Nat.lt_log2_self.le
      _ ≤ 2 ^ (t.fbits + 1) := by rw [← Nat.pow_add]; exact Nat.pow_le_pow_right (by decide) (by omega)
  refine ⟨_, (Fmt.step_binade hlo hhi).trans ?_⟩
  push_cast
  rw [mul_assoc, unit_of_shift hn.symm]

/-- What a finite pattern stands for: its sign, and a mantissa and exponent of the format that give its magnitude. -/
theorem fpValue_of_finite {w : W32} (h : isFinite t w = true) : ∃ (m : Nat) (e : Int),
    fpValue t w = .fin (fpSign t w) m e ∧ (m : Rat) * 2 ^ e = t.step (fpMag t w) ∧
    m < 2 ^ (t.fbits + 1) ∧ t.emin - t.fbits ≤ e := by
  have hlt := isFinite_iff.mp h
  have hmod := Nat.mod_lt (fpMag t w) (Nat.two_pow_pos t.fbits)
  have hdiv := Nat.div_add_mod' (fpMag t w) (2 ^ t.fbits)
  have hpow : 2 ^ (t.fbits + 1) = 2 ^ t.fbits + 2 ^ t.fbits := by rw [Nat.pow_succ]; omega
  simp only [fpValue, if_neg hlt.not_gt, if_neg hlt.ne]
  cases hex : fpMag t w / 2 ^ t.fbits with
  | zero =>
    rw [hex, Nat.zero_mul, Nat.zero_add] at hdiv
    refine ⟨_, _, if_pos rfl, ?_, by omega, le_rfl⟩
    rw [hdiv, Fmt.step, if_pos (by omega)]
  | succ j =>
    rw [hex, Nat.succ_mul] at hdiv
    refine ⟨_, _, if_neg (Nat.succ_ne_zero j), ?_, by omega, by push_cast; omega⟩
    have hk : fpMag t w = j * 2 ^ t.fbits + (fpMag t w % 2 ^ t.fbits + 2 ^ t.fbits) := by omega
    conv_rhs => rw [hk]
    rw [Fmt.step_binade (.inr (by omega)) (by omega)]
    congr 2
    push_cast
    ring

end

/-! ### Values -/

/-- The number that a finite value is. -/
def FpVal.real : FpVal → Rat
  | .fin s m e => (if s then -(m : Rat) else m) * 2 ^ e
  | _ => 0

theorem patValue_eq_real (t : Fmt) (w : W32) : patValue t w = (fpValue t w).real := by
  unfold patValue FpVal.real
  cases fpValue t w <;> rfl

section
variable {s s₁ s₂ : Bool} {m m₁ m₂ : Nat} {e e₁ e₂ : Int}

theorem FpVal.abs_real_fin (s : Bool) (m : Nat) (e : Int) : |(FpVal.fin s m e).real| = m * 2 ^ e := by
  have hpos : (0 : Rat) < 2 ^ e := by positivity
  cases s <;> simp [FpVal.real, abs_mul, abs_of_pos hpos]

theorem FpVal.real_fin_eq_zero : (FpVal.fin s m e).real = 0 ↔ m = 0 := by
  have hpos : (0 : Rat) < 2 ^ e := by positivity
  rw [← abs_eq_zero, FpVal.abs_real_fin, mul_eq_zero, or_iff_left hpos.ne', Nat.cast_eq_zero]

theorem FpVal.real_fin_neg : (FpVal.fin s m e).real < 0 ↔ s = true ∧ m ≠ 0 := by
  have hpos : (0 : Rat) < 2 ^ e := by positivity
  have hm : (0 : Rat) ≤ m := Nat.cast_nonneg m
  cases s with
  | false => simpa [FpVal.real] using mul_nonneg hm hpos.le
  | true => simp [FpVal.real, hpos, Nat.pos_iff_ne_zero]

theorem FpVal.real_neg (s : Bool) (m : Nat) (e : Int) : (FpVal.fin s m e).neg.real = -(FpVal.fin s m e).real := by
  cases s <;> simp [FpVal.real, FpVal.neg]

/-- The product of finite values is exact. -/
theorem FpVal.real_mul :
    (FpVal.fin (s₁ != s₂) (m₁ * m₂) (e₁ + e₂)).real = (FpVal.fin s₁ m₁ e₁).real * (FpVal.fin s₂ m₂ e₂).real := by
  have hpow : (2 : Rat) ^ (e₁ + e₂) = 2 ^ e₁ * 2 ^ e₂ := zpow_add₀ (by norm_num) _ _
  cases s₁ <;> cases s₂ <;> simp [FpVal.real, hpow] <;> ring

/-- An integer in units of a lesser exponent. -/
theorem zpow_toNat_sub {a b : Int} (h : b ≤ a) : (2 : Rat) ^ (a - b).toNat * 2 ^ b = 2 ^ a :=
  unit_of_shift (Int.toNat_of_nonneg (Int.sub_nonneg_of_le h))

/-- The sum of finite values is exact. -/
theorem addExact_value (s₁ s₂ : Bool) (m₁ m₂ : Nat) (e₁ e₂ : Int) :
    let r := addExact s₁ m₁ e₁ s₂ m₂ e₂
    (r.1 : Rat) * 2 ^ r.2 = (FpVal.fin s₁ m₁ e₁).real + (FpVal.fin s₂ m₂ e₂).real := by
  have h₁ := zpow_toNat_sub (min_le_left e₁ e₂)
  have h₂ := zpow_toNat_sub (min_le_right e₁ e₂)
  have hsign (s : Bool) (n : Nat) : (((if s then -(n : Int) else n) : Int) : Rat) = if s then -(n : Rat) else n := by
    split <;> push_cast <;> rfl
  simp only [addExact, FpVal.real]
  rw [Int.cast_add, hsign, hsign, ← h₁, ← h₂]
  push_cast
  cases s₁ <;> cases s₂ <;> simp only [Bool.false_eq_true, if_false, if_true] <;> ring

/-! ### Rounding a value -/

/-- An exact number that is not zero, rounded once (03 R57). -/
abbrev RoundedOnce (t : Fmt) (mode : RMode) (ftz : Bool) (x : Rat) (r : W32 × FpFlags) : Prop :=
  RoundedTo t mode ftz (decide (x < 0)) (ratAbs x) r

variable {t : Fmt}

/-- A value that is not zero is rounded once. -/
theorem roundVal_rounded (mode : RMode) (ftz : Bool) (hx : (FpVal.fin s m e).real ≠ 0) :
    RoundedOnce t mode ftz (FpVal.fin s m e).real (roundVal t mode ftz (.fin s m e)) := by
  have hm : m ≠ 0 := fun h => hx (FpVal.real_fin_eq_zero.mpr h)
  have hs : decide ((FpVal.fin s m e).real < 0) = s := by simp [FpVal.real_fin_neg, hm]
  rw [RoundedOnce, hs, ratAbs_eq_abs, FpVal.abs_real_fin, roundVal, if_neg hm]
  exact roundFp_roundedTo hm (held_exact m) (fun h => by cases h) mode ftz s e

/-- A zero keeps its sign. -/
theorem roundVal_zero (mode : RMode) (ftz : Bool) (hx : (FpVal.fin s m e).real = 0) :
    roundVal t mode ftz (.fin s m e) = (fpPattern t s 0, 0) := by
  rw [roundVal, if_pos (FpVal.real_fin_eq_zero.mp hx)]
  rfl

/-- A signed integer in units of a power of two as a value. -/
theorem FpVal.real_of_int (x : Int) (e : Int) : (FpVal.fin (decide (x < 0)) x.natAbs e).real = x * 2 ^ e := by
  rw [FpVal.real]
  congr 1
  rcases lt_or_ge x 0 with h | h
  · simp [h, abs_of_neg (Int.cast_lt_zero.mpr h : (x : Rat) < 0)]
  · simp [h.not_gt, abs_of_nonneg (Int.cast_nonneg h : (0 : Rat) ≤ x)]

/-- A sum that is not zero is rounded once. -/
theorem addVals_rounded (mode : RMode) (ftz : Bool) (hx : (FpVal.fin s₁ m₁ e₁).real + (FpVal.fin s₂ m₂ e₂).real ≠ 0) :
    RoundedOnce t mode ftz ((FpVal.fin s₁ m₁ e₁).real + (FpVal.fin s₂ m₂ e₂).real)
      (addVals t mode ftz (.fin s₁ m₁ e₁) (.fin s₂ m₂ e₂)) := by
  rw [← addExact_value, ← FpVal.real_of_int] at *
  have h := roundVal_rounded (t := t) mode ftz hx
  have hne : (addExact s₁ m₁ e₁ s₂ m₂ e₂).1 ≠ 0 := fun h0 => hx (FpVal.real_fin_eq_zero.mpr (Int.natAbs_eq_zero.mpr h0))
  rw [roundVal, if_neg (Int.natAbs_ne_zero.mpr hne)] at h
  rw [addVals]
  simpa only [if_neg hne] using h

/-- The sign of a sum that is zero (03 R57). -/
theorem addVals_zero (mode : RMode) (ftz : Bool) (hx : (FpVal.fin s₁ m₁ e₁).real + (FpVal.fin s₂ m₂ e₂).real = 0) :
    addVals t mode ftz (.fin s₁ m₁ e₁) (.fin s₂ m₂ e₂) = (fpPattern t (if s₁ = s₂ then s₁ else mode == .rd) 0, 0) := by
  rw [← addExact_value, ← FpVal.real_of_int, FpVal.real_fin_eq_zero, Int.natAbs_eq_zero] at hx
  simp only [addVals, if_pos hx]
  split <;> rfl

end

/-! ### The values of finite patterns -/

section
variable {t : Fmt} {w : W32}

theorem ratAbs_patValue (h : isFinite t w = true) : ratAbs (patValue t w) = t.step (fpMag t w) := by
  obtain ⟨m, e, hv, hstep, -, -⟩ := fpValue_of_finite h
  rw [patValue_eq_real, hv, ratAbs_eq_abs, FpVal.abs_real_fin, hstep]

theorem patValue_of_finite (h : isFinite t w = true) :
    patValue t w = if fpSign t w then -t.step (fpMag t w) else t.step (fpMag t w) := by
  obtain ⟨m, e, hv, hstep, -, -⟩ := fpValue_of_finite h
  rw [patValue_eq_real, hv, ← hstep, FpVal.real]
  split <;> ring

theorem patValue_eq_zero (h : isFinite t w = true) : patValue t w = 0 ↔ fpMag t w = 0 := by
  rw [← abs_eq_zero, ← ratAbs_eq_abs, ratAbs_patValue h, Fmt.step_eq_zero]

end

/-! ### Results that need no rounding -/

section
variable {g : Nat → Rat} {mode : RMode} {s : Bool} {x : Rat} {k n : Nat}

theorem Picks.le_of_le (hg : StrictMono g) (h : Picks mode s g x k) (hx : x ≤ g n) : k ≤ n := by
  have htoward (h : g k ≤ x ∧ x < g (k + 1)) : k ≤ n := hg.le_iff_le.mp (h.1.trans hx)
  have haway (h : x ≤ g k ∧ (k = 0 ∨ g (k - 1) < x)) : k ≤ n := by
    rcases h.2 with h0 | hlt
    · omega
    · have := hg.lt_iff_lt.mp (hlt.trans_le hx)
      omega
  cases mode with
  | rn =>
    by_contra hlt
    have := hg (Nat.lt_of_not_le hlt)
    nlinarith [(h n).1]
  | rz => exact htoward h
  | ru => cases s; exacts [haway h, htoward h]
  | rd => cases s; exacts [htoward h, haway h]

theorem Picks.ge_of_ge (hg : StrictMono g) (h : Picks mode s g x k) (hx : g n ≤ x) : n ≤ k := by
  have htoward (h : g k ≤ x ∧ x < g (k + 1)) : n ≤ k := Nat.lt_succ_iff.mp (hg.lt_iff_lt.mp (hx.trans_lt h.2))
  have haway (h : x ≤ g k ∧ (k = 0 ∨ g (k - 1) < x)) : n ≤ k := hg.le_iff_le.mp (hx.trans h.1)
  cases mode with
  | rn =>
    by_contra hlt
    have := hg (Nat.lt_of_not_le hlt)
    nlinarith [(h n).1]
  | rz => exact htoward h
  | ru => cases s; exacts [haway h, htoward h]
  | rd => cases s; exacts [htoward h, haway h]

theorem Picks.eq_of_eq (hg : StrictMono g) (h : Picks mode s g x k) (hx : g n = x) : k = n :=
  Nat.le_antisymm (h.le_of_le hg hx.ge) (h.ge_of_ge hg hx.le)

/-- A magnitude of the format is delivered as it stands. -/
theorem roundFp_exact {t : Fmt} {m : Nat} {e : Int} (hm : m ≠ 0) (hk : k < t.infBits) (hstep : t.step k = (m : Rat) * 2 ^ e)
    (mode : RMode) (s : Bool) : roundFp t mode false s m e false = (fpPattern t s k, 0) := by
  obtain ⟨k', q, top, hpick, -, -, -, -, -, hres⟩ :=
    roundFp_roundedTo (t := t) hm (held_exact m) (fun h => by cases h) mode false s e
  obtain rfl : k' = k := hpick.eq_of_eq t.step_strictMono hstep
  obtain ⟨hpat, htiny, hnot⟩ := hres hk (by simp)
  refine Prod.ext hpat ?_
  by_cases h : (q : Rat) * 2 ^ (top - t.fbits) < 2 ^ t.emin
  · rw [htiny h, if_pos hstep]
  · rw [hnot h, if_pos hstep]

/-- A value whose magnitude the format holds, zero or not, is delivered as it stands. -/
theorem roundVal_exact {t : Fmt} {m : Nat} {e : Int} (hk : k < t.infBits) (hstep : t.step k = (m : Rat) * 2 ^ e)
    (mode : RMode) (s : Bool) : roundVal t mode false (.fin s m e) = (fpPattern t s k, 0) := by
  by_cases hm : m = 0
  · obtain rfl : k = 0 := Fmt.step_eq_zero.mp (by rw [hstep, hm, Nat.cast_zero, zero_mul])
    rw [roundVal, if_pos hm]
    rfl
  · rw [roundVal, if_neg hm, roundFp_exact hm hk hstep]

/-- What a pattern made of a sign and finite magnitude bits stands for. -/
theorem fpPattern_finite {t : Fmt} (hk : k < t.infBits) (s : Bool) : isFinite t (fpPattern t s k) = true ∧
    fpSign t (fpPattern t s k) = s ∧ ratAbs (patValue t (fpPattern t s k)) = t.step k := by
  have hwidth : k < 2 ^ (t.width - 1) := by have := t.infBits_lt; have := Nat.two_pow_pos t.fbits; omega
  have hfin : isFinite t (fpPattern t s k) = true := by rwa [isFinite_iff, fpMag_fpPattern hwidth]
  exact ⟨hfin, fpSign_fpPattern hwidth, by rw [ratAbs_patValue hfin, fpMag_fpPattern hwidth]⟩

end
end Sys2Proof.Machine
end

section
/-! SUPPORT. The operations on finite operands: FADD, FSUB, FMUL, FFMA, FDIV and FSQRT (03 R57, 04 R85). -/

namespace Sys2Proof.Machine

section
variable {t : Fmt} {mode : RMode} {ftz : Bool} {a b c : W32}

theorem firstNan_of_numbers {ws : List W32} (h : ∀ w ∈ ws, isNan t w = false) : firstNan t ws = none := by
  induction ws with
  | nil => rfl
  | cons w ws ih =>
    rw [List.forall_mem_cons] at h
    simp [firstNan, h.1, ih h.2]

theorem withNan_of_numbers {ws : List W32} {r : W32 × FpFlags} (h : ∀ w ∈ ws, isNan t w = false) : withNan t ws r = r := by
  rw [withNan, firstNan_of_numbers h]

theorem numbers_two (ha : isFinite t a = true) (hb : isFinite t b = true) : ∀ w ∈ [a, b], isNan t w = false := by
  simp [isNan_of_finite ha, isNan_of_finite hb]

/-- FADD of finite operands. -/
theorem fpAdd_finite (ha : isFinite t a = true) (hb : isFinite t b = true) :
    (patValue t a + patValue t b ≠ 0 → RoundedOnce t mode ftz (patValue t a + patValue t b) (fpAdd t mode ftz a b)) ∧
    (patValue t a + patValue t b = 0 → fpAdd t mode ftz a b =
      (fpPattern t (if fpSign t a = fpSign t b then fpSign t a else mode == .rd) 0, 0)) := by
  obtain ⟨m₁, e₁, h₁, -⟩ := fpValue_of_finite ha
  obtain ⟨m₂, e₂, h₂, -⟩ := fpValue_of_finite hb
  rw [fpAdd, withNan_of_numbers (numbers_two ha hb), patValue_eq_real, patValue_eq_real, h₁, h₂]
  exact ⟨addVals_rounded mode ftz, addVals_zero mode ftz⟩

/-- FSUB of finite operands. -/
theorem fpSub_finite (ha : isFinite t a = true) (hb : isFinite t b = true) :
    (patValue t a - patValue t b ≠ 0 → RoundedOnce t mode ftz (patValue t a - patValue t b) (fpSub t mode ftz a b)) ∧
    (patValue t a - patValue t b = 0 → fpSub t mode ftz a b =
      (fpPattern t (if fpSign t a = fpSign t b then mode == .rd else fpSign t a) 0, 0)) := by
  obtain ⟨m₁, e₁, h₁, -⟩ := fpValue_of_finite ha
  obtain ⟨m₂, e₂, h₂, -⟩ := fpValue_of_finite hb
  rw [fpSub, withNan_of_numbers (numbers_two ha hb), patValue_eq_real, patValue_eq_real, h₁, h₂, sub_eq_add_neg, ← FpVal.real_neg]
  refine ⟨addVals_rounded mode ftz, fun h => (addVals_zero mode ftz h).trans ?_⟩
  cases fpSign t a <;> cases fpSign t b <;> rfl

/-- The product of finite operands as a value. -/
theorem mulVals_finite (ha : isFinite t a = true) (hb : isFinite t b = true) : ∃ (m : Nat) (e : Int),
    mulVals (fpValue t a) (fpValue t b) = some (.fin (fpSign t a != fpSign t b) m e) ∧
    (FpVal.fin (fpSign t a != fpSign t b) m e).real = patValue t a * patValue t b := by
  obtain ⟨m₁, e₁, h₁, -⟩ := fpValue_of_finite ha
  obtain ⟨m₂, e₂, h₂, -⟩ := fpValue_of_finite hb
  rw [patValue_eq_real, patValue_eq_real, h₁, h₂]
  exact ⟨_, _, rfl, FpVal.real_mul⟩

/-- FMUL of finite operands. -/
theorem fpMul_finite (ha : isFinite t a = true) (hb : isFinite t b = true) :
    (patValue t a * patValue t b ≠ 0 → RoundedOnce t mode ftz (patValue t a * patValue t b) (fpMul t mode ftz a b)) ∧
    (patValue t a * patValue t b = 0 → fpMul t mode ftz a b = (fpPattern t (fpSign t a != fpSign t b) 0, 0)) := by
  obtain ⟨m, e, hmul, hreal⟩ := mulVals_finite ha hb
  rw [fpMul, withNan_of_numbers (numbers_two ha hb), hmul, ← hreal]
  exact ⟨roundVal_rounded mode ftz, roundVal_zero mode ftz⟩

/-- FFMA of finite operands: rounded once after the product and the sum. -/
theorem fpFma_finite (ha : isFinite t a = true) (hb : isFinite t b = true) (hc : isFinite t c = true) :
    let x := patValue t a * patValue t b + patValue t c
    let s := fpSign t a != fpSign t b
    (x ≠ 0 → RoundedOnce t mode ftz x (fpFma t mode ftz a b c)) ∧
    (x = 0 → fpFma t mode ftz a b c = (fpPattern t (if s = fpSign t c then s else mode == .rd) 0, 0)) := by
  obtain ⟨m, e, hmul, hreal⟩ := mulVals_finite ha hb
  obtain ⟨m₃, e₃, h₃, -⟩ := fpValue_of_finite hc
  have hnone : firstNan t [a, b, c] = none :=
    firstNan_of_numbers (by simp [isNan_of_finite ha, isNan_of_finite hb, isNan_of_finite hc])
  simp only [fpFma, hnone, hmul, ← hreal, patValue_eq_real t c, h₃]
  exact ⟨addVals_rounded mode ftz, addVals_zero mode ftz⟩

/-! ### Division -/

/-- A quotient of natural numbers is held by its integral part and whether a remainder is left. -/
theorem held_div (n : Nat) {d : Nat} (hd : 0 < d) : Held 0 (n / d) (decide (0 < n % d)) ((n : Rat) / d) := by
  have hd' : (0 : Rat) < d := by exact_mod_cast hd
  have hcut : (n : Rat) = (n / d : Nat) * d + (n % d : Nat) := by exact_mod_cast (Nat.div_add_mod' n d).symm
  have hrem : ((n % d : Nat) : Rat) < d := by exact_mod_cast Nat.mod_lt n hd
  refine ⟨Nat.cast_div_le, fun h => ?_, fun h => ⟨one_dvd _, ?_, ?_⟩⟩
  · rw [decide_eq_false_iff_not, Nat.not_lt, Nat.le_zero] at h
    rw [div_eq_iff hd'.ne', hcut, h, Nat.cast_zero, add_zero]
  · have : (0 : Rat) < (n % d : Nat) := by exact_mod_cast of_decide_eq_true h
    rw [lt_div_iff₀ hd']
    linarith
  · rw [div_lt_iff₀ hd', pow_zero]
    linarith

/-- The quotient of two values that are not zero is rounded once. -/
theorem roundFp_quotient {s₁ s₂ : Bool} {m₁ m₂ : Nat} {e₁ e₂ : Int} (h₁ : m₁ ≠ 0) (h₂ : m₂ ≠ 0) (hlt : m₂ < 2 ^ (t.fbits + 1)) :
    RoundedOnce t mode ftz ((FpVal.fin s₁ m₁ e₁).real / (FpVal.fin s₂ m₂ e₂).real)
      (roundFp t mode ftz (s₁ != s₂) (m₁ * 2 ^ 64 / m₂) (e₁ - e₂ - 64) (decide (0 < m₁ * 2 ^ 64 % m₂))) := by
  have hfb := t.bounds
  have hlarge : 2 ^ (t.fbits + 1) ≤ m₁ * 2 ^ 64 / m₂ := by
    rw [Nat.le_div_iff_mul_le (Nat.pos_of_ne_zero h₂)]
    calc 2 ^ (t.fbits + 1) * m₂ ≤ 2 ^ (t.fbits + 1) * 2 ^ (t.fbits + 1) := Nat.mul_le_mul_left _ hlt.le
      _ ≤ 2 ^ 64 := by rw [← Nat.pow_add]; exact Nat.pow_le_pow_right (by decide) (by omega)
      _ ≤ m₁ * 2 ^ 64 := Nat.le_mul_of_pos_left _ (Nat.pos_of_ne_zero h₁)
  have hsign : decide ((FpVal.fin s₁ m₁ e₁).real / (FpVal.fin s₂ m₂ e₂).real < 0) = (s₁ != s₂) := by
    have hneg (s : Bool) (m : Nat) (e : Int) (hm : m ≠ 0) : (FpVal.fin s m e).real < 0 ↔ s = true := by
      simp [FpVal.real_fin_neg, hm]
    have hpos (s : Bool) (m : Nat) (e : Int) (hm : m ≠ 0) : 0 < (FpVal.fin s m e).real ↔ s = false := by
      rw [← not_iff_not, not_lt, le_iff_lt_or_eq, hneg s m e hm, FpVal.real_fin_eq_zero]
      simp [hm]
    simp only [div_neg_iff, hpos _ _ _ h₁, hpos _ _ _ h₂, hneg _ _ _ h₁, hneg _ _ _ h₂]
    cases s₁ <;> cases s₂ <;> decide
  have habs : ratAbs ((FpVal.fin s₁ m₁ e₁).real / (FpVal.fin s₂ m₂ e₂).real) =
      ((m₁ * 2 ^ 64 : Nat) : Rat) / m₂ * 2 ^ (e₁ - e₂ - 64) := by
    rw [ratAbs_eq_abs, abs_div, FpVal.abs_real_fin, FpVal.abs_real_fin, sub_sub, zpow_sub₀ (by norm_num), zpow_add₀ (by norm_num)]
    have : (m₂ : Rat) ≠ 0 := by exact_mod_cast h₂
    push_cast
    field_simp
  rw [RoundedOnce, hsign, habs]
  exact roundFp_roundedTo (Nat.pos_iff_ne_zero.mp (lt_of_lt_of_le (Nat.two_pow_pos _) hlarge))
    (held_div _ (Nat.pos_of_ne_zero h₂)) (fun _ => hlarge) mode ftz _ _

/-- FDIV of finite operands. -/
theorem fpDiv_finite (ha : isFinite t a = true) (hb : isFinite t b = true) :
    let x := patValue t a
    let y := patValue t b
    let s := fpSign t a != fpSign t b
    (x ≠ 0 → y ≠ 0 → RoundedOnce t mode ftz (x / y) (fpDiv t mode ftz a b)) ∧
    (x ≠ 0 → y = 0 → fpDiv t mode ftz a b = (fpPattern t s t.infBits, flagDZ)) ∧
    (x = 0 → y ≠ 0 → fpDiv t mode ftz a b = (fpPattern t s 0, 0)) := by
  obtain ⟨m₁, e₁, h₁, -⟩ := fpValue_of_finite ha
  obtain ⟨m₂, e₂, h₂, -, hlt, -⟩ := fpValue_of_finite hb
  simp only [fpDiv, withNan_of_numbers (numbers_two ha hb), patValue_eq_real, h₁, h₂, ne_eq, FpVal.real_fin_eq_zero]
  refine ⟨fun hx hy => ?_, fun hx hy => ?_, fun hx hy => ?_⟩
  · rw [if_neg hy, if_neg hx]
    exact roundFp_quotient hx hy hlt
  · rw [if_pos hy, if_neg hx]
    rfl
  · rw [if_neg hy, if_pos hx]
    rfl

end
end Sys2Proof.Machine
end

section
/-! SUPPORT. FSQRT (04 R85): a root that is no rational number is rounded as every number between two neighbouring integers
is that the mantissa holds; what that says of the root itself is said of squares. -/

namespace Sys2Proof.Machine

/-! ### The integer square root -/

/-- Bits below bit `n` remain to be found. -/
theorem isqrtBits_spec (x n r : Nat) (hlo : r * r ≤ x) (hhi : x < (r + 2 ^ n) * (r + 2 ^ n)) :
    isqrtBits x n r * isqrtBits x n r ≤ x ∧ x < (isqrtBits x n r + 1) * (isqrtBits x n r + 1) := by
  induction n generalizing r with
  | zero => exact ⟨hlo, hhi⟩
  | succ n ih =>
    rw [isqrtBits]
    split
    · refine ih _ ‹_› ?_
      rwa [Nat.add_assoc, ← Nat.two_mul, ← Nat.pow_succ']
    · exact ih _ hlo (Nat.lt_of_not_le ‹_›)

theorem isqrt_spec (x : Nat) : isqrt x * isqrt x ≤ x ∧ x < (isqrt x + 1) * (isqrt x + 1) := by
  refine isqrtBits_spec x _ 0 (Nat.zero_le _) (lt_of_lt_of_le Nat.lt_log2_self ?_)
  rw [Nat.zero_add, ← Nat.pow_add]
  exact Nat.pow_le_pow_right (by decide) (by omega)

/-! ### What holds of every held number, of the root -/

section
variable {r x : Nat} {c : Rat} {P : Prop}

/-- A root with its remainder: `r` is the integral part of the root of `x`. -/
structure IsRoot (r x : Nat) : Prop where
  low : r * r ≤ x
  high : x < (r + 1) * (r + 1)

theorem IsRoot.exact (h : IsRoot r x) (hs : decide (r * r < x) = false) : (x : Rat) = r ^ 2 := by
  have : x = r * r := Nat.le_antisymm (Nat.le_of_not_lt (of_decide_eq_false hs)) h.low
  rw [this, Nat.cast_mul, sq]

theorem IsRoot.between (h : IsRoot r x) (hs : decide (r * r < x) = true) : (r : Rat) ^ 2 < x ∧ (x : Rat) < (r + 1) ^ 2 := by
  have hlow : ((r * r : Nat) : Rat) < x := by exact_mod_cast of_decide_eq_true hs
  have hhigh : (x : Rat) < ((r + 1) * (r + 1) : Nat) := by exact_mod_cast h.high
  push_cast at hlow hhigh
  exact ⟨by linarith, by linarith⟩

theorem held_open {y : Rat} (hlo : (r : Rat) < y) (hhi : y < r + 1) : Held 0 r true y :=
  ⟨hlo.le, fun h => (by cases h), fun _ => ⟨one_dvd _, hlo, by simpa using hhi⟩⟩

theorem held_exists (r : Nat) (sticky : Bool) : ∃ y, Held 0 r sticky y := by
  cases sticky with
  | false => exact ⟨r, held_exact r⟩
  | true => exact ⟨r + 1 / 2, held_open (by linarith) (by linarith)⟩

/-- A bound below all numbers between `r` and `r + 1` is none above `r`. -/
theorem le_of_forall_held (h : ∀ y, Held 0 r true y → c ≤ y) : c ≤ r := by
  refine le_of_forall_gt_imp_ge_of_dense fun y hy => ?_
  rcases lt_or_ge y (r + 1) with hlt | hge
  · exact h y (held_open hy hlt)
  · exact (h (r + 1 / 2) (held_open (by linarith) (by linarith))).trans (by linarith)

theorem ge_of_forall_held (h : ∀ y, Held 0 r true y → y ≤ c) : (r : Rat) + 1 ≤ c := by
  refine le_of_forall_lt_imp_le_of_dense fun y hy => ?_
  rcases lt_or_ge (r : Rat) y with hlt | hge
  · exact h y (held_open hlt hy)
  · exact (by linarith : y ≤ r + 1 / 2).trans (h (r + 1 / 2) (held_open (by linarith) (by linarith)))

theorem IsRoot.sq_le (h : IsRoot r x) (hc : 0 ≤ c) (hy : ∀ y, Held 0 r (decide (r * r < x)) y → c ≤ y) : c ^ 2 ≤ x := by
  cases hs : decide (r * r < x) with
  | false => exact h.exact hs ▸ pow_le_pow_left₀ hc (hy r (hs ▸ held_exact r)) 2
  | true =>
    rw [hs] at hy
    exact (pow_le_pow_left₀ hc (le_of_forall_held hy) 2).trans (h.between hs).1.le

theorem IsRoot.sq_lt (h : IsRoot r x) (hc : 0 ≤ c) (hy : ∀ y, Held 0 r (decide (r * r < x)) y → c < y) : c ^ 2 < x := by
  cases hs : decide (r * r < x) with
  | false => exact h.exact hs ▸ pow_lt_pow_left₀ (hy r (hs ▸ held_exact r)) hc two_ne_zero
  | true =>
    rw [hs] at hy
    exact (pow_le_pow_left₀ hc (le_of_forall_held fun y hh => (hy y hh).le) 2).trans_lt (h.between hs).1

theorem IsRoot.le_sq (h : IsRoot r x) (hy : ∀ y, Held 0 r (decide (r * r < x)) y → y ≤ c) : (x : Rat) ≤ c ^ 2 := by
  cases hs : decide (r * r < x) with
  | false => exact h.exact hs ▸ pow_le_pow_left₀ (Nat.cast_nonneg r) (hy r (hs ▸ held_exact r)) 2
  | true =>
    rw [hs] at hy
    exact (h.between hs).2.le.trans (pow_le_pow_left₀ (by positivity) (ge_of_forall_held hy) 2)

theorem IsRoot.lt_sq (h : IsRoot r x) (hy : ∀ y, Held 0 r (decide (r * r < x)) y → y < c) : (x : Rat) < c ^ 2 := by
  cases hs : decide (r * r < x) with
  | false => exact h.exact hs ▸ pow_lt_pow_left₀ (hy r (hs ▸ held_exact r)) (Nat.cast_nonneg r) two_ne_zero
  | true =>
    rw [hs] at hy
    exact (h.between hs).2.trans_le (pow_le_pow_left₀ (by positivity) (ge_of_forall_held fun y hh => (hy y hh).le) 2)

/-- A place is the root just when it is every number that the mantissa holds. -/
theorem IsRoot.sq_eq_iff (h : IsRoot r x) (hc : 0 ≤ c) (hy : ∀ y, Held 0 r (decide (r * r < x)) y → (c = y ↔ P)) :
    c ^ 2 = x ↔ P := by
  cases hs : decide (r * r < x) with
  | false =>
    rw [h.exact hs, ← hy r (hs ▸ held_exact r)]
    exact pow_left_inj₀ hc (Nat.cast_nonneg r) two_ne_zero
  | true =>
    rw [hs] at hy
    refine ⟨fun he => ?_, fun hP => ?_⟩
    · obtain ⟨hlo, hhi⟩ := h.between hs
      rw [← he] at hlo hhi
      exact (hy c (held_open (lt_of_pow_lt_pow_left₀ 2 hc hlo) (lt_of_pow_lt_pow_left₀ 2 (by positivity) hhi))).mp rfl
    · have h1 := (hy (r + 1 / 2) (held_open (by linarith) (by linarith))).mpr hP
      have h2 := (hy (r + 1 / 3) (held_open (by linarith) (by linarith))).mpr hP
      linarith

end

/-! ### Rounding a root -/

section
variable {g : Nat → Rat} {s : Bool} {x : Rat} {k : Nat}

/-- To nearest, a magnitude lies between the middles on both sides of its place. -/
theorem Picks.rn_middles (hg : StrictMono g) (h : Picks .rn s g x k) (h0 : g 0 ≤ x) :
    g (k - 1) + g k ≤ 2 * x ∧ 2 * x ≤ g k + g (k + 1) := by
  constructor
  · rcases Nat.eq_zero_or_pos k with rfl | hk
    · linarith
    · have := hg (Nat.sub_lt hk Nat.one_pos)
      nlinarith [(h (k - 1)).1]
  · have := hg (Nat.lt_succ_self k)
    nlinarith [(h (k + 1)).1]

variable {t : Fmt} {mode : RMode}

/-- A magnitude up to the power of two below infinity is rounded to a finite one. -/
theorem Picks.lt_infBits (h : Picks mode s t.step x k) (hx : x ≤ 2 ^ (t.bias : Int)) : k < t.infBits := by
  obtain ⟨n, hn⟩ : ∃ n, t.bias = n + 1 := ⟨t.bias - 1, by have := t.bounds; omega⟩
  have hplace : t.step ((2 * n + 1) * 2 ^ t.fbits + 2 ^ t.fbits) = 2 ^ (t.bias : Int) := by
    rw [t.step_pow, t.emin_eq, hn]
    congr 1
    push_cast
    ring
  have hle := h.le_of_le t.step_strictMono (hplace ▸ hx)
  have hinf : t.infBits = (2 * n + 1) * 2 ^ t.fbits + 2 ^ t.fbits + 2 ^ t.fbits := by rw [t.infBits_eq, hn]; ring
  have := Nat.two_pow_pos t.fbits
  omega

/-- A magnitude from the least normal one on is not rounded below it. -/
theorem Picks.normal {q : Nat} {top : Int} (h : Picks mode s (fun n => (n : Rat) * 2 ^ (top - t.fbits)) x q)
    (hlo : 2 ^ top ≤ x) (hhi : x < 2 ^ (top + 1)) (hx : 2 ^ t.emin ≤ x) : (2 : Rat) ^ t.emin ≤ q * 2 ^ (top - t.fbits) := by
  have htop : t.emin ≤ top := by
    have := (zpow_lt_zpow_iff_right₀ (by norm_num)).mp (hx.trans_lt hhi)
    omega
  have hplace : ((2 ^ t.fbits : Nat) : Rat) * 2 ^ (top - t.fbits) = 2 ^ top := by
    push_cast
    rw [← zpow_natCast, ← zpow_add₀ (by norm_num)]
    congr 1
    ring
  have hqle : 2 ^ t.fbits ≤ q := h.ge_of_ge (strictMono_mul_zpow _) (hplace.le.trans hlo)
  calc (2 : Rat) ^ t.emin ≤ 2 ^ top := zpow_le_zpow_right₀ (by norm_num) htop
    _ = (2 ^ t.fbits : Nat) * 2 ^ (top - t.fbits) := hplace.symm
    _ ≤ q * 2 ^ (top - t.fbits) := mul_le_mul_of_nonneg_right (by exact_mod_cast hqle) (by positivity)

end

section
variable {t : Fmt} {mode : RMode} {ftz : Bool} {r x : Nat} {e : Int}

/-- How a mode rounds the square root of `v` to place `k` (03 R57). -/
def RootRounded (t : Fmt) (mode : RMode) (v : Rat) (k : Nat) : Prop :=
  match mode with
  | .rn => (t.step (k - 1) + t.step k) ^ 2 ≤ 4 * v ∧ 4 * v ≤ (t.step k + t.step (k + 1)) ^ 2
  | .ru => v ≤ t.step k ^ 2 ∧ t.step (k - 1) ^ 2 < v
  | _ => t.step k ^ 2 ≤ v ∧ v < t.step (k + 1) ^ 2

/-- The place of every number that the mantissa of a root holds is the place of the root. -/
theorem IsRoot.rootRounded (h : IsRoot r x) (hr : 0 < r) {k : Nat}
    (hk : ∀ y, Held 0 r (decide (r * r < x)) y → Picks mode false t.step (y * 2 ^ e) k) :
    RootRounded t mode (x * (2 ^ e) ^ 2) k := by
  have hu : (0 : Rat) < 2 ^ e := by positivity
  have hpos {y : Rat} (hy : Held 0 r (decide (r * r < x)) y) : 0 < y * 2 ^ e :=
    mul_pos (lt_of_lt_of_le (by exact_mod_cast hr) hy.low) hu
  have hsq (a : Rat) : (a / 2 ^ e) ^ 2 * (2 ^ e) ^ 2 = a ^ 2 := by rw [← mul_pow, div_mul_cancel₀ _ hu.ne']
  have hu2 : (0 : Rat) < (2 ^ e) ^ 2 := by positivity
  have hge {a : Rat} (ha : 0 ≤ a) (hy : ∀ y, Held 0 r (decide (r * r < x)) y → a ≤ y * 2 ^ e) : a ^ 2 ≤ x * (2 ^ e) ^ 2 := by
    rw [← hsq a]
    exact mul_le_mul_of_nonneg_right (h.sq_le (div_nonneg ha hu.le) fun y hh => (div_le_iff₀ hu).mpr (hy y hh)) hu2.le
  have hgt {a : Rat} (ha : 0 ≤ a) (hy : ∀ y, Held 0 r (decide (r * r < x)) y → a < y * 2 ^ e) : a ^ 2 < x * (2 ^ e) ^ 2 := by
    rw [← hsq a]
    exact mul_lt_mul_of_pos_right (h.sq_lt (div_nonneg ha hu.le) fun y hh => (div_lt_iff₀ hu).mpr (hy y hh)) hu2
  have hle {a : Rat} (hy : ∀ y, Held 0 r (decide (r * r < x)) y → y * 2 ^ e ≤ a) : x * (2 ^ e) ^ 2 ≤ a ^ 2 := by
    rw [← hsq a]
    exact mul_le_mul_of_nonneg_right (h.le_sq fun y hh => (le_div_iff₀ hu).mpr (hy y hh)) hu2.le
  have hlt {a : Rat} (hy : ∀ y, Held 0 r (decide (r * r < x)) y → y * 2 ^ e < a) : x * (2 ^ e) ^ 2 < a ^ 2 := by
    rw [← hsq a]
    exact mul_lt_mul_of_pos_right (h.lt_sq fun y hh => (lt_div_iff₀ hu).mpr (hy y hh)) hu2
  have hnn := t.step_nonneg
  have htoward (hk : ∀ y, Held 0 r (decide (r * r < x)) y → t.step k ≤ y * 2 ^ e ∧ y * 2 ^ e < t.step (k + 1)) :
      t.step k ^ 2 ≤ x * (2 ^ e) ^ 2 ∧ x * (2 ^ e) ^ 2 < t.step (k + 1) ^ 2 :=
    ⟨hge (hnn k) fun y hy => (hk y hy).1, hlt fun y hy => (hk y hy).2⟩
  cases mode with
  | rn =>
    have hmid (y : Rat) (hy : Held 0 r (decide (r * r < x)) y) :=
      (hk y hy).rn_middles t.step_strictMono (t.step_zero ▸ (hpos hy).le)
    have h1 := hge (a := (t.step (k - 1) + t.step k) / 2) (by linarith [hnn (k - 1), hnn k]) fun y hy => by
      linarith [(hmid y hy).1]
    have h2 := hle (a := (t.step k + t.step (k + 1)) / 2) fun y hy => by linarith [(hmid y hy).2]
    exact ⟨by linarith, by linarith⟩
  | rz => exact htoward hk
  | ru =>
    refine ⟨hle fun y hy => (hk y hy).1, hgt (hnn _) fun y hy => (hk y hy).2.resolve_left fun h0 => ?_⟩
    have := (hk y hy).1
    rw [h0, t.step_zero] at this
    exact absurd this (hpos hy).not_ge
  | rd => exact htoward hk

/-- A root within the format's normal magnitudes is rounded once. -/
theorem roundFp_root (h : IsRoot r x) (hlarge : 2 ^ (t.fbits + 1) ≤ r) (hmin : (2 : Rat) ^ t.emin ≤ r * 2 ^ e)
    (hmax : ((r : Rat) + 1) * 2 ^ e ≤ 2 ^ (t.bias : Int)) : ∃ k, k < t.infBits ∧
    roundFp t mode ftz false r e (decide (r * r < x)) =
      (fpPattern t false k, if t.step k ^ 2 = x * (2 ^ e) ^ 2 then 0 else flagNX) ∧
    RootRounded t mode (x * (2 ^ e) ^ 2) k := by
  have hu : (0 : Rat) < 2 ^ e := by positivity
  have hr : 0 < r := lt_of_lt_of_le (Nat.two_pow_pos _) hlarge
  have hspec (y : Rat) (hy : Held 0 r (decide (r * r < x)) y) := roundMag_spec hr.ne' hy (fun _ => hlarge) mode false e
  have hexact : t.step (roundMag t mode false r e (decide (r * r < x))).mag ^ 2 = x * (2 ^ e) ^ 2 ↔
      (roundMag t mode false r e (decide (r * r < x))).inexact = false := by
    have hroot := h.sq_eq_iff (div_nonneg (t.step_nonneg _) hu.le) fun y hy => (div_eq_iff hu.ne').trans (hspec y hy).2.1
    rwa [div_pow, div_eq_iff (by positivity)] at hroot
  have hplace : RootRounded t mode (x * (2 ^ e) ^ 2) (roundMag t mode false r e (decide (r * r < x))).mag :=
    h.rootRounded hr fun y hy => (hspec y hy).1
  obtain ⟨y, hy⟩ := held_exists r (decide (r * r < x))
  obtain ⟨hpick, -, hbig, q, top, hlo, hhi, hq, htiny⟩ := hspec y hy
  have hylt : y ≤ r + 1 := by
    cases hs : decide (r * r < x) with
    | false => rw [hy.exact hs]; linarith
    | true => simpa using (hy.rest hs).2.2.le
  have hyle : y * 2 ^ e ≤ ((r : Rat) + 1) * 2 ^ e := mul_le_mul_of_nonneg_right hylt hu.le
  have hyge : r * 2 ^ e ≤ y * 2 ^ e := mul_le_mul_of_nonneg_right hy.low hu.le
  have hfits := hpick.lt_infBits (hyle.trans hmax)
  have hnormal : (roundMag t mode false r e (decide (r * r < x))).tiny = false := by
    rw [← Bool.not_eq_true, htiny, not_lt]
    exact hq.normal hlo hhi (hmin.trans hyge)
  refine ⟨_, hfits, ?_, hplace⟩
  rw [roundFp, if_neg (by rw [hbig]; omega), if_neg (by simp [hnormal])]
  refine Prod.ext rfl ?_
  simp only [hexact, hnormal]
  cases (roundMag t mode false r e (decide (r * r < x))).inexact <;> rfl

/-- FSQRT of a positive operand rounds the root of an even power of two times an integer. -/
theorem fpSqrt_eq {a : W32} (ha : isFinite t a = true) (hpos : 0 < patValue t a) : ∃ (r x : Nat) (e : Int),
    fpSqrt t mode ftz a = roundFp t mode ftz false r e (decide (r * r < x)) ∧ IsRoot r x ∧ 2 ^ 96 ≤ x ∧
    (x : Rat) * (2 ^ e) ^ 2 = patValue t a := by
  obtain ⟨m, e, hv, -⟩ := fpValue_of_finite ha
  have hreal := patValue_eq_real t a
  rw [hv] at hreal
  have hm : m ≠ 0 := FpVal.real_fin_eq_zero.not.mp (hreal ▸ hpos.ne')
  have hsign : fpSign t a = false := by
    by_contra hs
    exact absurd (FpVal.real_fin_neg.mpr ⟨Bool.not_eq_false _ ▸ hs, hm⟩) (hreal ▸ hpos.not_gt)
  obtain ⟨h1, h2⟩ := isqrt_spec ((if e % 2 = 1 then 2 * m else m) * 2 ^ 96)
  refine ⟨_, _, (if e % 2 = 1 then e - 1 else e) / 2 - 48, ?_, ⟨h1, h2⟩, ?_, ?_⟩
  · rw [fpSqrt, withNan_of_numbers (by simp [isNan_of_finite ha]), hv, hsign]
    simp only [if_neg hm, Bool.false_eq_true, if_false]
  · exact Nat.le_mul_of_pos_left _ (by split <;> omega)
  · rw [hreal, FpVal.real, hsign, ← zpow_natCast, ← zpow_mul]
    have hshift (n : Nat) (k : Int) : ((n * 2 ^ 96 : Nat) : Rat) * 2 ^ ((k - 48) * (2 : Nat)) = n * 2 ^ (2 * k) := by
      rw [show (k - 48) * ((2 : Nat) : Int) = 2 * k - 96 by push_cast; ring, zpow_sub₀ (by norm_num)]
      push_cast
      field_simp
    rw [hshift]
    by_cases hodd : e % 2 = 1
    · simp only [if_pos hodd, Bool.false_eq_true, if_false]
      rw [show 2 * ((e - 1) / 2) = e - 1 by omega, zpow_sub_one₀ (by norm_num)]
      push_cast
      ring
    · simp only [if_neg hodd, Bool.false_eq_true, if_false]
      rw [show 2 * (e / 2) = e by omega]

/-- Magnitudes that are not zero, of finite patterns. -/
theorem patValue_bounds {a : W32} (ha : isFinite t a = true) (hpos : 0 < patValue t a) :
    2 ^ (t.emin - t.fbits) ≤ patValue t a ∧ patValue t a < 2 ^ ((t.bias : Int) + 1) := by
  have habs := ratAbs_patValue ha
  rw [ratAbs_eq_abs, abs_of_pos hpos] at habs
  rw [habs] at hpos ⊢
  refine ⟨?_, Fmt.step_lt_infBits.mpr (isFinite_iff.mp ha)⟩
  have hone : t.step 1 = 2 ^ (t.emin - t.fbits) := by
    have := Fmt.step_binade (t := t) (j := 0) (h := 1) (.inl rfl) Nat.one_le_two_pow
    simpa using this
  rw [← hone]
  exact t.step_strictMono.monotone (Nat.one_le_iff_ne_zero.mpr fun h => hpos.ne' (Fmt.step_eq_zero.mpr h))

/-- FSQRT of a positive operand. -/
theorem fpSqrt_positive {a : W32} (ha : isFinite t a = true) (hpos : 0 < patValue t a) : ∃ k, k < t.infBits ∧
    fpSqrt t mode ftz a = (fpPattern t false k, if t.step k ^ 2 = patValue t a then 0 else flagNX) ∧
    RootRounded t mode (patValue t a) k := by
  obtain ⟨hlo, hhi⟩ := patValue_bounds ha hpos
  obtain ⟨r, x, e, hsqrt, hroot, hx, hv⟩ := fpSqrt_eq (mode := mode) (ftz := ftz) ha hpos
  have hfb := t.bounds
  have hr : 2 ^ 48 ≤ r := by
    by_contra hlt
    have hle : r + 1 ≤ 2 ^ 48 := Nat.lt_of_not_le hlt
    have := hroot.high.trans_le (Nat.mul_le_mul hle hle)
    omega
  have hu : (0 : Rat) < 2 ^ e := by positivity
  have hr1 : (1 : Rat) ≤ r := by exact_mod_cast (le_trans (by decide) hr : 1 ≤ r)
  have hlow : (r : Rat) ^ 2 ≤ x := by exact_mod_cast (sq r).symm ▸ hroot.low
  have hhigh : (x : Rat) < (r + 1) ^ 2 := by exact_mod_cast (sq (r + 1)).symm ▸ hroot.high
  have hdouble : ((r : Rat) + 1) ^ 2 ≤ 4 * r ^ 2 := by nlinarith
  have hpow (n : Int) : ((2 : Rat) ^ n) ^ 2 = 2 ^ (2 * n) := by rw [← zpow_natCast, ← zpow_mul, Int.mul_comm]; rfl
  have hfour (n : Int) : (4 : Rat) * 2 ^ n = 2 ^ (n + 2) := by rw [zpow_add₀ (by norm_num)]; norm_num; ring
  rw [hsqrt, ← hv]
  refine roundFp_root hroot (le_trans (Nat.pow_le_pow_right (by decide) (by omega)) hr) ?_ ?_
  · refine le_of_sq_le_sq ?_ (by positivity)
    have h1 : (4 : Rat) * 2 ^ (2 * t.emin) ≤ 2 ^ (t.emin - t.fbits) := by
      rw [hfour]
      exact zpow_le_zpow_right₀ (by norm_num) (by rw [t.emin_eq]; omega)
    rw [hpow, mul_pow]
    nlinarith
  · refine le_of_sq_le_sq ?_ (by positivity)
    have h1 : (4 : Rat) * 2 ^ ((t.bias : Int) + 1) ≤ 2 ^ (2 * (t.bias : Int)) := by
      rw [hfour]
      exact zpow_le_zpow_right₀ (by norm_num) (by omega)
    rw [hpow, mul_pow]
    nlinarith

end
end Sys2Proof.Machine
end

section
/-! SUPPORT. Conversions (03 R61), FRND (04 R92), FMIN and FMAX (04 R86) and FCLASS (04 R95). -/

namespace Sys2Proof.Machine

/-! ### Rounding to an integer -/

section
variable {t : Fmt} {mode : RMode} {ftz s : Bool} {m : Nat} {e : Int} {w : W32}

/-- What `roundToInt` gives: the sign and the natural number that the mode picks, and whether the value changed. -/
theorem roundToInt_spec (mode : RMode) (s : Bool) (m : Nat) (e : Int) : ∃ k : Nat,
    Picks mode s (fun j => (j : Rat)) ((m : Rat) * 2 ^ e) k ∧ (roundToInt mode s m e).1 = (if s then -(k : Int) else k) ∧
    ((roundToInt mode s m e).2 = false ↔ (k : Rat) = m * 2 ^ e) ∧ ((k : Rat) = m * 2 ^ e ∨ k ≤ m / 2 + 1) := by
  by_cases he : 0 ≤ e
  · have hk : ((m * 2 ^ e.toNat : Nat) : Rat) = m * 2 ^ e := by
      obtain ⟨n, rfl⟩ := Int.eq_ofNat_of_zero_le he
      push_cast
      rw [Int.toNat_natCast, zpow_natCast]
    rw [roundToInt, if_pos he]
    exact ⟨m * 2 ^ e.toNat, hk ▸ picks_self Nat.strictMono_cast, rfl, iff_of_true rfl hk, .inl hk⟩
  · obtain ⟨sh, hsh⟩ := Int.eq_ofNat_of_zero_le (show 0 ≤ -e by omega)
    have hpos : 0 < sh := by omega
    have hu : (0 : Rat) < 2 ^ e := by positivity
    have hunit : (2 : Rat) ^ sh * 2 ^ e = 1 := (unit_of_shift (q := 0) (by omega)).trans (zpow_zero _)
    have hn : Neighbours (fun j => (j : Rat)) (m / 2 ^ sh) (m / 2 ^ sh) (2 ^ sh * 2 ^ e) := by
      rw [hunit]
      exact ⟨(mul_one _).symm, by push_cast; ring⟩
    have hheld := held_exact m
    rw [roundToInt, if_neg he, hsh, Int.toNat_natCast]
    refine ⟨m / 2 ^ sh + roundCarry mode s false m sh,
      hheld.picks Nat.strictMono_cast hu hpos (fun h => by cases h) rfl hn mode s, rfl, ?_, .inr ?_⟩
    · rw [hheld.rounded_exact_iff hu (fun h => by cases h) hn mode s, Bool.or_false]
    · have hle : m / 2 ^ sh ≤ m / 2 := Nat.div_le_div_left (Nat.le_self_pow hpos.ne' 2) (by decide)
      exact Nat.add_le_add hle (roundCarry_le mode s false m sh)

/-- The signed number that a magnitude rounds to against the value. -/
theorem signed_eq_patValue (h : isFinite t w = true) (k : Nat) :
    (((if fpSign t w then -(k : Int) else k) : Int) : Rat) = patValue t w ↔ (k : Rat) = t.step (fpMag t w) := by
  rw [patValue_of_finite h]
  split
  · rw [Int.cast_neg, Int.cast_natCast, neg_inj]
  · rw [Int.cast_natCast]

/-- A finite value to an integer type (03 R61). -/
theorem fpToInt_finite (h : isFinite t w = true) (n : Nat) (nat : Bool) : ∃ k : Nat,
    Picks mode (fpSign t w) (fun j => (j : Rat)) (ratAbs (patValue t w)) k ∧
    let lo : Int := if nat then 0 else -2 ^ (n - 1)
    let hi : Int := if nat then 2 ^ n - 1 else 2 ^ (n - 1) - 1
    let i : Int := if fpSign t w then -(k : Int) else k
    fpToInt t mode n nat w =
      if i < lo then (lo, flagNV) else if hi < i then (hi, flagNV) else (i, if (i : Rat) = patValue t w then 0 else flagNX) := by
  obtain ⟨m, e, hv, hstep, -⟩ := fpValue_of_finite h
  obtain ⟨k, hk, hi, hexact, -⟩ := roundToInt_spec mode (fpSign t w) m e
  refine ⟨k, by rw [ratAbs_patValue h, ← hstep]; exact hk, ?_⟩
  rw [hstep, ← signed_eq_patValue h] at hexact
  simp only [fpToInt, hv, hi, Nat.cast_pow, Nat.cast_ofNat, ← hexact]
  cases (roundToInt mode (fpSign t w) m e).2 <;> rfl

/-- FRND of a value that is not zero (04 R92): the integral value is a magnitude of the format. -/
theorem fpRound_finite (h : isFinite t w = true) (hv0 : patValue t w ≠ 0) : ∃ k : Nat,
    Picks mode (fpSign t w) (fun j => (j : Rat)) (ratAbs (patValue t w)) k ∧
    isFinite t (fpRound t mode w).1 = true ∧ fpSign t (fpRound t mode w).1 = fpSign t w ∧
    ratAbs (patValue t (fpRound t mode w).1) = k ∧ (fpRound t mode w).2 = 0 := by
  obtain ⟨m, e, hv, hstep, hm, he⟩ := fpValue_of_finite h
  obtain ⟨k, hk, hi, -, hsize⟩ := roundToInt_spec mode (fpSign t w) m e
  have hm0 : m ≠ 0 := by rintro rfl; exact hv0 (by rw [patValue_eq_real, hv, FpVal.real_fin_eq_zero])
  have hfb := t.bounds
  have habs : (roundToInt mode (fpSign t w) m e).1.natAbs = k := by rw [hi]; split <;> omega
  obtain ⟨n, hn, hlt⟩ : ∃ n, t.step n = (k : Rat) ∧ n < t.infBits := by
    rcases hsize with heq | hle
    · exact ⟨fpMag t w, by rw [heq, hstep], isFinite_iff.mp h⟩
    · have hpow : 2 ^ (t.fbits + 1) = 2 ^ t.fbits + 2 ^ t.fbits := by rw [Nat.pow_succ]; omega
      have hbig : 2 ≤ 2 ^ t.fbits := t.two_le_pow_fbits
      obtain ⟨n, hn⟩ := Fmt.exists_step (t := t) (m := k) (e := 0) (by omega) (by rw [t.emin_eq]; omega)
      rw [zpow_zero, mul_one] at hn
      refine ⟨n, hn, Fmt.step_lt_infBits.mp (hn ▸ ?_)⟩
      have hlt : (k : Rat) < (2 ^ (t.fbits + 1) : Nat) := by exact_mod_cast (by omega : k < 2 ^ (t.fbits + 1))
      refine hlt.trans_le ?_
      rw [Nat.cast_pow, Nat.cast_ofNat, ← zpow_natCast]
      exact zpow_le_zpow_right₀ (by norm_num) (by push_cast; omega)
  have hres : fpRound t mode w = (fpPattern t (fpSign t w) n, 0) := by
    simp only [fpRound, hv, if_neg hm0, habs, roundVal_exact hlt (by rw [hn, zpow_zero, mul_one])]
  obtain ⟨hfin, hsign, hval⟩ := fpPattern_finite hlt (fpSign t w)
  rw [hres]
  exact ⟨k, by rw [ratAbs_patValue h, ← hstep]; exact hk, hfin, hsign, hval.trans hn, rfl⟩

/-- FRND of the other operands. -/
theorem fpRound_nan (h : isNan t w = true) : fpRound t mode w = (quiet t w, if isSnan t w then flagNV else 0) := by
  simp [fpRound, fpValue_nan h, snanFlag]

theorem fpRound_inf (h : isInf t w = true) : fpRound t mode w = (w, 0) := by simp only [fpRound, fpValue_inf h]

theorem fpRound_zero (h : isFinite t w = true) (hv0 : patValue t w = 0) : fpRound t mode w = (w, 0) := by
  obtain ⟨m, e, hv, -⟩ := fpValue_of_finite h
  rw [patValue_eq_real, hv, FpVal.real_fin_eq_zero] at hv0
  simp only [fpRound, hv, if_pos hv0]

/-! ### Conversions between formats -/

variable {src : Fmt}

/-- Conversion of a finite value (03 R61): rounded once; a zero keeps its sign. -/
theorem convertFp_finite (h : isFinite src w = true) :
    (patValue src w ≠ 0 → RoundedOnce t mode ftz (patValue src w) (convertFp src t mode ftz w)) ∧
    (patValue src w = 0 → convertFp src t mode ftz w = (fpPattern t (fpSign src w) 0, 0)) := by
  obtain ⟨m, e, hv, -⟩ := fpValue_of_finite h
  rw [convertFp, if_neg (by simp [isNan_of_finite h]), patValue_eq_real, hv]
  exact ⟨roundVal_rounded mode ftz, roundVal_zero mode ftz⟩

theorem convertFp_inf (h : isInf src w = true) : convertFp src t mode ftz w = (fpPattern t (fpSign src w) t.infBits, 0) := by
  rw [convertFp, if_neg (by simp [isNan_of_inf h]), fpValue_inf h]
  rfl

/-- Conversion of a NaN (03 R61): its fraction at its place in the other format, quieted, with its sign. -/
theorem convertFp_nan (h : isNan src w = true) :
    let res := convertFp src t mode ftz w
    let fr := w.toNat % 2 ^ src.fbits * 2 ^ (23 - src.fbits) / 2 ^ (23 - t.fbits)
    fpSign t res.1 = fpSign src w ∧ fpMag t res.1 = t.infBits + (fr ||| 2 ^ (t.fbits - 1)) ∧
      res.2 = if isSnan src w then flagNV else 0 := by
  intro res fr
  have hsrc := src.bounds
  have ht := t.bounds
  have hfr : fr < 2 ^ t.fbits := by
    refine Nat.div_lt_of_lt_mul ?_
    have hmod := Nat.mod_lt w.toNat (Nat.two_pow_pos src.fbits)
    have h1 := Nat.mul_lt_mul_of_pos_right hmod (Nat.two_pow_pos (23 - src.fbits))
    rw [← Nat.pow_add, Nat.add_sub_cancel' (by omega)] at h1
    rwa [← Nat.pow_add, Nat.sub_add_cancel (by omega)]
  have hor : fr ||| 2 ^ (t.fbits - 1) < 2 ^ t.fbits :=
    Nat.or_lt_two_pow hfr (Nat.pow_lt_pow_right (by decide) (by omega))
  have hwidth : t.infBits + (fr ||| 2 ^ (t.fbits - 1)) < 2 ^ (t.width - 1) := by have := t.infBits_lt; omega
  have hres : res = (fpPattern t (fpSign src w) (t.infBits + (fr ||| 2 ^ (t.fbits - 1))), snanFlag src [w]) := by
    simp only [res, convertFp, if_pos h, convertNan, quiet_fpPattern hfr, fr]
  rw [hres]
  exact ⟨fpSign_fpPattern hwidth, fpMag_fpPattern hwidth, by simp [snanFlag]⟩

/-- An integer to a format (03 R61). -/
theorem intToFp_rounded {i : Int} (hi : i ≠ 0) : RoundedOnce t mode ftz (i : Rat) (intToFp t mode ftz i) := by
  have hreal : (FpVal.fin (decide (i < 0)) i.natAbs 0).real = i := by rw [FpVal.real_of_int, zpow_zero, mul_one]
  have h := roundVal_rounded (t := t) mode ftz (s := decide (i < 0)) (m := i.natAbs) (e := 0)
    (by rw [hreal]; exact_mod_cast hi)
  rwa [hreal] at h

/-! ### The order of patterns -/

variable {a b : W32}

/-- Where a pattern that is no NaN stands on the line of numbers, an infinity beyond every finite value. -/
def linePlace (t : Fmt) (w : W32) : Rat := if isInf t w then (if fpSign t w then -2 ^ 200 else 2 ^ 200) else patValue t w

/-- The order of FMIN and FMAX: by place, a zero with sign below one without. -/
def lineLess (t : Fmt) (x y : W32) : Bool :=
  decide (linePlace t x < linePlace t y) || (linePlace t x == linePlace t y && fpSign t x && !fpSign t y)

/-- The magnitude of a pattern on the line. -/
def lineMag (t : Fmt) (k : Nat) : Rat := if k = t.infBits then 2 ^ 200 else t.step k

theorem linePlace_eq (h : isNan t w = false) :
    linePlace t w = if fpSign t w then -lineMag t (fpMag t w) else lineMag t (fpMag t w) := by
  rcases isFinite_or (by simp [h] : ¬ isNan t w = true) with hi | hf
  · rw [linePlace, if_pos hi, lineMag, if_pos (isInf_iff.mp hi)]
  · rw [linePlace, if_neg (by simp [isInf_of_finite hf]), lineMag, if_neg (isFinite_iff.mp hf).ne, patValue_of_finite hf]

theorem lineMag_lt {k n : Nat} (hn : n ≤ t.infBits) (h : k < n) : lineMag t k < lineMag t n := by
  rw [lineMag, if_neg (by omega), lineMag]
  split
  · calc t.step k < 2 ^ ((t.bias : Int) + 1) := Fmt.step_lt_infBits.mpr (by omega)
      _ ≤ 2 ^ (200 : Int) := zpow_le_zpow_right₀ (by norm_num) (by have := t.bounds; omega)
      _ = 2 ^ 200 := by norm_cast
  · exact t.step_strictMono h

theorem lineMag_zero (t : Fmt) : lineMag t 0 = 0 := by
  rw [lineMag, if_neg, t.step_zero]
  cases t <;> decide

theorem lineMag_nonneg {n : Nat} (hn : n ≤ t.infBits) : 0 ≤ lineMag t n := by
  rcases Nat.eq_zero_or_pos n with rfl | hpos
  · exact (lineMag_zero t).ge
  · exact (lineMag_zero t) ▸ (lineMag_lt hn hpos).le

theorem mag_le_infBits (h : isNan t w = false) : fpMag t w ≤ t.infBits := by
  rw [← Bool.not_eq_true, isNan_iff] at h
  omega

theorem lineMag_lt_iff {k n : Nat} (hk : k ≤ t.infBits) (hn : n ≤ t.infBits) : lineMag t k < lineMag t n ↔ k < n := by
  refine ⟨fun h => ?_, lineMag_lt hn⟩
  by_contra hle
  rcases Nat.eq_or_lt_of_le (Nat.le_of_not_lt hle) with rfl | hlt
  · exact lt_irrefl _ h
  · exact (lineMag_lt hk hlt).not_gt h

/-- The integer order of patterns is that of their places. -/
theorem lineLess_iff (ha : isNan t a = false) (hb : isNan t b = false) : lineLess t a b = true ↔ fpOrder t a < fpOrder t b := by
  have hma := mag_le_infBits ha
  have hmb := mag_le_infBits hb
  have hlt := lineMag_lt_iff hma hmb
  have hgt := lineMag_lt_iff hmb hma
  have h0a := lineMag_nonneg hma
  have h0b := lineMag_nonneg hmb
  rw [lineLess, linePlace_eq ha, linePlace_eq hb, fpOrder, fpOrder, Bool.or_eq_true, Bool.and_eq_true, Bool.and_eq_true,
    decide_eq_true_iff, beq_iff_eq]
  cases fpSign t a <;> cases fpSign t b <;> simp only [Bool.false_eq_true, if_true, if_false, Bool.not_true,
    Bool.not_false, and_true, and_false, or_false]
  · rw [hlt]
    omega
  · exact iff_of_false (by linarith) (by omega)
  · refine iff_of_true ?_ (by omega)
    rcases lt_or_eq_of_le (by linarith : -lineMag t (fpMag t a) ≤ lineMag t (fpMag t b)) with h | h
    · exact .inl h
    · exact .inr h
  · rw [neg_lt_neg_iff, hgt]
    omega

/-- FMIN and FMAX of two numbers. -/
theorem fpMinMax_numbers (ha : isNan t a = false) (hb : isNan t b = false) :
    fpMinMax t false a b = (if lineLess t b a then b else a, 0) ∧ fpMinMax t true a b = (if lineLess t a b then b else a, 0) := by
  have hflag : snanFlag t [a, b] = 0 := by simp [snanFlag, isSnan_of_not_nan ha, isSnan_of_not_nan hb]
  simp [fpMinMax, ha, hb, hflag, lineLess_iff hb ha, lineLess_iff ha hb]

/-- The flags of FMIN and FMAX. -/
theorem snanFlag_two : snanFlag t [a, b] = (if isSnan t a then flagNV else 0) ||| (if isSnan t b then flagNV else 0) := by
  cases hsa : isSnan t a <;> cases hsb : isSnan t b <;> simp [snanFlag, hsa, hsb]

/-! ### The class of a pattern -/

/-- A magnitude below the smallest normal value (03 R56). -/
theorem step_lt_normal {k : Nat} : t.step k < 2 ^ t.emin ↔ k < 2 ^ t.fbits := by
  have h := t.step_pow 0
  rw [Nat.zero_mul, Nat.zero_add, Nat.cast_zero, add_zero] at h
  rw [← h, t.step_strictMono.lt_iff_lt]

/-- FCLASS by the value of the pattern (04 R95). -/
theorem fpClass_eq (w : W32) :
    fpClass t w =
      if isNan t w then (if isSnan t w then 2 ^ 8 else 2 ^ 9)
      else if isInf t w then 2 ^ (if fpSign t w then 0 else 7)
      else if patValue t w = 0 then 2 ^ (if fpSign t w then 3 else 4)
      else if ratAbs (patValue t w) < 2 ^ t.emin then 2 ^ (if fpSign t w then 2 else 5)
      else 2 ^ (if fpSign t w then 1 else 6) := by
  have hpow (n p : Nat) : (if fpSign t w then 2 ^ n else 2 ^ p) = 2 ^ (if fpSign t w then n else p) := by split <;> rfl
  by_cases hn : isNan t w = true
  · simp only [fpClass, hn, if_true]
  rw [Bool.not_eq_true] at hn
  have hs := isSnan_of_not_nan hn
  rcases isFinite_or (by simp [hn] : ¬ isNan t w = true) with hi | hf
  · simp only [fpClass, hn, hs, hi, if_true, Bool.false_eq_true, if_false, hpow]
  · have hsub : isSubnormal t w = true ↔ fpMag t w ≠ 0 ∧ fpMag t w < 2 ^ t.fbits := by
      simp [isSubnormal, Nat.pos_iff_ne_zero]
    simp only [fpClass, hn, hs, isInf_of_finite hf, Bool.false_eq_true, if_false, patValue_eq_zero hf, ratAbs_patValue hf,
      step_lt_normal, hsub, hpow]
    by_cases h0 : fpMag t w = 0
    · simp only [if_pos h0]
    · simp only [ne_eq, h0, not_false_eq_true, true_and, if_false]

end
end Sys2Proof.Machine
end

section
/-! SUPPORT. One block of `mxe_dot` (03 R69): products, their exact sum and what is added to the accumulator. -/

namespace Sys2Proof.Machine

/-! ### Products -/

namespace Elem
variable {x y : Elem} {s : Bool}

/-- A product that is an exact zero whatever the partner is. -/
theorem prod_zero (h : x.isZero = true ∨ y.isZero = true) : prod x y = zero := by
  rw [prod.eq_def, if_pos (by simpa using h)]

theorem value_of_isZero (h : x.isZero = true) : x.value = 0 := by
  cases x with
  | fin m e => simp [value, beq_iff_eq.mp h]
  | nan => rfl
  | inf s => rfl

/-- A product with a NaN, where neither factor is zero. -/
theorem prod_nan (h0 : ¬ (x.isZero = true ∨ y.isZero = true)) (h : x = nan ∨ y = nan) : prod x y = nan := by
  rw [prod.eq_def, if_neg (by simpa using h0)]
  rcases h with rfl | rfl
  · rfl
  · cases x <;> rfl

/-- A product with an infinity, where neither factor is zero or a NaN. -/
theorem prod_inf (h0 : ¬ (x.isZero = true ∨ y.isZero = true)) (hnan : ¬ (x = nan ∨ y = nan))
    (h : (∃ u, x = inf u) ∨ ∃ u, y = inf u) : prod x y = inf (x.isNeg != y.isNeg) := by
  rw [prod.eq_def, if_neg (by simpa using h0)]
  rcases h with ⟨u, rfl⟩ | ⟨u, rfl⟩
  · cases y with
    | nan => exact absurd (.inr rfl) hnan
    | inf v => rfl
    | fin m e => rfl
  · cases x with
    | nan => exact absurd (.inl rfl) hnan
    | inf v => rfl
    | fin m e => rfl

/-- The other products are exact. -/
theorem prod_fin (hnan : (x.isZero = true ∨ y.isZero = true) ∨ ¬ (x = nan ∨ y = nan))
    (hinf : (x.isZero = true ∨ y.isZero = true) ∨ ¬ ((∃ u, x = inf u) ∨ ∃ u, y = inf u)) :
    ∃ m e, prod x y = fin m e ∧ (fin m e).value = x.value * y.value := by
  by_cases h0 : x.isZero = true ∨ y.isZero = true
  · refine ⟨0, 0, prod_zero h0, ?_⟩
    have hv : (fin 0 0).value = 0 := value_of_isZero rfl
    rcases h0 with h | h
    · rw [hv, value_of_isZero h, zero_mul]
    · rw [hv, value_of_isZero h, mul_zero]
  · have hnan := hnan.resolve_left h0
    have hinf := hinf.resolve_left h0
    cases x with
    | nan => exact absurd (.inl rfl) hnan
    | inf u => exact absurd (.inl ⟨u, rfl⟩) hinf
    | fin m e =>
      cases y with
      | nan => exact absurd (.inr rfl) hnan
      | inf u => exact absurd (.inr ⟨u, rfl⟩) hinf
      | fin n k =>
        refine ⟨m * n, e + k, by rw [prod.eq_def, if_neg (by simpa using h0)], ?_⟩
        simp only [value, zpow_add₀ (two_ne_zero (α := Rat)), Int.cast_mul]
        ring

/-! ### Sums -/

@[simp] theorem nan_add (x : Elem) : add nan x = nan := by cases x <;> rfl

@[simp] theorem add_nan (x : Elem) : add x nan = nan := by cases x <;> rfl

/-- The sum of finite elements is exact. -/
theorem value_add (m n : Int) (e k : Int) : ∃ p b, add (fin m e) (fin n k) = fin p b ∧
    (fin p b).value = (fin m e).value + (fin n k).value := by
  refine ⟨_, _, rfl, ?_⟩
  simp only [value]
  rw [← zpow_toNat_sub (min_le_left e k), ← zpow_toNat_sub (min_le_right e k)]
  push_cast
  ring

theorem foldl_add_of_nan (l : List Elem) : l.foldl add nan = nan := by
  induction l with
  | nil => rfl
  | cons x l ih => rw [List.foldl_cons, nan_add, ih]

/-- A sum with a NaN, or with infinities of both signs, is a NaN. -/
theorem foldl_add_nan (l : List Elem) (x : Elem)
    (h : nan ∈ x :: l ∨ (inf true ∈ x :: l ∧ inf false ∈ x :: l)) : l.foldl add x = nan := by
  induction l generalizing x with
  | nil =>
    rcases h with h | ⟨h, h'⟩
    · exact (List.mem_singleton.mp h).symm
    · cases (List.mem_singleton.mp h).trans (List.mem_singleton.mp h').symm
  | cons y l ih =>
    rw [List.foldl_cons]
    cases x with
    | nan => rw [nan_add, foldl_add_of_nan]
    | inf u =>
      cases y with
      | nan => rw [add_nan, foldl_add_of_nan]
      | inf v =>
        by_cases huv : u = v
        · subst huv
          refine ih _ ?_
          simpa [add] using h
        · rw [add, if_neg huv, foldl_add_of_nan]
      | fin n k => exact ih _ (by simpa [add] using h)
    | fin m e =>
      cases y with
      | nan => rw [add_nan, foldl_add_of_nan]
      | inf v => exact ih _ (by simpa [add] using h)
      | fin n k => exact ih _ (by simpa [add] using h)

/-- A sum with infinities of one sign and no NaN is that infinity. -/
theorem foldl_add_inf (l : List Elem) (x : Elem) (hnan : nan ∉ x :: l) (hother : inf (!s) ∉ x :: l) (h : inf s ∈ x :: l) :
    l.foldl add x = inf s := by
  induction l generalizing x with
  | nil => exact (List.mem_singleton.mp h).symm
  | cons y l ih =>
    rw [List.foldl_cons]
    cases x with
    | nan => exact absurd List.mem_cons_self hnan
    | inf u =>
      have hu : u = s := by
        by_contra hne
        exact hother (by rw [Bool.eq_not.mpr hne]; exact List.mem_cons_self)
      subst hu
      cases y with
      | nan => simp at hnan
      | inf v =>
        have hv : v = u := by
          by_contra hne
          exact hother (by rw [Bool.eq_not.mpr hne]; simp)
        subst hv
        exact ih _ (by simpa [add] using hnan) (by simpa [add] using hother) (by simp [add])
      | fin n k => exact ih _ (by simpa [add] using hnan) (by simpa [add] using hother) (by simp [add])
    | fin m e =>
      cases y with
      | nan => simp at hnan
      | inf v => exact ih _ (by simpa [add] using hnan) (by simpa [add] using hother) (by simpa [add] using h)
      | fin n k => exact ih _ (by simpa [add] using hnan) (by simpa [add] using hother) (by simpa [add] using h)

/-- A sum of finite elements is exact. -/
theorem foldl_add_fin (l : List Elem) (m e : Int) (h : ∀ x ∈ l, ∃ n k, x = fin n k) : ∃ p b,
    l.foldl add (fin m e) = fin p b ∧ (fin p b).value = (fin m e).value + (l.map value).sum := by
  induction l generalizing m e with
  | nil => exact ⟨m, e, rfl, by simp⟩
  | cons x l ih =>
    rw [List.forall_mem_cons] at h
    obtain ⟨⟨n, k, rfl⟩, hl⟩ := h
    obtain ⟨p, b, hadd, hval⟩ := value_add m n e k
    obtain ⟨p', b', hfold, hval'⟩ := ih p b hl
    exact ⟨p', b', by rw [List.foldl_cons, hadd, hfold], by rw [hval', hval, List.map_cons, List.sum_cons, add_assoc]⟩

theorem sum_nan {l : List Elem} (h : nan ∈ l ∨ (inf true ∈ l ∧ inf false ∈ l)) : sum l = nan :=
  foldl_add_nan l zero (h.imp (List.mem_cons_of_mem _) (And.imp (List.mem_cons_of_mem _) (List.mem_cons_of_mem _)))

theorem sum_inf {l : List Elem} (hnan : nan ∉ l) (hother : inf (!s) ∉ l) (h : inf s ∈ l) : sum l = inf s :=
  foldl_add_inf l zero (by simpa [zero] using hnan) (by simpa [zero] using hother) (List.mem_cons_of_mem _ h)

theorem sum_fin {l : List Elem} (h : ∀ x ∈ l, ∃ n k, x = fin n k) :
    ∃ p b, sum l = fin p b ∧ (fin p b).value = (l.map value).sum := by
  obtain ⟨p, b, hsum, hval⟩ := foldl_add_fin l 0 0 h
  exact ⟨p, b, hsum, by rw [hval]; simp [value]⟩

end Elem

/-! ### Adding a partial -/

section
variable {acc : W32}

theorem isNan_quiet {w : W32} (h : isNan .f32 w = true) : isNan .f32 (quiet .f32 w) = true := by
  rw [isNan_iff] at h ⊢
  refine h.trans_le ?_
  rw [fpMag, fpMag, quiet, BitVec.toNat_or, Nat.or_mod_two_pow]
  exact Nat.left_le_or

/-- A partial that is a NaN makes the accumulator the canonical NaN. -/
theorem dotStep_nan (acc : W32) : dotStep acc .nan = 0x7FC00000#32 := by
  have hadd : isNan .f32 (fpAdd .f32 .rn false acc (Fmt.qnan .f32)).1 = true := by
    by_cases h : isNan .f32 acc = true
    · simp [fpAdd, withNan, firstNan, h, isNan_quiet h]
    · have hq : isNan .f32 (Fmt.qnan .f32) = true := by decide
      simp [fpAdd, withNan, firstNan, h, hq, isNan_quiet hq]
  simp only [dotStep, Elem.isZero, Elem.round32, canonNan, hadd, if_true, Bool.false_eq_true, if_false]
  rfl

theorem dotStep_inf (acc : W32) (s : Bool) :
    dotStep acc (.inf s) = canonNan (fpAdd .f32 .rn false acc (fpPattern .f32 s (255 * 2 ^ 23))).1 := rfl

theorem dotStep_zero {m e : Int} (h : (Elem.fin m e).value = 0) : dotStep acc (.fin m e) = acc := by
  have hm : m = 0 := by simpa [Elem.value, zpow_ne_zero] using h
  rw [dotStep, if_pos (by simp [Elem.isZero, hm])]

/-- A partial that is not zero is rounded once and added. -/
theorem dotStep_fin {m e : Int} (h : (Elem.fin m e).value ≠ 0) : ∃ w, RoundedOnce .f32 .rn false (Elem.fin m e).value w ∧
    dotStep acc (.fin m e) = canonNan (fpAdd .f32 .rn false acc w.1).1 := by
  have hm : m ≠ 0 := by rintro rfl; exact h (by simp [Elem.value])
  have hreal : (FpVal.fin (decide (m < 0)) m.natAbs e).real = (Elem.fin m e).value := FpVal.real_of_int m e
  refine ⟨_, hreal ▸ roundVal_rounded .rn false (by rwa [hreal]), ?_⟩
  rw [dotStep, if_neg (by simp [Elem.isZero, hm])]
  rfl

end

/-! ### A block of products -/

section
variable {a b : Nat → Elem} {n : Nat}

/-- The products of block `n`. -/
def blockProds (a b : Nat → Elem) (n : Nat) : List Elem :=
  (List.range 16).map fun j => Elem.prod (a (16 * n + j)) (b (16 * n + j))

theorem mxeDot_succ (acc : W32) (a b : Nat → Elem) (n : Nat) :
    mxeDot acc a b (n + 1) = dotStep (mxeDot acc a b n) (Elem.sum (blockProds a b n)) := rfl

theorem mem_blockProds {x : Elem} : x ∈ blockProds a b n ↔ ∃ k, (16 * n ≤ k ∧ k < 16 * n + 16) ∧ Elem.prod (a k) (b k) = x := by
  rw [blockProds, List.mem_map]
  constructor
  · rintro ⟨j, hj, rfl⟩
    exact ⟨16 * n + j, ⟨by omega, by have := List.mem_range.mp hj; omega⟩, rfl⟩
  · rintro ⟨k, ⟨hlo, hhi⟩, rfl⟩
    exact ⟨k - 16 * n, List.mem_range.mpr (by omega), by rw [Nat.add_sub_cancel' hlo]⟩

/-- Position `k` gives a zero, a NaN, an infinity of the sign `s` (03 R69). -/
def prodIsZero (a b : Nat → Elem) (k : Nat) : Prop := (a k).isZero ∨ (b k).isZero
def prodIsNan (a b : Nat → Elem) (k : Nat) : Prop := ¬ prodIsZero a b k ∧ (a k = .nan ∨ b k = .nan)
def prodIsInf (a b : Nat → Elem) (s : Bool) (k : Nat) : Prop :=
  ¬ prodIsZero a b k ∧ ¬ prodIsNan a b k ∧ ((∃ u, a k = .inf u) ∨ ∃ u, b k = .inf u) ∧ ((a k).isNeg != (b k).isNeg) = s

theorem prod_of_isNan {k : Nat} (h : prodIsNan a b k) : Elem.prod (a k) (b k) = .nan := Elem.prod_nan h.1 h.2

theorem prod_of_isInf {s : Bool} {k : Nat} (h : prodIsInf a b s k) : Elem.prod (a k) (b k) = .inf s := by
  obtain ⟨h0, hnan, hinf, rfl⟩ := h
  exact Elem.prod_inf h0 (fun h => hnan ⟨h0, h⟩) hinf

/-- The product at a position that gives neither a NaN nor an infinity. -/
theorem prod_of_finite {k : Nat} (hnan : ¬ prodIsNan a b k) (hinf : ∀ s, ¬ prodIsInf a b s k) :
    ∃ m e, Elem.prod (a k) (b k) = .fin m e ∧ (Elem.fin m e).value = (a k).value * (b k).value :=
  Elem.prod_fin (or_iff_not_imp_left.mpr fun h0 h => hnan ⟨h0, h⟩)
    (or_iff_not_imp_left.mpr fun h0 h => hinf _ ⟨h0, hnan, h, rfl⟩)

theorem prod_eq_nan_iff {k : Nat} : Elem.prod (a k) (b k) = .nan ↔ prodIsNan a b k := by
  refine ⟨fun h => ?_, prod_of_isNan⟩
  by_contra hnan
  by_cases hinf : ∃ s, prodIsInf a b s k
  · obtain ⟨s, hs⟩ := hinf
    cases h.symm.trans (prod_of_isInf hs)
  · obtain ⟨m, e, hfin, -⟩ := prod_of_finite hnan (not_exists.mp hinf)
    cases h.symm.trans hfin

theorem prod_eq_inf_iff {s : Bool} {k : Nat} : Elem.prod (a k) (b k) = .inf s ↔ prodIsInf a b s k := by
  refine ⟨fun h => ?_, prod_of_isInf⟩
  by_cases hinf : ∃ s, prodIsInf a b s k
  · obtain ⟨u, hu⟩ := hinf
    obtain rfl : s = u := Elem.inf.inj (h.symm.trans (prod_of_isInf hu))
    exact hu
  · by_cases hnan : prodIsNan a b k
    · cases h.symm.trans (prod_of_isNan hnan)
    · obtain ⟨m, e, hfin, -⟩ := prod_of_finite hnan (not_exists.mp hinf)
      cases h.symm.trans hfin

/-- The sum of a block of finite products. -/
theorem sum_blockProds (h : ∀ k, 16 * n ≤ k ∧ k < 16 * n + 16 → ¬ prodIsNan a b k ∧ ∀ s, ¬ prodIsInf a b s k) : ∃ m e,
    Elem.sum (blockProds a b n) = .fin m e ∧
    (Elem.fin m e).value = ((List.range 16).map fun j => (a (16 * n + j)).value * (b (16 * n + j)).value).sum := by
  have hprod (k : Nat) (hk : 16 * n ≤ k ∧ k < 16 * n + 16) := prod_of_finite (h k hk).1 (h k hk).2
  obtain ⟨m, e, hsum, hval⟩ := Elem.sum_fin (l := blockProds a b n) fun x hx => by
    obtain ⟨k, hk, rfl⟩ := mem_blockProds.mp hx
    obtain ⟨p, q, hpq, -⟩ := hprod k hk
    exact ⟨p, q, hpq⟩
  refine ⟨m, e, hsum, hval.trans (congrArg List.sum ?_)⟩
  rw [blockProds, List.map_map]
  refine List.map_congr_left fun j hj => ?_
  obtain ⟨p, q, hpq, hv⟩ := hprod (16 * n + j) ⟨by omega, by have := List.mem_range.mp hj; omega⟩
  rw [Function.comp_apply, hpq, hv]

/-- A block with a NaN, or with infinities of both signs. -/
theorem mxeDot_nan (acc : W32) (h : (∃ k, (16 * n ≤ k ∧ k < 16 * n + 16) ∧ prodIsNan a b k) ∨
    ((∃ k, (16 * n ≤ k ∧ k < 16 * n + 16) ∧ prodIsInf a b true k) ∧
      ∃ k, (16 * n ≤ k ∧ k < 16 * n + 16) ∧ prodIsInf a b false k)) :
    mxeDot acc a b (n + 1) = 0x7FC00000#32 := by
  rw [mxeDot_succ, Elem.sum_nan, dotStep_nan]
  simpa only [mem_blockProds, prod_eq_nan_iff, prod_eq_inf_iff] using h

/-- A block with infinities of one sign and no NaN. -/
theorem mxeDot_inf (acc : W32) {s : Bool} (hnone : ∀ k, 16 * n ≤ k ∧ k < 16 * n + 16 → ¬ prodIsNan a b k ∧ ¬ prodIsInf a b (!s) k)
    (h : ∃ k, (16 * n ≤ k ∧ k < 16 * n + 16) ∧ prodIsInf a b s k) : mxeDot acc a b (n + 1) =
      canonNan (fpAdd .f32 .rn false (mxeDot acc a b n) (fpPattern .f32 s (255 * 2 ^ 23))).1 := by
  rw [mxeDot_succ, Elem.sum_inf (s := s), dotStep_inf]
  · rw [mem_blockProds]
    exact fun ⟨k, hk, hp⟩ => (hnone k hk).1 (prod_eq_nan_iff.mp hp)
  · rw [mem_blockProds]
    exact fun ⟨k, hk, hp⟩ => (hnone k hk).2 (prod_eq_inf_iff.mp hp)
  · simpa only [mem_blockProds, prod_eq_inf_iff] using h

end
end Sys2Proof.Machine
end

section
/-! SUPPORT. Reading an element of a PB16 block (03 R64, R65). -/

namespace Sys2Proof.Machine

section
variable {b : Block} {i n : Nat}

theorem Block.mbit_eq (b : Block) (k i : Nat) : b.mbit k i = ((b.m.getD (k - 1) 0).getLsbD i).toNat := by
  rw [Block.mbit, BitVec.getLsbD, Nat.toNat_testBit, Nat.shiftRight_eq_div_pow]

theorem Block.mu_eq (b : Block) (j : Nat) : b.mu j = (b.e.getLsbD (8 + j)).toNat := by
  rw [Block.mu, BitVec.getLsbD, Nat.toNat_testBit, Nat.shiftRight_eq_div_pow]

/-- Bit `n + 1` of a fraction in units of its weight. -/
theorem weight_mul (n : Nat) : (2 : Rat) ^ (-((n : Int) + 1)) * 2 ^ (n + 1) = 1 := by
  rw [← zpow_natCast, ← zpow_add₀ (by norm_num)]
  push_cast
  rw [neg_add_cancel, zpow_zero]

/-- The fraction of element `i` that the first `n` planes hold. -/
def Block.fraction (b : Block) (i n : Nat) : Rat :=
  ((List.range n).map fun k => if (b.m.getD (k + 1 - 1) 0).getLsbD i then (2 : Rat) ^ (-((k : Int) + 1)) else 0).sum

theorem Block.frac_eq (b : Block) (i n : Nat) : (b.frac i n : Rat) = b.fraction i n * 2 ^ n := by
  induction n with
  | zero => simp [Block.frac, Block.fraction]
  | succ n ih =>
    have hlast : ((b.mbit (n + 1) i : Nat) : Rat) =
        (if (b.m.getD (n + 1 - 1) 0).getLsbD i then (2 : Rat) ^ (-((n : Int) + 1)) else 0) * 2 ^ (n + 1) := by
      rw [Block.mbit_eq, ite_mul, weight_mul, zero_mul]
      cases (b.m.getD (n + 1 - 1) 0).getLsbD i <;> rfl
    rw [Block.frac, Block.fraction, List.range_succ, List.map_append, List.sum_append, List.map_singleton, List.sum_singleton,
      add_mul, ← hlast, ← Block.fraction]
    push_cast
    rw [ih]
    ring

theorem Block.frac_lt (b : Block) (i n : Nat) : b.frac i n < 2 ^ n := by
  induction n with
  | zero => exact Nat.one_pos
  | succ n ih =>
    have hbit : b.mbit (n + 1) i ≤ 1 := by rw [Block.mbit_eq]; exact Bool.toNat_le _
    rw [Block.frac, Nat.pow_succ]
    omega

/-- The fraction that a read gives: with the midpoint flag, the centre of the interval of one that is cut off (03 R64). -/
def Block.readFraction (b : Block) (i n : Nat) (mid : Bool) : Rat :=
  if b.fraction i n ≠ 0 ∧ mid ∧ n < 16 then b.fraction i n + 2 ^ (-((n : Int) + 1)) else b.fraction i n

/-- The mantissa of the exact value of an element. -/
def Block.mantissa (b : Block) (i n : Nat) (mid : Bool) : Nat :=
  if b.frac i n ≠ 0 ∧ mid ∧ n < 16 then 2 * b.frac i n + 1 else 2 * b.frac i n

theorem Block.mantissa_eq (b : Block) (i n : Nat) (mid : Bool) :
    (b.mantissa i n mid : Rat) = b.readFraction i n mid * 2 ^ (n + 1) := by
  have hne : b.fraction i n ≠ 0 ↔ b.frac i n ≠ 0 := by
    rw [← Nat.cast_ne_zero (R := Rat), Block.frac_eq, mul_ne_zero_iff, and_iff_left (by positivity)]
  simp only [Block.mantissa, Block.readFraction, hne]
  split
  · rw [add_mul, weight_mul]
    push_cast
    rw [Block.frac_eq]
    ring
  · push_cast
    rw [Block.frac_eq]
    ring

theorem Block.mantissa_lt (b : Block) (i n : Nat) (mid : Bool) : b.mantissa i n mid < 2 ^ (n + 1) := by
  have := b.frac_lt i n
  rw [Block.mantissa, Nat.pow_succ]
  split <;> omega

/-- A read of a finite block is exact (03 R64). -/
theorem pb16Read_finite (mid : Bool) (hn : n ≤ 16) (he : b.exp ≠ 255) :
    isFinite .f32 (pb16Read b i n mid) = true ∧ fpSign .f32 (pb16Read b i n mid) = b.s.getLsbD i ∧
    ratAbs (patValue .f32 (pb16Read b i n mid)) =
      b.readFraction i n mid * 2 ^ ((b.exp : Int) - 126 - if b.e.getLsbD (8 + i / 2) then 1 else 0) := by
  obtain ⟨mu, hmu⟩ : ∃ mu : Int, mu = if b.e.getLsbD (8 + i / 2) then 1 else 0 := ⟨_, rfl⟩
  have hmu' : (b.mu (i / 2) : Int) = mu := by rw [Block.mu_eq, hmu]; cases b.e.getLsbD (8 + i / 2) <;> rfl
  have hmu1 : 0 ≤ mu ∧ mu ≤ 1 := by rw [hmu]; split <;> omega
  have hexp : b.exp < 256 := Nat.mod_lt _ (by decide)
  have hlt := b.mantissa_lt i n mid
  obtain ⟨e, he'⟩ : ∃ e, e = (b.exp : Int) - 126 - mu - n - 1 := ⟨_, rfl⟩
  have hval : (b.mantissa i n mid : Rat) * 2 ^ e = b.readFraction i n mid * 2 ^ ((b.exp : Int) - 126 - mu) := by
    rw [Block.mantissa_eq, mul_assoc, unit_of_shift]
    rw [he']
    push_cast
    ring
  obtain ⟨k, hk⟩ := Fmt.exists_step (t := .f32) (m := b.mantissa i n mid) (e := e)
    (hlt.trans_le (Nat.pow_le_pow_right (by decide) (by simp only [Fmt.fbits]; omega)))
    (by simp only [Fmt.emin_eq, Fmt.bias, Fmt.ebits, Fmt.fbits]; omega)
  have hfits : k < Fmt.infBits .f32 := by
    refine Fmt.step_lt_infBits.mp ?_
    have hunit : (2 : Rat) ^ (n + 1) * 2 ^ e = 2 ^ ((b.exp : Int) - 126 - mu) := unit_of_shift (by rw [he']; push_cast; ring)
    calc Fmt.step .f32 k < 2 ^ (n + 1) * 2 ^ e := by
          rw [hk]
          exact mul_lt_mul_of_pos_right (by exact_mod_cast hlt) (by positivity)
      _ = 2 ^ ((b.exp : Int) - 126 - mu) := hunit
      _ ≤ 2 ^ (((Fmt.bias .f32 : Nat) : Int) + 1) :=
          zpow_le_zpow_right₀ (by norm_num) (by simp only [Fmt.bias, Fmt.ebits]; omega)
  have hread : pb16Read b i n mid = fpPattern .f32 (b.s.getLsbD i) k := by
    have hround := roundVal_exact hfits hk .rn (b.s.getLsbD i)
    rw [he', ← hmu'] at hround
    rw [pb16Read, if_neg he]
    exact congrArg Prod.fst hround
  obtain ⟨hfin, hsign, hv⟩ := fpPattern_finite hfits (b.s.getLsbD i)
  rw [hread]
  exact ⟨hfin, hsign, by rw [hv, hk, hval, hmu]⟩

/-- A read of a block that is not finite (03 R65). -/
theorem pb16Read_special (mid : Bool) (he : b.exp = 255) :
    pb16Read b i n mid = (if b.s.getLsbD i then 0x80000000#32 else 0) |||
      (if n < 2 ∨ (b.m.getD 0 0).getLsbD i = true then 0x7FC00000#32
        else if (b.m.getD 1 0).getLsbD i = true then 0x7F800000#32 else 0) := by
  have h1 : b.mbit 1 i = 1 ↔ (b.m.getD 0 0).getLsbD i = true := by rw [Block.mbit_eq, Bool.toNat_eq_one]
  have h2 : b.mbit 2 i = 1 ↔ (b.m.getD 1 0).getLsbD i = true := by rw [Block.mbit_eq, Bool.toNat_eq_one]
  have hnan (s : Bool) : quiet .f32 (fpInf .f32 s) = (if s then 0x80000000#32 else 0) ||| 0x7FC00000#32 := by
    cases s <;> decide
  have hinf (s : Bool) : fpInf .f32 s = (if s then 0x80000000#32 else 0) ||| 0x7F800000#32 := by cases s <;> decide
  have hzero (s : Bool) : fpZero .f32 s = (if s then 0x80000000#32 else 0) ||| 0 := by cases s <;> decide
  simp only [pb16Read, if_pos he, h1, h2, hnan]
  split
  · rfl
  · split
    · exact hinf _
    · exact hzero _

end
end Sys2Proof.Machine
end

section
/-! SUPPORT. Encoding 16 values to a PB16 block (03 R66). -/

namespace Sys2Proof.Machine

/-! ### Planes and lists of 16 -/

section
variable {α : Type} {p : α → Bool} {l : List α} {i : Nat} {x d : α}

/-- Bit `i` of a plane is that of element `i`. -/
theorem planeOf_testBit (p : α → Bool) (l : List α) (i : Nat) : (planeOf p l).testBit i = l[i]?.any p := by
  induction l generalizing i with
  | nil => simp [planeOf]
  | cons a l ih =>
    cases i with
    | zero => cases h : p a <;> simp [planeOf, h, Nat.testBit_zero]
    | succ i =>
      have hdiv : planeOf p (a :: l) / 2 = planeOf p l := by rw [planeOf]; split <;> omega
      rw [Nat.testBit_succ, hdiv, ih, List.getElem?_cons_succ]

theorem getLsbD_plane (hi : i < 16) (hx : l[i]? = some x) : (BitVec.ofNat 16 (planeOf p l)).getLsbD i = p x := by
  rw [BitVec.getLsbD_ofNat, planeOf_testBit, hx, decide_eq_true hi]
  rfl

theorem getElem?_eq_getD (hl : l.length = 16) (hi : i < 16) : l[i]? = some (l.getD i d) := by
  rw [List.getD_eq_getElem?_getD, List.getElem?_eq_getElem (by omega)]
  rfl

theorem mem_iff_getD (hl : l.length = 16) : x ∈ l ↔ ∃ i, i < 16 ∧ l.getD i d = x := by
  rw [List.mem_iff_getElem?]
  constructor
  · rintro ⟨i, hi⟩
    exact ⟨i, hl ▸ (List.getElem?_eq_some_iff.mp hi).1, by rw [List.getD_eq_getElem?_getD, hi]; rfl⟩
  · rintro ⟨i, hi, rfl⟩
    exact ⟨i, getElem?_eq_getD hl hi⟩

theorem indexed_getElem? (k : Nat) (l : List α) (i : Nat) : (indexed k l)[i]? = l[i]?.map fun x => (k + i, x) := by
  induction l generalizing k i with
  | nil => rfl
  | cons a l ih =>
    cases i with
    | zero => rfl
    | succ i =>
      rw [indexed, List.getElem?_cons_succ, List.getElem?_cons_succ, ih]
      congr 1
      funext x
      rw [Nat.add_assoc, Nat.add_comm 1 i]

/-- A flag of the union of flags. -/
theorem foldl_or_getLsbD (f : α → FpFlags) (l : List α) (z : FpFlags) (k : Nat) :
    (l.foldl (fun a c => a ||| f c) z).getLsbD k = (z.getLsbD k || l.any fun c => (f c).getLsbD k) := by
  induction l generalizing z with
  | nil => simp
  | cons a l ih => rw [List.foldl_cons, ih, BitVec.getLsbD_or, List.any_cons, Bool.or_assoc]

theorem foldl_or_and (f : α → FpFlags) (l : List α) (mask : FpFlags) (h : ∀ c, f c &&& mask = 0) :
    l.foldl (fun a c => a ||| f c) 0 &&& mask = 0 := by
  have key (z : FpFlags) (hz : z &&& mask = 0) : l.foldl (fun a c => a ||| f c) z &&& mask = 0 := by
    induction l generalizing z with
    | nil => exact hz
    | cons a l ih =>
      refine ih _ ?_
      rw [BitVec.and_comm, BitVec.and_or_distrib_left, BitVec.and_comm mask, BitVec.and_comm mask, hz, h]
      rfl
  exact key 0 (BitVec.zero_and)

end

/-! ### Blocks that are not finite -/

section
variable {xs : List W32}

theorem special_iff {w : W32} : isFinite .f32 w = false ↔ (isNan .f32 w || isInf .f32 w) = true := by
  rw [Bool.or_eq_true, isNan_iff, isInf_iff, ← Bool.not_eq_true, isFinite_iff]
  omega

theorem special_any (hxs : xs.length = 16) : (∃ i, i < 16 ∧ isFinite .f32 (xs.getD i 0) = false) ↔
    xs.any (fun x => isNan .f32 x || isInf .f32 x) = true := by
  simp only [List.any_eq_true, mem_iff_getD hxs (d := 0), special_iff]
  exact ⟨fun ⟨i, hi, h⟩ => ⟨_, ⟨i, hi, rfl⟩, h⟩, fun ⟨_, ⟨i, hi, hx⟩, h⟩ => ⟨i, hi, hx ▸ h⟩⟩

/-- The planes of a block with a NaN or an infinity. -/
theorem pb16Encode_special (h : xs.any (fun x => isNan .f32 x || isInf .f32 x) = true) : pb16Encode xs =
    (⟨255, BitVec.ofNat 16 (planeOf (fun x => x.getLsbD 31) xs), BitVec.ofNat 16 (planeOf (isNan .f32) xs) ::
      BitVec.ofNat 16 (planeOf (isInf .f32) xs) :: List.replicate 14 0⟩, 0) := by
  rw [pb16Encode, if_pos h]

theorem special_plane (hxs : xs.length = 16) {i k : Nat} (hi : i < 16) :
    ((BitVec.ofNat 16 (planeOf (isNan .f32) xs) :: BitVec.ofNat 16 (planeOf (isInf .f32) xs) ::
      List.replicate 14 (0 : BitVec 16)).getD k 0).getLsbD i =
    if k = 0 then isNan .f32 (xs.getD i 0) else if k = 1 then isInf .f32 (xs.getD i 0) else false := by
  have hx : xs[i]? = some (xs.getD i 0) := getElem?_eq_getD hxs hi
  match k with
  | 0 => exact getLsbD_plane hi hx
  | 1 => exact getLsbD_plane hi hx
  | k + 2 =>
    rw [if_neg (by omega), if_neg (by omega), List.getD_cons_succ, List.getD_cons_succ, List.getD_eq_getElem?_getD,
      List.getElem?_replicate]
    split <;> simp

end

/-! ### The parts of an encoding -/

/-- The mantissa and exponent of a value. -/
def encMag (x : W32) : Nat × Int :=
  match fpValue .f32 x with
  | .fin _ m e => (m, e)
  | _ => (0, 0)

/-- The number that a mantissa and exponent are. -/
def magValue (v : Nat × Int) : Rat := v.1 * 2 ^ v.2

/-- The greatest exponent of the values that are not zero, no less than `acc`. -/
def encMax (mags : List (Nat × Int)) (acc : Int) : Int :=
  mags.foldl (fun acc v => if v.1 = 0 then acc else max acc (log2Of v.1 v.2)) acc

/-- The shared exponent before and after the increment of 03 R66. -/
def encBase (mags : List (Nat × Int)) : Int := max (encMax mags (-127) + 127) 0
def encExp (mags : List (Nat × Int)) : Int :=
  if encBase mags < 254 ∧ mags.any (fun v => rnd16 v.1 v.2 (encBase mags - 126) == 65536) then encBase mags + 1 else encBase mags

/-- The micro-exponents of the eight pairs. -/
def encMus (mags : List (Nat × Int)) : List Bool :=
  (List.range 8).map fun j =>
    (mags.map fun v => decide (rnd16 v.1 v.2 (encExp mags - 127) < 65536)).getD (2 * j) true &&
    (mags.map fun v => decide (rnd16 v.1 v.2 (encExp mags - 127) < 65536)).getD (2 * j + 1) true

/-- The scale of element `i`. -/
def encScale (mags : List (Nat × Int)) (i : Nat) : Int :=
  encExp mags - 126 - if (encMus mags).getD (i / 2) false then 1 else 0

/-- The fraction that an element keeps. -/
def encFrac (mags : List (Nat × Int)) (iv : Nat × (Nat × Int)) : Nat :=
  if rnd16 iv.2.1 iv.2.2 (encScale mags iv.1) = 65536 then 65535 else rnd16 iv.2.1 iv.2.2 (encScale mags iv.1)

/-- The kept fraction is the value. -/
def encSame (mags : List (Nat × Int)) (iv : Nat × (Nat × Int)) : Bool :=
  decide ((addExact false (encFrac mags iv) (encScale mags iv.1 - 16) true iv.2.1 iv.2.2).1 = 0)

/-- The fraction and flags of an element. -/
def encCode (mags : List (Nat × Int)) (iv : Nat × (Nat × Int)) : Nat × FpFlags :=
  (encFrac mags iv, (if rnd16 iv.2.1 iv.2.2 (encScale mags iv.1) = 65536 then flagOF else 0) |||
    if encSame mags iv then 0 else flagNX)

/-- The planes of a finite block. -/
theorem pb16Encode_finite {xs : List W32} (h : xs.any (fun x => isNan .f32 x || isInf .f32 x) = false) :
    let mags := xs.map encMag
    let coded := (indexed 0 mags).map (encCode mags)
    pb16Encode xs = (⟨BitVec.ofNat 16 ((encExp mags).toNat + 256 * planeOf id (encMus mags)),
      BitVec.ofNat 16 (planeOf (fun x => x.getLsbD 31) xs),
      (List.range 16).map fun k => BitVec.ofNat 16 (planeOf (fun (c : Nat × FpFlags) => bitAt c.1 (16 - (k + 1))) coded)⟩,
      coded.foldl (fun a c => a ||| c.2) 0) := by
  rw [pb16Encode, if_neg (by simp [h])]
  rfl

section
variable {v : Nat × Int} {mags : List (Nat × Int)} {i : Nat}

theorem magValue_encMag {x : W32} (h : isFinite .f32 x = true) : magValue (encMag x) = ratAbs (patValue .f32 x) := by
  obtain ⟨m, e, hv, hstep, -⟩ := fpValue_of_finite h
  rw [ratAbs_patValue h, ← hstep, encMag, hv]
  rfl

theorem magValue_eq_zero : magValue v = 0 ↔ v.1 = 0 := by
  have hpos : (0 : Rat) < 2 ^ v.2 := by positivity
  rw [magValue, mul_eq_zero, or_iff_left hpos.ne', Nat.cast_eq_zero]

theorem magValue_log2 (h : v.1 ≠ 0) : 2 ^ log2Of v.1 v.2 ≤ magValue v ∧ magValue v < 2 ^ (log2Of v.1 v.2 + 1) :=
  (held_exact v.1).log2_bounds h fun h => by cases h

/-- `rnd16` picks the nearest of the multiples of 2^-16 (03 R62). -/
theorem rnd16_picks (v : Nat × Int) (sc : Int) :
    Picks .rn false (fun n => (n : Rat) / 65536) (magValue v / 2 ^ sc) (rnd16 v.1 v.2 sc) := by
  obtain ⟨k, hk, hval, -⟩ := roundToInt_spec .rn false v.1 (v.2 - sc + 16)
  have hrnd : rnd16 v.1 v.2 sc = k := by rw [rnd16, hval]; rfl
  have hx : (v.1 : Rat) * 2 ^ (v.2 - sc + 16) = 65536 * (magValue v / 2 ^ sc) := by
    rw [magValue, zpow_add₀ (by norm_num), zpow_sub₀ (by norm_num)]
    norm_num
    ring
  rw [hx] at hk
  have hscale (n : Nat) : (magValue v / 2 ^ sc - (n : Rat) / 65536) ^ 2 = (65536 * (magValue v / 2 ^ sc) - n) ^ 2 / 65536 ^ 2 := by
    ring
  rw [hrnd]
  intro j
  rw [hscale, hscale]
  refine ⟨div_le_div_of_nonneg_right (hk j).1 (by positivity), fun hj he => (hk j).2 hj ?_⟩
  exact (div_left_inj' (by positivity)).mp he

theorem strictMono_units : StrictMono fun n : Nat => (n : Rat) / 65536 := fun a b h =>
  div_lt_div_of_pos_right (by exact_mod_cast h) (by norm_num)

/-- The greatest exponent is reached, and none exceeds it. -/
theorem encMax_spec (mags : List (Nat × Int)) (acc : Int) : acc ≤ encMax mags acc ∧
    (∀ v ∈ mags, v.1 ≠ 0 → log2Of v.1 v.2 ≤ encMax mags acc) ∧
    (encMax mags acc = acc ∨ ∃ v ∈ mags, v.1 ≠ 0 ∧ encMax mags acc = log2Of v.1 v.2) := by
  induction mags generalizing acc with
  | nil => exact ⟨le_rfl, by simp, .inl rfl⟩
  | cons v l ih =>
    obtain ⟨hacc, hall, hsome⟩ := ih (if v.1 = 0 then acc else max acc (log2Of v.1 v.2))
    rw [show encMax (v :: l) acc = encMax l (if v.1 = 0 then acc else max acc (log2Of v.1 v.2)) from rfl]
    generalize encMax l (if v.1 = 0 then acc else max acc (log2Of v.1 v.2)) = r at *
    rw [List.forall_mem_cons]
    by_cases h0 : v.1 = 0
    · rw [if_pos h0] at hacc hsome
      exact ⟨hacc, ⟨fun h => absurd h0 h, hall⟩, hsome.imp_right fun ⟨u, hu, h⟩ => ⟨u, List.mem_cons_of_mem _ hu, h⟩⟩
    · rw [if_neg h0] at hacc hsome
      refine ⟨by omega, ⟨fun _ => by omega, hall⟩, ?_⟩
      rcases hsome with h | ⟨u, hu, h⟩
      · rcases max_choice acc (log2Of v.1 v.2) with hm | hm
        · exact .inl (h.trans hm)
        · exact .inr ⟨v, List.mem_cons_self, h0, h.trans hm⟩
      · exact .inr ⟨u, List.mem_cons_of_mem _ hu, h⟩

/-- An encoding of zeros only. -/
theorem encBase_zero (h : ∀ v ∈ mags, magValue v = 0) : encBase mags = 0 := by
  obtain ⟨-, -, hsome⟩ := encMax_spec mags (-127)
  rcases hsome with hr | ⟨v, hv, hne, -⟩
  · rw [encBase, hr]
    rfl
  · exact absurd (magValue_eq_zero.mp (h v hv)) hne

/-- The shared exponent by the leading bit of the greatest value. -/
theorem encBase_eq {p : Int} (hsome : ∃ v ∈ mags, 2 ^ p ≤ magValue v) (hall : ∀ v ∈ mags, magValue v < 2 ^ (p + 1)) :
    encBase mags = max (p + 127) 0 := by
  obtain ⟨hacc, hle, hreach⟩ := encMax_spec mags (-127)
  obtain ⟨v, hv, hpv⟩ := hsome
  have hne : v.1 ≠ 0 := fun h0 => by
    rw [magValue_eq_zero.mpr h0] at hpv
    exact absurd hpv (not_le.mpr (by positivity))
  have hlog (u : Nat × Int) (hu : u ∈ mags) (hu0 : u.1 ≠ 0) : log2Of u.1 u.2 ≤ p := by
    have := (zpow_lt_zpow_iff_right₀ (by norm_num)).mp ((magValue_log2 hu0).1.trans_lt (hall u hu))
    omega
  have hlow : p ≤ log2Of v.1 v.2 := by
    have := (zpow_lt_zpow_iff_right₀ (by norm_num)).mp (hpv.trans_lt (magValue_log2 hne).2)
    omega
  have hvle := hle v hv hne
  rw [encBase]
  rcases hreach with h | ⟨u, hu, hu0, h⟩
  · omega
  · have := hlog u hu hu0
    omega

theorem encBase_nonneg (mags : List (Nat × Int)) : 0 ≤ encBase mags := le_max_right _ _

theorem encBase_le (h : ∀ v ∈ mags, magValue v < 2 ^ (128 : Int)) : encBase mags ≤ 254 := by
  obtain ⟨-, -, hreach⟩ := encMax_spec mags (-127)
  rw [encBase]
  rcases hreach with hr | ⟨u, hu, hu0, hr⟩
  · omega
  · have := (zpow_lt_zpow_iff_right₀ (by norm_num)).mp ((magValue_log2 hu0).1.trans_lt (h u hu))
    omega

theorem encExp_bounds (h : ∀ v ∈ mags, magValue v < 2 ^ (128 : Int)) : encBase mags ≤ encExp mags ∧ encExp mags ≤ 254 := by
  have := encBase_le h
  rw [encExp]
  split <;> omega

variable {d : Nat × Int}

/-- The micro-exponent of a pair (03 R66). -/
theorem encMus_getD (hl : mags.length = 16) {j : Nat} (hj : j < 8) : (encMus mags)[j]? = some (
    decide (rnd16 (mags.getD (2 * j) d).1 (mags.getD (2 * j) d).2 (encExp mags - 127) < 65536) &&
    decide (rnd16 (mags.getD (2 * j + 1) d).1 (mags.getD (2 * j + 1) d).2 (encExp mags - 127) < 65536)) := by
  have hsmall (i : Nat) (hi : i < 16) (f : Nat × Int → Bool) : (mags.map f).getD i true = f (mags.getD i d) := by
    rw [List.getD_eq_getElem?_getD, List.getElem?_map, getElem?_eq_getD (d := d) hl hi]
    rfl
  rw [encMus, List.getElem?_map, List.getElem?_range hj, Option.map_some, hsmall _ (by omega), hsmall _ (by omega)]

/-- No element exceeds one at its scale. -/
theorem rnd16_le (hl : mags.length = 16) (hi : i < 16) :
    rnd16 (mags.getD i d).1 (mags.getD i d).2 (encScale mags i) ≤ 65536 := by
  have hmu := encMus_getD (d := d) hl (show i / 2 < 8 by omega)
  rw [encScale, List.getD_eq_getElem?_getD (l := encMus mags), hmu, Option.getD_some]
  split
  · rename_i h
    rw [Bool.and_eq_true, decide_eq_true_iff, decide_eq_true_iff] at h
    rw [show encExp mags - 126 - 1 = encExp mags - 127 by ring]
    rcases Nat.mod_two_eq_zero_or_one i with hpar | hpar
    · rw [show 2 * (i / 2) = i by omega] at h
      exact h.1.le
    · rw [show 2 * (i / 2) + 1 = i by omega] at h
      exact h.2.le
  · rw [sub_zero]
    refine (rnd16_picks _ _).le_of_le strictMono_units ?_
    rw [div_le_iff₀ (by positivity)]
    by_cases h0 : (mags.getD i d).1 = 0
    · rw [magValue_eq_zero.mpr h0]
      positivity
    · have hle := (encMax_spec mags (-127)).2.1 _ ((mem_iff_getD hl).mpr ⟨i, hi, rfl⟩) h0
      have hexp : encBase mags ≤ encExp mags := by rw [encExp]; split <;> omega
      have hbase : encMax mags (-127) + 127 ≤ encBase mags := le_max_left _ _
      calc magValue (mags.getD i d) ≤ 2 ^ (log2Of (mags.getD i d).1 (mags.getD i d).2 + 1) := (magValue_log2 h0).2.le
        _ ≤ 2 ^ (encExp mags - 126) := zpow_le_zpow_right₀ (by norm_num) (by omega)
        _ = ((65536 : Nat) : Rat) / 65536 * 2 ^ (encExp mags - 126) := by norm_num

theorem encFrac_eq (hl : mags.length = 16) (hi : i < 16) :
    encFrac mags (i, mags.getD i d) = min (rnd16 (mags.getD i d).1 (mags.getD i d).2 (encScale mags i)) 65535 := by
  have := rnd16_le (d := d) hl hi
  simp only [encFrac]
  split <;> omega

theorem encSame_iff (iv : Nat × (Nat × Int)) :
    encSame mags iv = true ↔ (encFrac mags iv : Rat) * 2 ^ (encScale mags iv.1 - 16) = magValue iv.2 := by
  have hval := addExact_value false true (encFrac mags iv) iv.2.1 (encScale mags iv.1 - 16) iv.2.2
  have hpos : (0 : Rat) < 2 ^ (addExact false (encFrac mags iv) (encScale mags iv.1 - 16) true iv.2.1 iv.2.2).2 := by positivity
  rw [encSame, decide_eq_true_iff, ← Int.cast_eq_zero (α := Rat), ← mul_eq_zero_iff_right hpos.ne', hval, magValue]
  simp only [FpVal.real, Bool.false_eq_true, if_true, if_false]
  constructor <;> intro h <;> linarith

/-- The elements of an encoding in order. -/
theorem coded_getElem? (hl : mags.length = 16) (hi : i < 16) :
    ((indexed 0 mags).map (encCode mags))[i]? = some (encCode mags (i, mags.getD i d)) := by
  rw [List.getElem?_map, indexed_getElem?, getElem?_eq_getD (d := d) hl hi, Nat.zero_add]
  rfl

theorem indexed_length {α : Type} (k : Nat) (l : List α) : (indexed k l).length = l.length := by
  induction l generalizing k with
  | nil => rfl
  | cons a l ih => rw [indexed, List.length_cons, List.length_cons, ih]

/-- A flag is raised just where an element raises it. -/
theorem coded_flag (hl : mags.length = 16) (k : Nat) :
    (((indexed 0 mags).map (encCode mags)).foldl (fun a c => a ||| c.2) (0 : FpFlags)).getLsbD k = true ↔
      ∃ i, i < 16 ∧ (encCode mags (i, mags.getD i d)).2.getLsbD k = true := by
  have hlen : ((indexed 0 mags).map (encCode mags)).length = 16 := by rw [List.length_map, indexed_length, hl]
  have hget (i : Nat) (hi : i < 16) : ((indexed 0 mags).map (encCode mags)).getD i (0, 0) = encCode mags (i, mags.getD i d) := by
    rw [List.getD_eq_getElem?_getD, coded_getElem? hl hi]
    rfl
  have hzero : (0 : FpFlags).getLsbD k = false := BitVec.getLsbD_zero
  rw [foldl_or_getLsbD (fun c : Nat × FpFlags => c.2), hzero, Bool.false_or, List.any_eq_true]
  constructor
  · rintro ⟨c, hc, hk⟩
    obtain ⟨i, hi, rfl⟩ := (mem_iff_getD (d := (0, 0)) hlen).mp hc
    exact ⟨i, hi, hget i hi ▸ hk⟩
  · rintro ⟨i, hi, hk⟩
    exact ⟨_, (mem_iff_getD (d := (0, 0)) hlen).mpr ⟨i, hi, hget i hi⟩, hk⟩

/-- Overflow and inexactness of an element (03 R66). -/
theorem encCode_flags (iv : Nat × (Nat × Int)) :
    ((encCode mags iv).2.getLsbD 2 = true ↔ rnd16 iv.2.1 iv.2.2 (encScale mags iv.1) = 65536) ∧
    ((encCode mags iv).2.getLsbD 4 = true ↔ encSame mags iv = false) ∧ (encCode mags iv).2 &&& 0b01011 = 0 := by
  rw [encCode]
  by_cases h : rnd16 iv.2.1 iv.2.2 (encScale mags iv.1) = 65536 <;> cases hs : encSame mags iv <;> simp [h, flagOF, flagNX]

end

/-! ### What every block encodes to -/

theorem pb16Encode_planes (xs : List W32) : (pb16Encode xs).1.m.length = 16 := by
  cases h : xs.any fun x => isNan .f32 x || isInf .f32 x with
  | true => rw [pb16Encode_special h]; rfl
  | false => rw [pb16Encode_finite h]; rfl

theorem pb16Encode_signs (xs : List W32) : (pb16Encode xs).1.s = BitVec.ofNat 16 (planeOf (fun x => x.getLsbD 31) xs) := by
  cases h : xs.any fun x => isNan .f32 x || isInf .f32 x with
  | true => rw [pb16Encode_special h]
  | false => rw [pb16Encode_finite h]

/-! ### What a finite block encodes to -/

section
variable {xs : List W32} {i : Nat}

theorem finite_of_not_special (hxs : xs.length = 16) (h : ¬ ∃ i, i < 16 ∧ isFinite .f32 (xs.getD i 0) = false) :
    xs.any (fun x => isNan .f32 x || isInf .f32 x) = false := by
  rwa [special_any hxs, Bool.not_eq_true] at h

theorem isFinite_of_not_special (h : ¬ ∃ i, i < 16 ∧ isFinite .f32 (xs.getD i 0) = false) (hi : i < 16) :
    isFinite .f32 (xs.getD i 0) = true := by
  by_contra hc
  exact h ⟨i, hi, Bool.not_eq_true _ ▸ hc⟩

/-- The value of element `i`. -/
theorem mags_getD (hxs : xs.length = 16) (h : ¬ ∃ i, i < 16 ∧ isFinite .f32 (xs.getD i 0) = false) (hi : i < 16) :
    magValue ((xs.map encMag).getD i (0, 0)) = ratAbs (patValue .f32 (xs.getD i 0)) := by
  rw [List.getD_eq_getElem?_getD, List.getElem?_map, getElem?_eq_getD (d := 0) hxs hi]
  exact magValue_encMag (isFinite_of_not_special h hi)

theorem mem_mags (hxs : xs.length = 16) (h : ¬ ∃ i, i < 16 ∧ isFinite .f32 (xs.getD i 0) = false) (P : Rat → Prop) :
    ((∃ v ∈ xs.map encMag, P (magValue v)) ↔ ∃ i, i < 16 ∧ P (ratAbs (patValue .f32 (xs.getD i 0)))) ∧
    ((∀ v ∈ xs.map encMag, P (magValue v)) ↔ ∀ i, i < 16 → P (ratAbs (patValue .f32 (xs.getD i 0)))) := by
  have hl : (xs.map encMag).length = 16 := by rw [List.length_map, hxs]
  simp only [mem_iff_getD hl (d := (0, 0))]
  constructor
  · exact ⟨fun ⟨_, ⟨i, hi, hv⟩, hp⟩ => ⟨i, hi, mags_getD hxs h hi ▸ hv ▸ hp⟩,
      fun ⟨i, hi, hp⟩ => ⟨_, ⟨i, hi, rfl⟩, (mags_getD hxs h hi).symm ▸ hp⟩⟩
  · refine ⟨fun hall i hi => mags_getD hxs h hi ▸ hall _ ⟨i, hi, rfl⟩, ?_⟩
    rintro hall v ⟨i, hi, rfl⟩
    exact (mags_getD hxs h hi).symm ▸ hall i hi

theorem mags_lt (hxs : xs.length = 16) (h : ¬ ∃ i, i < 16 ∧ isFinite .f32 (xs.getD i 0) = false) :
    ∀ v ∈ xs.map encMag, magValue v < 2 ^ (128 : Int) := by
  rw [(mem_mags hxs h fun a => a < 2 ^ (128 : Int)).2]
  intro i hi
  have hfin := isFinite_of_not_special h hi
  rw [ratAbs_patValue hfin]
  exact Fmt.step_lt_infBits.mpr (isFinite_iff.mp hfin)

/-- A plane of a shared exponent and eight micro-exponents. -/
theorem exponent_plane {n : Nat} (hn : n < 256) (p : Nat) : (BitVec.ofNat 16 (n + 256 * p)).toNat % 256 = n ∧
    ∀ j, j < 8 → (BitVec.ofNat 16 (n + 256 * p)).getLsbD (8 + j) = p.testBit j := by
  refine ⟨by rw [BitVec.toNat_ofNat]; omega, fun j hj => ?_⟩
  rw [BitVec.getLsbD_ofNat, decide_eq_true (by omega), Bool.true_and, Nat.add_comm n, show 256 = 2 ^ 8 from rfl,
    Nat.testBit_two_pow_mul_add _ hn, if_neg (by omega), Nat.add_sub_cancel_left]

/-- The exponent plane of an encoding. -/
theorem encoded_exponent (hxs : xs.length = 16) (h : ¬ ∃ i, i < 16 ∧ isFinite .f32 (xs.getD i 0) = false) :
    (((pb16Encode xs).1.e.toNat % 256 : Nat) : Int) = encExp (xs.map encMag) ∧
    ∀ j, j < 8 → (pb16Encode xs).1.e.getLsbD (8 + j) = (encMus (xs.map encMag)).getD j false := by
  obtain ⟨hlo, hhi⟩ := encExp_bounds (mags_lt hxs h)
  have hbase := encBase_nonneg (xs.map encMag)
  obtain ⟨hexp, hbits⟩ := exponent_plane (n := (encExp (xs.map encMag)).toNat) (by omega)
    (planeOf id (encMus (xs.map encMag)))
  rw [pb16Encode_finite (finite_of_not_special hxs h)]
  refine ⟨by rw [hexp]; omega, fun j hj => ?_⟩
  rw [hbits j hj, planeOf_testBit, List.getD_eq_getElem?_getD]
  cases (encMus (xs.map encMag))[j]? <;> rfl

/-- A mantissa bit of an encoding. -/
theorem encoded_bit (hxs : xs.length = 16) (h : ¬ ∃ i, i < 16 ∧ isFinite .f32 (xs.getD i 0) = false) {k : Nat} (hk : k < 16)
    (hi : i < 16) : ((pb16Encode xs).1.m.getD k 0).getLsbD i =
      (encFrac (xs.map encMag) (i, (xs.map encMag).getD i (0, 0))).testBit (16 - (k + 1)) := by
  have hl : (xs.map encMag).length = 16 := by rw [List.length_map, hxs]
  rw [pb16Encode_finite (finite_of_not_special hxs h), List.getD_eq_getElem?_getD, List.getElem?_map, List.getElem?_range hk,
    Option.map_some, Option.getD_some, getLsbD_plane hi (coded_getElem? (d := (0, 0)) hl hi), bitAt_eq_testBit]
  rfl

/-- The flags of an encoding. -/
theorem encoded_flags (hxs : xs.length = 16) (h : ¬ ∃ i, i < 16 ∧ isFinite .f32 (xs.getD i 0) = false) :
    let mags := xs.map encMag
    let v (i : Nat) := mags.getD i (0, 0)
    ((pb16Encode xs).2.getLsbD 2 = true ↔ ∃ i, i < 16 ∧ rnd16 (v i).1 (v i).2 (encScale mags i) = 65536) ∧
    ((pb16Encode xs).2.getLsbD 4 = true ↔
      ∃ i, i < 16 ∧ (encFrac mags (i, v i) : Rat) * 2 ^ (encScale mags i - 16) ≠ magValue (v i)) ∧
    (pb16Encode xs).2 &&& 0b01011 = 0 := by
  intro mags v
  have hl : mags.length = 16 := by rw [List.length_map, hxs]
  rw [pb16Encode_finite (finite_of_not_special hxs h)]
  refine ⟨?_, ?_, ?_⟩
  · exact (coded_flag (d := (0, 0)) hl 2).trans (exists_congr fun i => and_congr_right fun _ => (encCode_flags _).1)
  · refine (coded_flag (d := (0, 0)) hl 4).trans (exists_congr fun i => and_congr_right fun _ => ?_)
    rw [(encCode_flags _).2.1, ← Bool.not_eq_true, encSame_iff]
  · rw [List.foldl_map]
    exact foldl_or_and (fun iv => (encCode mags iv).2) _ _ fun iv => (encCode_flags iv).2.2

variable {round : Int → Nat → Nat}

/-- Every nearest rounding of the values is `rnd16`. -/
theorem round_eq_rnd16 (hxs : xs.length = 16) (h : ¬ ∃ i, i < 16 ∧ isFinite .f32 (xs.getD i 0) = false)
    (hround : ∀ sc i, i < 16 →
      Picks .rn false (fun n => (n : Rat) / 65536) (ratAbs (patValue .f32 (xs.getD i 0)) / 2 ^ sc) (round sc i))
    (sc : Int) (hi : i < 16) :
    round sc i = rnd16 ((xs.map encMag).getD i (0, 0)).1 ((xs.map encMag).getD i (0, 0)).2 sc := by
  have hp := rnd16_picks ((xs.map encMag).getD i (0, 0)) sc
  rw [mags_getD hxs h hi] at hp
  exact picks_rn_unique strictMono_units (hround sc i hi) hp

/-- The shared exponent: that of the greatest value, and one more where a value rounds to one (03 R66). -/
theorem encoded_shared (hxs : xs.length = 16) (h : ¬ ∃ i, i < 16 ∧ isFinite .f32 (xs.getD i 0) = false)
    (hrnd : ∀ sc i, i < 16 → round sc i = rnd16 ((xs.map encMag).getD i (0, 0)).1 ((xs.map encMag).getD i (0, 0)).2 sc) :
    let a (i : Nat) : Rat := ratAbs (patValue .f32 (xs.getD i 0))
    let e := (pb16Encode xs).1.e.toNat % 256
    ∃ e0 : Nat, ((∀ i, i < 16 → a i = 0) → e0 = 0) ∧
      (∀ p : Int, (∃ i, i < 16 ∧ 2 ^ p ≤ a i) → (∀ i, i < 16 → a i < 2 ^ (p + 1)) → (e0 : Int) = max (p + 127) 0) ∧
      (e0 < 254 → (∃ i, i < 16 ∧ round ((e0 : Int) - 126) i = 65536) → e = e0 + 1) ∧
      (254 ≤ e0 ∨ (∀ i, i < 16 → round ((e0 : Int) - 126) i ≠ 65536) → e = e0) := by
  intro a e
  have hl : (xs.map encMag).length = 16 := by rw [List.length_map, hxs]
  have he : (e : Int) = encExp (xs.map encMag) := (encoded_exponent hxs h).1
  obtain ⟨e0, he0⟩ := Int.eq_ofNat_of_zero_le (encBase_nonneg (xs.map encMag))
  have hany : (xs.map encMag).any (fun v => rnd16 v.1 v.2 ((e0 : Int) - 126) == 65536) = true ↔
      ∃ i, i < 16 ∧ round ((e0 : Int) - 126) i = 65536 := by
    simp only [List.any_eq_true, beq_iff_eq, mem_iff_getD hl (d := (0, 0))]
    exact ⟨fun ⟨_, ⟨i, hi, hv⟩, hr⟩ => ⟨i, hi, by rw [hrnd _ i hi, hv, hr]⟩,
      fun ⟨i, hi, hr⟩ => ⟨_, ⟨i, hi, rfl⟩, by rw [← hrnd _ i hi, hr]⟩⟩
  simp only [encExp, he0, hany] at he
  refine ⟨e0, fun hz => ?_, fun p hsome hall => ?_, fun hlt hex => ?_, fun hor => ?_⟩
  · have := encBase_zero (((mem_mags hxs h fun x => x = 0).2).mpr hz)
    omega
  · rw [← he0]
    exact encBase_eq (((mem_mags hxs h fun x => 2 ^ p ≤ x).1).mpr hsome) (((mem_mags hxs h fun x => x < 2 ^ (p + 1)).2).mpr hall)
  · rw [if_pos ⟨by omega, hex⟩] at he
    omega
  · rw [if_neg] at he
    · omega
    · rintro ⟨hlt, i, hi, hr⟩
      exact hor.elim (fun hge => by omega) fun hnone => hnone i hi hr

/-- The micro-exponent of a pair by its two roundings (03 R66). -/
theorem encoded_mu (hxs : xs.length = 16) (h : ¬ ∃ i, i < 16 ∧ isFinite .f32 (xs.getD i 0) = false)
    (hrnd : ∀ sc i, i < 16 → round sc i = rnd16 ((xs.map encMag).getD i (0, 0)).1 ((xs.map encMag).getD i (0, 0)).2 sc)
    {j : Nat} (hj : j < 8) :
    let e := (pb16Encode xs).1.e.toNat % 256
    (pb16Encode xs).1.e.getLsbD (8 + j) = true ↔
      round ((e : Int) - 127) (2 * j) < 65536 ∧ round ((e : Int) - 127) (2 * j + 1) < 65536 := by
  intro e
  have hl : (xs.map encMag).length = 16 := by rw [List.length_map, hxs]
  obtain ⟨he, hmu⟩ := encoded_exponent hxs h
  rw [hmu j hj, List.getD_eq_getElem?_getD, encMus_getD (d := (0, 0)) hl hj, he, hrnd _ _ (by omega), hrnd _ _ (by omega)]
  simp

/-- The scale of element `i` as the planes give it. -/
theorem encoded_scale (hxs : xs.length = 16) (h : ¬ ∃ i, i < 16 ∧ isFinite .f32 (xs.getD i 0) = false) (hi : i < 16) :
    let e := (pb16Encode xs).1.e.toNat % 256
    (e : Int) - 126 - (if (pb16Encode xs).1.e.getLsbD (8 + i / 2) then 1 else 0) = encScale (xs.map encMag) i := by
  obtain ⟨he, hmu⟩ := encoded_exponent hxs h
  simp only [he, hmu (i / 2) (by omega), encScale]

end
end Sys2Proof.Machine
end

section
/-! The statements on number formats, settled. -/

open Sys2Proof Sys2Proof.Machine

/-- Settles O6: a mantissa cut to the format's precision goes to the place that the mode picks, and every operation hands the
rounding a mantissa that holds its exact result. -/
theorem floatArithmetic : Obligations.FloatArithmetic := by
  unfold Obligations.FloatArithmetic
  intro t mode ftz v exact zero inf signalling
  refine ⟨fun a b ha hb => ?_, fun src w => ?_, fun n nat w _ => ?_, fun w => ?_, fun i => ?_, fun a b => ?_, fpClass_eq⟩
  · obtain ⟨hadd, hadd0⟩ := fpAdd_finite (mode := mode) (ftz := ftz) ha hb
    obtain ⟨hsub, hsub0⟩ := fpSub_finite (mode := mode) (ftz := ftz) ha hb
    obtain ⟨hmul, hmul0⟩ := fpMul_finite (mode := mode) (ftz := ftz) ha hb
    obtain ⟨hdiv, hdivz, hzdiv⟩ := fpDiv_finite (mode := mode) (ftz := ftz) ha hb
    exact ⟨hadd, hadd0, hsub, hsub0, hmul, hmul0, fun c hc => (fpFma_finite ha hb hc).1, fun c hc => (fpFma_finite ha hb hc).2,
      hdiv, hdivz, hzdiv, fpSqrt_positive ha⟩
  · exact ⟨fun h => (convertFp_finite h).1, fun h => (convertFp_finite h).2, convertFp_inf, convertFp_nan⟩
  · refine ⟨fun h => ?_, fun h => ?_, fun h => fpToInt_finite h n nat⟩
    · simp only [fpToInt, fpValue_nan h]
    · simp only [fpToInt, fpValue_inf h, Nat.cast_pow, Nat.cast_ofNat]
  · exact ⟨fpRound_nan, fun h => h.elim fpRound_inf fun h => fpRound_zero h.1 h.2, fpRound_finite⟩
  · exact ⟨fun h => h ▸ rfl, intToFp_rounded⟩
  · intro place less nv
    have hnv : snanFlag t [a, b] = nv := snanFlag_two
    refine ⟨fun ha hb => ?_, fun ha hb => ?_, fun ha hb => ?_, fun ha hb => ?_⟩
    · simp [fpMinMax, ha, hb, hnv]
    · simp [fpMinMax, ha, hb, hnv]
    · simp [fpMinMax, ha, hb, hnv]
    · exact fpMinMax_numbers (Bool.not_eq_true _ ▸ ha) (Bool.not_eq_true _ ▸ hb)

/-- Settles O7: reads and encodings of a block by their mantissas, and the partial of a block by its products. -/
theorem blockArithmetic : Obligations.BlockArithmetic := by
  unfold Obligations.BlockArithmetic
  refine ⟨fun b i n mid _ hn => ?_, fun xs hxs => ?_, fun acc a b => ⟨rfl, fun n => ?_⟩⟩
  · exact ⟨pb16Read_special mid, pb16Read_finite mid hn⟩
  · intro x b flags e mu bit special a
    refine ⟨?_, fun i hi => ?_, fun h => ?_, fun round h hround => ?_⟩
    · exact pb16Encode_planes xs
    · exact (congrArg (BitVec.getLsbD · i) (pb16Encode_signs xs)).trans (getLsbD_plane hi (getElem?_eq_getD hxs hi))
    · have henc := pb16Encode_special ((special_any hxs).mp h)
      refine ⟨by simp only [e, b, henc]; rfl, by simp only [flags, henc], fun j hj => ?_, fun k i hk _ hi => ?_⟩
      · simp only [mu, b, henc]
        revert j
        decide
      · simp only [bit, b, henc, special_plane hxs hi]
        simp only [show k - 1 = 0 ↔ k = 1 by omega, show k - 1 = 1 ↔ k = 2 by omega, x]
    · intro scale f kept
      have hl : (xs.map encMag).length = 16 := by rw [List.length_map, hxs]
      have hrnd := fun sc i hi => round_eq_rnd16 (i := i) hxs h hround sc hi
      have hscale {i : Nat} (hi : i < 16) : scale i = encScale (xs.map encMag) i := encoded_scale hxs h hi
      have hf {i : Nat} (hi : i < 16) : f i = rnd16 ((xs.map encMag).getD i (0, 0)).1 ((xs.map encMag).getD i (0, 0)).2
          (encScale (xs.map encMag) i) := by simp only [f, hrnd _ i hi, hscale hi]
      have hkept {i : Nat} (hi : i < 16) : kept i = encFrac (xs.map encMag) (i, (xs.map encMag).getD i (0, 0)) := by
        simp only [kept, hf hi, encFrac_eq hl hi]
      obtain ⟨hof, hnx, hmask⟩ := encoded_flags hxs h
      refine ⟨encoded_shared hxs h hrnd, fun j hj => encoded_mu hxs h hrnd hj, fun k i hk1 hk hi => ?_, ?_, ?_, hmask⟩
      · rw [hkept hi, show 16 - k = 16 - (k - 1 + 1) by omega]
        exact encoded_bit hxs h (by omega) hi
      · exact hof.trans (exists_congr fun i => and_congr_right fun hi => by rw [hf hi])
      · exact hnx.trans (exists_congr fun i => and_congr_right fun hi => by rw [hkept hi, hscale hi, mags_getD hxs h hi])
  · intro before after block none nan infinite sum added finite
    refine ⟨mxeDot_nan acc, fun s hnone h => mxeDot_inf acc hnone h, fun hfin h0 => ?_, fun hfin h0 => ?_⟩
    · obtain ⟨m, e, hsum, hval⟩ := sum_blockProds hfin
      exact (mxeDot_succ acc a b n).trans (hsum ▸ dotStep_zero (hval.trans h0))
    · obtain ⟨m, e, hsum, hval⟩ := sum_blockProds hfin
      obtain ⟨w, hw, hadd⟩ := dotStep_fin (acc := before) (fun h => h0 (hval.symm.trans h))
      exact ⟨w, (congrArg (RoundedOnce .f32 .rn false · w) hval).mp hw, (mxeDot_succ acc a b n).trans (hsum ▸ hadd)⟩

end

section
/-! SUPPORT. Threads and teams under the shared operations: a team without its threads under what changes threads, threads
under what changes the rest of a team, and runs of operations on several threads (01 R23, 05 R108, R112). -/

namespace Sys2Proof.Machine

section
variable {s t : State} {r q : TRef} {n : Nat} {th : Thread} {tm : Team}

/-! ### A team without its threads -/

/-- What a team has beside its threads. -/
def Team.bare (t : Team) : Team := { t with threads := [] }

/-- The same of the team with a number. -/
def State.bareTeam (s : State) (n : Nat) : Option Team := (s.teams[n]?).map Team.bare

theorem bareTeam_modThread (r : TRef) (f : Thread → Thread) (n : Nat) : (s.modThread r f).bareTeam n = s.bareTeam n := by
  simp only [State.bareTeam, State.modThread, State.modTeam, List.getElem?_modify]
  cases s.teams[n]? <;> by_cases h : r.team = n <;> simp [h, Team.bare]

theorem bareTeam_of_teams (h : t.teams = s.teams) (n : Nat) : t.bareTeam n = s.bareTeam n := by rw [State.bareTeam, h]; rfl

theorem takeTrap_bareTeam (c : Cx) (e : Trap) (n : Nat) : (s.takeTrap c e).bareTeam n = s.bareTeam n :=
  (bareTeam_modThread _ _ n).trans (bareTeam_of_teams (postFault_stands e _ _ _).1 n)

/-- A team that keeps what it has beside its threads stands, with threads of its own. -/
theorem exists_team_of_bareTeam (h : t.bareTeam n = s.bareTeam n) (ht : s.teams[n]? = some tm) :
    ∃ u, t.teams[n]? = some u ∧ u.bare = tm.bare := by
  rw [State.bareTeam, State.bareTeam, ht, Option.map_some, Option.map_eq_some_iff] at h
  exact h

/-! ### Threads -/

theorem thread_of_team {tid : Nat} (ht : s.teams[n]? = some tm) : s.thread ⟨n, tid⟩ = tm.threads[tid]? := by
  simp only [State.thread, ht, Option.bind_some]

theorem modTeam_thread {f : Team → Team} (h : ∀ x, (f x).threads = x.threads) (q : TRef) :
    (s.modTeam n f).thread q = s.thread q := by
  simp only [State.thread, State.modTeam, List.getElem?_modify]
  cases s.teams[q.team]? <;> by_cases hn : n = q.team <;> simp [hn, h]

theorem modThreads_thread (f : Thread → Thread) (q : TRef) :
    (s.modThreads n f).thread q = if q.team = n then (s.thread q).map f else s.thread q := by
  simp only [State.thread, State.modThreads, State.modTeam, List.getElem?_modify]
  cases s.teams[q.team]? <;> by_cases hn : q.team = n <;> simp [hn, eq_comm (a := n)]

/-- A thread that stands has a view. -/
theorem viewOf_of_thread (h : s.thread r = some th) : ∃ c, s.viewOf r = some c ∧ c.r = r ∧ c.th = th := by
  obtain ⟨tm, ht, hth⟩ := thread_eq_some.mp h
  exact ⟨⟨r, tm, th, s.launch tm.seq⟩, viewOf_eq_some.mpr ⟨rfl, ht, hth, rfl⟩, rfl, rfl⟩

/-! ### Runs of operations -/

section
variable {α : Type} {g : State → α → State} {k : α → TRef}

/-- What every operation of a run keeps, the run keeps. -/
theorem foldl_keeps {β : Type} (p : State → β) (h : ∀ u x, p (g u x) = p u) (l : List α) (s : State) :
    p (l.foldl g s) = p s := by
  induction l generalizing s with
  | nil => rfl
  | cons x l ih => rw [List.foldl_cons, ih, h]

/-- A run of operations on single threads leaves every other thread. -/
theorem foldl_other (h : ∀ u x q, q ≠ k x → (g u x).thread q = u.thread q) {l : List α} (s : State)
    (hq : q ∉ l.map k) : (l.foldl g s).thread q = s.thread q := by
  induction l generalizing s with
  | nil => rfl
  | cons x l ih =>
    rw [List.map_cons, List.mem_cons, not_or] at hq
    rw [List.foldl_cons, ih _ hq.2, h _ _ _ hq.1]

/-- A run of operations on different threads does one operation on each. -/
theorem foldl_once (h : ∀ u x q, q ≠ k x → (g u x).thread q = u.thread q) {l : List α} (s : State)
    (hn : (l.map k).Nodup) {x : α} (hx : x ∈ l) :
    ∃ u, u.thread (k x) = s.thread (k x) ∧ (l.foldl g s).thread (k x) = (g u x).thread (k x) := by
  induction l generalizing s with
  | nil => cases hx
  | cons y l ih =>
    rw [List.map_cons, List.nodup_cons] at hn
    rw [List.foldl_cons]
    rcases List.mem_cons.mp hx with rfl | hx
    · exact ⟨s, rfl, foldl_other h _ hn.1⟩
    · obtain ⟨u, hu, hres⟩ := ih (g s y) hn.2 hx
      have hne : k x ≠ k y := fun e => hn.1 (e ▸ List.mem_map_of_mem hx)
      exact ⟨u, hu.trans (h _ _ _ hne), hres⟩

end

/-! ### A word that waits, and the state past a word (02 R43) -/

section
variable {c : Cx} {g : Guard} {f : Fields}

/-- A thread that waits for nothing. -/
theorem wait_of_acts {op fn : Nat} (h : Acts op fn g f s c) : c.th.wait = .none := by
  have hi := h.issues
  rw [Cx.canIssue, Bool.and_eq_true, beq_iff_eq] at hi
  exact hi.2

/-- A full word whose body waits. -/
theorem runFull_waits {op fn : Nat} {body : Cx → Eff} (h : Acts op fn g f s c) (hb : body c = .wait) :
    runFull op fn g f s body = .next s := by
  rw [runFull_acts h, hb]
  rfl

theorem past_self {u : State} {th : Thread} (h : u.thread c.r = some th) :
    (c.past u).thread c.r = some { th with pc := (nextWord c.th.pc false).getD 0, since := none } := modThread_self _ h

theorem past_other {u : State} {q : TRef} (h : q ≠ c.r) : (c.past u).thread q = u.thread q := modThread_other _ h

theorem Became.past {u : State} {th : Thread} (h : Became s u c.r th) :
    Became s (c.past u) c.r { th with pc := (nextWord c.th.pc false).getD 0, since := none } :=
  ⟨past_self h.thread, fun q hq => (past_other hq).trans (h.others q hq), h.mem⟩

end

/-! ### Threads that have not exited (05 R112) -/

theorem mem_alive : n ∈ tm.alive ↔ ∃ th, tm.threads[n]? = some th ∧ th.isOver = false := by
  simp only [Team.alive, List.mem_filter, List.mem_range]
  cases h : tm.threads[n]? with
  | none => simp
  | some th => simpa using fun _ => (List.getElem?_eq_some_iff.mp h).1

theorem mem_groupAlive {g : Nat} : n ∈ tm.groupAlive g ↔ n / 32 = g ∧ ∃ th, tm.threads[n]? = some th ∧ th.isOver = false := by
  simp only [Team.groupAlive, List.mem_filter, List.mem_range, Bool.and_eq_true, beq_iff_eq]
  cases h : tm.threads[n]? with
  | none => simp
  | some th => simpa using fun _ _ => (List.getElem?_eq_some_iff.mp h).1

theorem mem_barAlive {teams : List Nat} :
    r ∈ s.barAlive teams ↔ r.team ∈ teams ∧ ∃ th, s.thread r = some th ∧ th.isOver = false := by
  obtain ⟨n, tid⟩ := r
  simp only [State.barAlive, List.mem_flatMap, List.mem_map, TRef.mk.injEq]
  constructor
  · rintro ⟨m, hm, i, hi, rfl, rfl⟩
    cases ht : s.teams[m]? with
    | none => simp [ht] at hi
    | some tm => exact ⟨hm, by simpa [thread_of_team ht, ht, mem_alive] using hi⟩
  · rintro ⟨hm, th, hth, hover⟩
    obtain ⟨tm, ht, hget⟩ := thread_eq_some.mp hth
    exact ⟨n, hm, tid, by simpa [ht] using mem_alive.mpr ⟨th, hget, hover⟩, rfl, rfl⟩

end
end Sys2Proof.Machine
end

section
/-! SUPPORT. What a complete cross-thread instance gives an active member (06 R128-R131): the source lane of SHFL, the bits
of VOTE, and the left fold of GRED and GSCAN. -/

namespace Sys2Proof.Machine

theorem bitField_eq (x lo len : Nat) : bitField x lo len = x / 2 ^ lo % 2 ^ len := by
  rw [bitField, Nat.shiftRight_eq_div_pow]

theorem lowBits_eq (x : BitVec 10) (lo len : Nat) : lowBits x lo len = x.toNat / 2 ^ lo % 2 ^ len := bitField_eq _ _ _

theorem lowBits_zero (x : BitVec 10) (len : Nat) : lowBits x 0 len = x.toNat % 2 ^ len := by
  rw [lowBits_eq, pow_zero, Nat.div_one]

section
variable {act : List Arrival} {a b : Arrival} {th : Thread}

/-! ### Members of one lane group -/

theorem nodup_of_increasing (h : (act.map Arrival.tid).Pairwise (· < ·)) : (act.map Arrival.tid).Nodup :=
  h.imp ne_of_lt

/-- Two members of a lane group that stand at the same lane are one. -/
theorem eq_of_lane (h : (act.map Arrival.tid).Pairwise (· < ·)) (hg : ∀ x ∈ act, x.tid / 32 = a.tid / 32) {x : Arrival}
    (hx : x ∈ act) (hb : b ∈ act) (hl : x.tid % 32 = b.tid % 32) : x = b := by
  have hgx := hg x hx
  have hgb := hg b hb
  exact List.inj_on_of_nodup_map (nodup_of_increasing h) hx hb (by omega)

/-! ### SHFL (06 R128) -/

/-- The source lane, and when it is valid, by the control field, the member's own lane and its operand. -/
def shuffleSource (cc lane n : Nat) : Nat :=
  let base := lane - lane % 2 ^ (cc / 4 % 8)
  if cc % 4 = 0 then base + n else if cc % 4 = 1 then lane - n else if cc % 4 = 2 then lane + n else lane ^^^ n

def shuffleValid (cc lane n : Nat) : Prop :=
  let size := 2 ^ (cc / 4 % 8)
  let base := lane - lane % size
  if cc % 4 = 1 then n ≤ lane - base else if cc % 4 = 2 then lane + n < base + size else n < size

theorem shuffleLane_eq_some {f : Fields} {lane n src : Nat} : shuffleLane f lane n = some src ↔
    shuffleValid f.c.toNat lane n ∧ shuffleSource f.c.toNat lane n = src := by
  have hlt : f.c.toNat % 4 < 4 := Nat.mod_lt _ (by decide)
  have hmode : lowBits f.c 0 2 = f.c.toNat % 4 := lowBits_zero _ _
  have hsize : lowBits f.c 2 3 = f.c.toNat / 4 % 8 := lowBits_eq _ _ _
  simp only [shuffleLane, shuffleValid, shuffleSource, hmode, hsize]
  generalize f.c.toNat % 4 = mode at hlt
  match mode, hlt with
  | 0, _ => simp
  | 1, _ => simp
  | 2, _ => simp
  | 3, _ => simp

/-- A member at the source lane gives its value. -/
theorem shuffleFrom_eq (hb : b ∈ act) (hone : ∀ x ∈ act, x.tid % 32 = b.tid % 32 → x = b)
    (hl : shuffleLane a.fields (a.tid % 32) a.lane.toNat = some (b.tid % 32)) : shuffleFrom act a = b := by
  simp only [shuffleFrom, hl]
  cases hf : act.find? fun x => x.tid % 32 == b.tid % 32 with
  | none => exact absurd (List.find?_eq_none.mp hf b hb) (by simp)
  | some x => exact hone x (List.mem_of_find?_eq_some hf) (by simpa using List.find?_some hf)

/-- Without a valid source lane, or with no active member there, a member keeps its own value. -/
theorem shuffleFrom_self
    (h : ∀ src, shuffleLane a.fields (a.tid % 32) a.lane.toNat = some src → ∀ x ∈ act, x.tid % 32 ≠ src) :
    shuffleFrom act a = a := by
  rw [shuffleFrom]
  cases hl : shuffleLane a.fields (a.tid % 32) a.lane.toNat with
  | none => rfl
  | some src =>
    have hf : act.find? (fun x => x.tid % 32 == src) = none := by simpa using h src hl
    simp only [hf, Option.getD_none]

/-! ### VOTE (06 R129) and ELECT (06 R130) -/

theorem foldl_add_eq_sum (l : List Arrival) (n : Nat) :
    l.foldl (fun n b => n + 2 ^ (b.tid % 32)) n = n + ((l.map fun b => b.tid % 32).map (2 ^ ·)).sum := by
  induction l generalizing n with
  | nil => rfl
  | cons x l ih => rw [List.foldl_cons, ih, List.map_cons, List.map_cons, List.sum_cons, Nat.add_assoc]

/-- The lanes of members of one group grow with their TIDs. -/
theorem lanes_increasing (h : (act.map Arrival.tid).Pairwise (· < ·)) (hg : ∀ x ∈ act, x.tid / 32 = a.tid / 32) :
    (act.map fun x => x.tid % 32).Pairwise (· < ·) := by
  rw [List.pairwise_map] at h ⊢
  refine h.imp_of_mem fun {x y} hx hy hlt => ?_
  have hgx := hg x hx
  have hgy := hg y hy
  omega

/-- The ballot has a bit for the lane of each member whose predicate bit is one. -/
theorem ballot_testBit (h : (act.map Arrival.tid).Pairwise (· < ·)) (hg : ∀ x ∈ act, x.tid / 32 = a.tid / 32) (l : Nat) :
    ((act.filter Arrival.bit).foldl (fun n (b : Arrival) => n + 2 ^ (b.tid % 32)) 0).testBit l = true ↔
      ∃ x ∈ act, x.tid % 32 = l ∧ x.bit = true := by
  have hsub : ((act.filter Arrival.bit).map Arrival.tid).Pairwise (· < ·) := h.sublist (List.filter_sublist.map _)
  have hinc := lanes_increasing hsub fun x hx => hg x (List.mem_of_mem_filter hx)
  rw [foldl_add_eq_sum, Nat.zero_add, ← Nat.mem_bitIndices, Nat.bitIndices_sum_map_two_pow hinc.sortedLT, List.mem_map]
  exact exists_congr fun x => by rw [List.mem_filter]; tauto

theorem all_equal_bits (ha : a ∈ act) : (act.all (·.bit) || act.all fun b => !b.bit) = true ↔ ∀ b ∈ act, b.bit = a.bit := by
  simp only [Bool.or_eq_true, List.all_eq_true, Bool.not_eq_true']
  constructor
  · rintro (h | h) b hb
    · rw [h b hb, h a ha]
    · rw [h b hb, h a ha]
  · intro h
    cases hbit : a.bit with
    | true => exact .inl fun b hb => (h b hb).trans hbit
    | false => exact .inr fun b hb => (h b hb).trans hbit

/-- The first of the members has the least TID. -/
theorem head_is_least (h : (act.map Arrival.tid).Pairwise (· < ·)) (ha : a ∈ act) :
    (act.head?.any fun b => b.tid == a.tid) = true ↔ ∀ b ∈ act, a.tid ≤ b.tid := by
  cases act with
  | nil => cases ha
  | cons x l =>
    rw [List.map_cons, List.pairwise_cons] at h
    have hleast (b : Arrival) (hb : b ∈ x :: l) : x.tid ≤ b.tid := by
      rcases List.mem_cons.mp hb with rfl | hb
      · exact le_rfl
      · exact (h.1 _ (List.mem_map_of_mem hb)).le
    simp only [List.head?_cons, Option.any_some, beq_iff_eq]
    exact ⟨fun e b hb => e ▸ hleast b hb, fun hall => le_antisymm (hleast a ha) (hall x List.mem_cons_self)⟩

/-! ### GRED and GSCAN (06 R131) -/

/-- The left fold of the members' values with the flags it raises, begun at a value with flags. -/
def foldFrom (op : Nat) (nat : Bool) (x : W32 × FpFlags) (l : List Arrival) : W32 × FpFlags :=
  l.foldl (fun x b => ((foldOp op nat x.1 b.val).1, x.2 ||| (foldOp op nat x.1 b.val).2)) x

theorem foldGroup_total (op : Nat) (nat : Bool) (l : List Arrival) (acc : W32) (fl : FpFlags) :
    (foldGroup op nat l acc fl).2 = foldFrom op nat (acc, fl) l := by
  induction l generalizing acc fl with
  | nil => rfl
  | cons x l ih => exact ih _ _

/-- The entry of a member holds the value before it and the value with it. -/
theorem foldGroup_entry (op : Nat) (nat : Bool) {before : List Arrival} (after : List Arrival) (acc : W32) (fl : FpFlags)
    (h : ∀ x ∈ before, x.tid ≠ a.tid) : (foldGroup op nat (before ++ a :: after) acc fl).1.find? (fun e => e.1 == a.tid) =
      some (a.tid, (foldFrom op nat (acc, fl) before).1, (foldFrom op nat (acc, fl) (before ++ [a])).1) := by
  induction before generalizing acc fl with
  | nil => simp [foldGroup, foldFrom]
  | cons x before ih =>
    rw [List.forall_mem_cons] at h
    rw [List.cons_append, foldGroup, List.find?_cons_of_neg (by simpa using h.1), ih _ _ h.2]
    rfl

/-- Which of two numbers is the lesser, by their patterns. -/
theorem sv_le_iff (nat : Bool) (x y : W32) : sv nat x ≤ sv nat y ↔ (if nat then x.ule y else x.sle y) = true := by
  cases nat with
  | true => simp [sv, BitVec.ule]
  | false => simp [sv, BitVec.sle]

theorem foldOf_eq (act : List Arrival) (f : Fields) : foldOf act f =
    foldGroup (f.c.toNat % 16) f.isN act (foldIdentity (f.c.toNat % 16) f.isN) 0 := by
  have hop : lowBits f.c 0 4 = f.c.toNat % 16 := lowBits_zero _ _
  rw [foldOf, hop]

/-! ### What the member writes -/

/-- SHFL moves the value of the source member, the planes it was read from with it. -/
theorem crossWrite_shfl (h : a.fn = 0) : crossWrite act a th =
    th.putV a.fields.d.toNat (shuffleFrom act a).val (shuffleFrom act a).tag.moved := by
  simp only [crossWrite, h]

/-- VOTE answers in a predicate, or with the ballot. -/
theorem crossWrite_vote (h : a.fn = 1) :
    let d := a.fields.d.toNat
    let mode := a.fields.c.toNat % 4
    (mode = 0 → crossWrite act a th = th.setP d (act.all Arrival.bit)) ∧
    (mode = 1 → crossWrite act a th = th.setP d (act.any Arrival.bit)) ∧
    (mode = 2 → crossWrite act a th = th.setP d (act.all Arrival.bit || act.all fun b => !b.bit)) ∧
    (mode = 3 → crossWrite act a th = th.setV d
      (BitVec.ofNat 32 ((act.filter Arrival.bit).foldl (fun n (b : Arrival) => n + 2 ^ (b.tid % 32)) 0))) := by
  have hmode : lowBits a.fields.c 0 2 = a.fields.c.toNat % 4 := lowBits_zero _ _
  refine ⟨fun hm => ?_, fun hm => ?_, fun hm => ?_, fun hm => ?_⟩ <;> simp only [crossWrite, h, hmode, hm]

theorem crossWrite_gred (h : a.fn = 2) : crossWrite act a th = th.setV a.fields.d.toNat (foldOf act a.fields).2.1 := by
  simp only [crossWrite, h]

/-- GSCAN gives a member the value with it, or in the exclusive form the value before it. -/
theorem crossWrite_gscan (h : a.fn = 3) {e : Nat × W32 × W32}
    (he : (foldOf act a.fields).1.find? (fun e => e.1 == a.tid) = some e) : crossWrite act a th =
      th.setV a.fields.d.toNat (if a.fields.c.toNat / 16 % 2 = 1 then e.2.1 else e.2.2) := by
  have hex : lowBits a.fields.c 4 1 = a.fields.c.toNat / 16 % 2 := lowBits_eq _ _ _
  simp only [crossWrite, h, he, hex]

theorem crossWrite_elect (h : a.fn = 4) : crossWrite act a th =
    th.setP a.fields.d.toNat (act.head?.any fun b => b.tid == a.tid) := by
  simp only [crossWrite, h]

end
end Sys2Proof.Machine
end

section
/-! What a complete instance writes, settled. -/

open Sys2Proof Sys2Proof.Machine

/-- Settles O26: members of one lane group stand at different lanes, and GRED and GSCAN read one left fold. -/
theorem crossValues : Obligations.CrossValues := by
  unfold Obligations.CrossValues
  intro act a th ha hinc hsame d cc writes answers nat unflagged step identity fold
  have hgroup (x) (hx : x ∈ act) : x.tid / 32 = a.tid / 32 := (hsame x hx).1
  have hmove (w : W32) (tg : Tag) (h : crossWrite act a th = th.putV d w tg.moved) : writes w := ⟨tg.moved, rfl, rfl, rfl, h⟩
  have hset (w : W32) (h : crossWrite act a th = th.setV d w) : writes w := ⟨{}, rfl, rfl, rfl, h⟩
  have hstep : step = foldOp (cc % 16) nat := by
    funext acc x
    simp only [step, unflagged, ← sv_le_iff]
    rcases cc % 16 with _ | _ | _ | _ | _ | _ | _ | _ | n <;> rfl
  have hidentity : identity = foldIdentity (cc % 16) nat := rfl
  have hfold (l : List Arrival) : fold l = foldFrom (cc % 16) nat (foldIdentity (cc % 16) nat, 0) l := by
    simp only [fold, hstep, hidentity]
    rfl
  have htotal : (foldOf act a.fields).2 = fold act := by rw [foldOf_eq, foldGroup_total, hfold]
  refine ⟨fun hfn => ?_, fun hfn => ?_, fun hfn => ?_, fun hfn before after hact => ?_, fun hfn => ?_, fun hfn => ?_⟩
  · intro lane size base n src valid
    have hlane {y : Nat} : shuffleLane a.fields (a.tid % 32) a.lane.toNat = some y ↔ valid ∧ src = y := shuffleLane_eq_some
    refine ⟨fun b hb hvalid hsrc => ?_, fun hnone => ?_⟩
    · have hfrom := shuffleFrom_eq hb (fun x hx hl => eq_of_lane hinc hgroup hx hb hl) (hlane.mpr ⟨hvalid, hsrc.symm⟩)
      exact hmove _ b.tag (by rw [crossWrite_shfl hfn, hfrom])
    · have hself := shuffleFrom_self (act := act) fun y hy x hx => (hlane.mp hy).2 ▸ hnone x hx (hlane.mp hy).1
      exact hmove _ a.tag (by rw [crossWrite_shfl hfn, hself])
  · obtain ⟨hall, hany, hequal, hballot⟩ := crossWrite_vote (act := act) (th := th) hfn
    refine ⟨fun hm => ⟨_, hall hm, List.all_eq_true⟩, fun hm => ⟨_, hany hm, List.any_eq_true⟩,
      fun hm => ⟨_, hequal hm, all_equal_bits ha⟩, fun hm => ⟨_, hset _ (hballot hm), fun l hl => ?_⟩⟩
    rw [BitVec.getLsbD_ofNat, decide_eq_true hl, Bool.true_and, ballot_testBit hinc hgroup]
  · exact hset _ (by rw [crossWrite_gred hfn, htotal])
  · have hbefore (x) (hx : x ∈ before) : x.tid ≠ a.tid := by
      rw [hact, List.map_append, List.pairwise_append] at hinc
      exact (hinc.2.2 _ (List.mem_map_of_mem hx) _ (List.mem_map_of_mem List.mem_cons_self)).ne
    have hentry := foldGroup_entry (cc % 16) nat after (foldIdentity (cc % 16) nat) 0 hbefore
    rw [← hact, ← hfold, ← hfold] at hentry
    exact hset _ (crossWrite_gscan hfn (by rw [foldOf_eq]; exact hentry))
  · exact ⟨_, crossWrite_elect hfn, head_is_least hinc ha⟩
  · cases act with
    | nil => cases ha
    | cons x l =>
      obtain ⟨-, hxfn, hxc, hxmod⟩ := hsame x List.mem_cons_self
      have hfields : foldOf (x :: l) x.fields = foldOf (x :: l) a.fields := by
        simp only [foldOf, Fields.isN, hxc, hxmod]
      rw [crossFlags, if_pos (by rwa [hxfn]), hfields, htotal]

end

section
/-! SUPPORT. Cross-thread instances (06 R122-R125): what settling leaves where no other instance is settled, what a raise of
COLLECTIVE leaves, and the four ways in which an arrival ends. -/

namespace Sys2Proof.Machine

section
variable {s u : State} {c : Cx} {r q : TRef} {th : Thread} {tm : Team} {n team : Nat} {i j : Instance} {a b : Arrival}

/-! ### Keys -/

/-- The keys of two arrivals agree as 06 R125 and R127 say. -/
theorem sameKey_iff : a.sameKey b = true ↔
    b.op = a.op ∧ b.fn = a.fn ∧ b.fields.mod = a.fields.mod ∧ crossControl a.fn b.fields = crossControl a.fn a.fields := by
  simp only [Arrival.sameKey, Arrival.sameOp, Bool.and_eq_true, beq_iff_eq]
  constructor
  · rintro ⟨⟨⟨hop, hfn⟩, hmod⟩, hcontrol⟩
    exact ⟨hop.symm, hfn.symm, hmod.symm, by rw [hcontrol, hfn]⟩
  · rintro ⟨hop, hfn, hmod, hcontrol⟩
    exact ⟨⟨⟨hop.symm, hfn.symm⟩, hmod.symm⟩, by rw [hfn, hcontrol]⟩

theorem sameOp_iff : a.sameOp b = true ↔ b.op = a.op ∧ b.fn = a.fn := by
  simp only [Arrival.sameOp, Bool.and_eq_true, beq_iff_eq]
  exact and_congr eq_comm eq_comm

theorem mem_insertArrival {l : List Arrival} : b ∈ insertArrival a l ↔ b = a ∨ b ∈ l := by
  induction l with
  | nil => simp [insertArrival]
  | cons x l ih =>
    rw [insertArrival]
    split
    · simp
    · rw [List.mem_cons, ih, List.mem_cons]
      tauto

/-- The members after an arrival: those before it and the newcomer. -/
theorem mem_tids_insertArrival {l : List Arrival} :
    n ∈ (insertArrival a l).map Arrival.tid ↔ n ∈ l.map Arrival.tid ++ [a.tid] := by
  simp only [List.mem_map, mem_insertArrival, List.mem_append, List.mem_singleton]
  constructor
  · rintro ⟨x, rfl | hx, rfl⟩
    · exact .inr rfl
    · exact .inl ⟨x, hx, rfl⟩
  · rintro (⟨x, hx, rfl⟩ | rfl)
    · exact ⟨x, .inr hx, rfl⟩
    · exact ⟨a, .inl rfl, rfl⟩

theorem insertArrival_perm (a : Arrival) (l : List Arrival) : (insertArrival a l).Perm (l ++ [a]) := by
  induction l with
  | nil => exact List.Perm.refl _
  | cons x l ih =>
    rw [insertArrival]
    split
    · exact List.perm_append_comm (l₁ := [a])
    · exact ih.cons x

/-! ### Settling -/

/-- A member that has not exited is missing: it has not raised from a failed instance, or not arrived at another. -/
def Team.unsettled (t : Team) (j : Instance) : Prop :=
  ∃ n ∈ t.groupAlive j.group, n ∉ (if j.failed.isSome then j.raised else j.arrivals.map Arrival.tid)

/-- A team whose members that have not exited are among those of another has its instances settled at most where that one
has. -/
theorem Team.unsettled.mono {t t' : Team} (h : t.unsettled j)
    (hlive : ∀ (n : Nat) (th : Thread), t.threads[n]? = some th → th.isOver = false →
      ∃ th' : Thread, t'.threads[n]? = some th' ∧ th'.isOver = false) :
    t'.unsettled j := by
  obtain ⟨n, hn, hmissing⟩ := h
  obtain ⟨hg, th, hth, hover⟩ := mem_groupAlive.mp hn
  exact ⟨n, mem_groupAlive.mpr ⟨hg, hlive n th hth hover⟩, hmissing⟩

theorem settleInstance_unsettled (ht : s.teams[team]? = some tm) (h : tm.unsettled j) : settleInstance s team j = s := by
  obtain ⟨n, hn, hmissing⟩ := h
  simp only [settleInstance, ht]
  cases hf : j.failed with
  | some sub =>
    rw [hf, Option.isSome_some, if_pos rfl] at hmissing
    exact if_neg fun hall => hmissing (by simpa using List.all_eq_true.mp hall n hn)
  | none =>
    rw [hf, Option.isSome_none, if_neg (by decide)] at hmissing
    refine if_neg fun hall => hmissing ?_
    simpa using List.all_eq_true.mp ((Bool.and_eq_true _ _).mp hall).2 n hn

theorem foldl_settle_unsettled (ht : s.teams[team]? = some tm) {l : List Instance} (h : ∀ j ∈ l, tm.unsettled j) :
    l.foldl (fun u i => settleInstance u team i) s = s := by
  induction l with
  | nil => rfl
  | cons x l ih =>
    rw [List.forall_mem_cons] at h
    rw [List.foldl_cons, settleInstance_unsettled ht h.1, ih h.2]

/-- Where only the first instance may be settled, settling the team settles it. -/
theorem settleCross_first {l : List Instance} {v : State} {tv : Team} (ht : s.teams[team]? = some tm)
    (hl : tm.instances = i :: l) (hv : settleInstance s team i = v) (htv : v.teams[team]? = some tv)
    (h : ∀ j ∈ l, tv.unsettled j) : settleCross s team = v := by
  simp only [settleCross, ht, hl, List.foldl_cons, hv]
  exact foldl_settle_unsettled htv h

/-- An instance taken from the list of its team. -/
def dropInstance (s : State) (team : Nat) (i : Instance) : State :=
  s.modTeam team fun x => { x with instances := x.instances.filter fun j => !(j.group == i.group && j.count == i.count) }

theorem dropInstance_thread (q : TRef) : (dropInstance s team i).thread q = s.thread q := modTeam_thread (fun _ => by rfl) q

theorem dropInstance_team (ht : s.teams[team]? = some tm) : (dropInstance s team i).teams[team]? = some { tm with
    instances := tm.instances.filter fun j => !(j.group == i.group && j.count == i.count) } := modTeam_self _ ht

/-- A failed instance stands until every member has raised; settling it changes no thread and no memory. -/
theorem settleInstance_failed {sub : Nat} (ht : s.teams[team]? = some tm) (hf : i.failed = some sub) :
    settleInstance s team i = dropInstance s team i ∨ settleInstance s team i = s := by
  simp only [settleInstance, ht, hf]
  split
  · exact .inl rfl
  · exact .inr rfl

/-- An instance at which all have arrived completes. -/
theorem settleInstance_complete (ht : s.teams[team]? = some tm) (hf : i.failed = none) (hne : i.arrivals ≠ [])
    (hall : ∀ n ∈ tm.groupAlive i.group, n ∈ i.arrivals.map Arrival.tid) :
    settleInstance s team i = completeInstance (dropInstance s team i) team i := by
  simp only [settleInstance, ht, hf]
  refine if_pos ?_
  rw [Bool.and_eq_true, List.all_eq_true]
  exact ⟨by simpa using hne, fun n hn => by simpa using hall n hn⟩

/-- Settling a team whose first instance has failed, where no other is settled. -/
theorem settleCross_failed {l : List Instance} {sub : Nat} (ht : s.teams[team]? = some tm) (hl : tm.instances = i :: l)
    (hf : i.failed = some sub) (h : ∀ j ∈ l, tm.unsettled j) :
    (settleCross s team).mem = s.mem ∧ ∀ q, (settleCross s team).thread q = s.thread q := by
  rcases settleInstance_failed ht hf with hv | hv
  · rw [settleCross_first ht hl hv (dropInstance_team ht) h]
    exact ⟨rfl, fun q => dropInstance_thread q⟩
  · rw [settleCross_first ht hl hv ht h]
    exact ⟨rfl, fun _ => rfl⟩

/-! ### COLLECTIVE -/

/-- The thread as it stands after raising COLLECTIVE at its word. -/
def Thread.raised (th : Thread) (sub fid : Nat) : Thread :=
  { th with trapCause := BitVec.ofNat 64 (9 + 256 * sub), trapPc := th.pc, trapVa := 0, run := .faulted fid,
            wait := .none, since := none }

theorem raiseCollective_quiet (sub : Nat) (h : s.thread r = some th) (hq : th.quiet = true) :
    ∃ fid, (raiseCollective sub s r).thread r = some (th.raised sub fid) := by
  obtain ⟨c, hv, rfl, rfl⟩ := viewOf_of_thread h
  simp only [raiseCollective, hv, hq, if_true]
  exact takeTrap_self _ h

theorem raiseCollective_waiting (sub : Nat) (h : s.thread r = some th) (hq : th.quiet = false) :
    (raiseCollective sub s r).thread r = some { th with wait := .none } := by
  obtain ⟨c, hv, rfl, rfl⟩ := viewOf_of_thread h
  simp only [raiseCollective, hv, hq, Bool.false_eq_true, if_false]
  exact modThread_self _ h

theorem raiseCollective_other (sub : Nat) (s : State) (r q : TRef) (h : q ≠ r) :
    (raiseCollective sub s r).thread q = s.thread q := by
  unfold raiseCollective
  cases hv : s.viewOf r with
  | none => rfl
  | some c =>
    obtain ⟨rfl, -⟩ := viewOf_eq_some.mp hv
    dsimp only
    split
    · exact takeTrap_other _ h
    · exact modThread_other _ h

theorem raiseCollective_mem (sub : Nat) (s : State) (r : TRef) : (raiseCollective sub s r).mem = s.mem := by
  unfold raiseCollective
  cases s.viewOf r with
  | none => rfl
  | some c =>
    dsimp only
    split
    · exact takeTrap_mem _
    · rfl

theorem raiseCollective_bareTeam (sub : Nat) (s : State) (r : TRef) (n : Nat) :
    (raiseCollective sub s r).bareTeam n = s.bareTeam n := by
  unfold raiseCollective
  cases s.viewOf r with
  | none => rfl
  | some c =>
    dsimp only
    split
    · exact takeTrap_bareTeam _ _ _
    · exact bareTeam_modThread _ _ _

/-- A thread that has not exited has not exited after COLLECTIVE was raised, by it or by another. -/
theorem raiseCollective_live (sub : Nat) (h : s.thread q = some th) (hover : th.isOver = false) :
    ∃ th', (raiseCollective sub s r).thread q = some th' ∧ th'.isOver = false := by
  by_cases hqr : q = r
  · subst hqr
    cases hq : th.quiet with
    | true =>
      obtain ⟨fid, hraised⟩ := raiseCollective_quiet sub h hq
      exact ⟨_, hraised, by simp_all [Thread.isOver, Thread.raised]⟩
    | false => exact ⟨_, raiseCollective_waiting sub h hq, hover⟩
  · exact ⟨th, (raiseCollective_other sub s r q hqr).trans h, hover⟩

theorem foldl_raise_live (sub : Nat) {l : List TRef} (h : s.thread q = some th) (hover : th.isOver = false) :
    ∃ th', (l.foldl (raiseCollective sub) s).thread q = some th' ∧ th'.isOver = false := by
  induction l generalizing s th with
  | nil => exact ⟨th, h, hover⟩
  | cons x l ih =>
    obtain ⟨th', h', hover'⟩ := raiseCollective_live (r := x) sub h hover
    exact ih h' hover'

/-- Members raise COLLECTIVE one after another from a failed instance, the first of its team, where no other instance is
settled: each at its own word, or when it comes to its word again (01 R23). -/
theorem settle_raised {l : List Instance} {sub : Nat} {members : List TRef} (ht : s.teams[team]? = some tm)
    (hl : tm.instances = i :: l) (hf : i.failed = some sub) (h : ∀ j ∈ l, tm.unsettled j) (hn : members.Nodup) :
    let t := settleCross (members.foldl (raiseCollective sub) s) team
    t.mem = s.mem ∧ (∀ q, q ∉ members → t.thread q = s.thread q) ∧
    ∀ q ∈ members, ∀ th, s.thread q = some th →
      (th.quiet = true → ∃ fid, t.thread q = some (th.raised sub fid)) ∧
      (th.quiet = false → t.thread q = some { th with wait := .none }) := by
  have hmap : members.map id = members := List.map_id _
  have hothers (u : State) (x q : TRef) (hne : q ≠ id x) := raiseCollective_other sub u x q hne
  obtain ⟨tu, htu, hbare⟩ := exists_team_of_bareTeam
    (foldl_keeps (fun u => u.bareTeam team) (fun u x => raiseCollective_bareTeam sub u x team) members s) ht
  have hinst : tu.instances = i :: l := (congrArg Team.instances hbare :).trans hl
  have hlive (n : Nat) (th : Thread) (hth : tm.threads[n]? = some th) (hover : th.isOver = false) :
      ∃ th', tu.threads[n]? = some th' ∧ th'.isOver = false := by
    rw [← thread_of_team htu]
    exact foldl_raise_live sub ((thread_of_team ht).trans hth) hover
  obtain ⟨hmem, hthreads⟩ := settleCross_failed htu hinst hf fun j hj => (h j hj).mono hlive
  refine ⟨?_, fun q hq => ?_, fun q hq th hth => ?_⟩
  · exact hmem.trans (foldl_keeps State.mem (fun u x => raiseCollective_mem sub u x) members s)
  · exact (hthreads q).trans (foldl_other hothers s (by rwa [hmap]))
  · obtain ⟨u, hu, hres⟩ := foldl_once hothers s (by rwa [hmap]) hq
    rw [hthreads, show (members.foldl (raiseCollective sub) s).thread q = _ from hres]
    have hself : u.thread q = some th := hu.trans hth
    exact ⟨raiseCollective_quiet sub hself, raiseCollective_waiting sub hself⟩

/-! ### Completion -/

/-- What a complete instance writes in a member does not depend on what the member waits for, and is no more than registers
(06 R128-R131). -/
theorem crossWrite_registers (act : List Arrival) (a : Arrival) (th : Thread) :
    ∃ v tags p flaws, ∀ w : Wait, crossWrite act a { th with wait := w } =
      { th with wait := w, v := v, tags := tags, p := p, flaws := flaws } := by
  have hput (n : Nat) (x : W32) (tg : Tag) : ∃ v tags p flaws, ∀ w : Wait, Thread.putV { th with wait := w } n x tg =
      { th with wait := w, v := v, tags := tags, p := p, flaws := flaws } :=
    ⟨th.v.set n x, th.tags.set n tg, th.p, th.flaws.filter fun y => y.1 != n, fun _ => rfl⟩
  have hpred (n : Nat) (x : Bool) : ∃ v tags p flaws, ∀ w : Wait, Thread.setP { th with wait := w } n x =
      { th with wait := w, v := v, tags := tags, p := p, flaws := flaws } := by
    refine ⟨th.v, th.tags, (th.setP n x).p, th.flaws, fun w => ?_⟩
    by_cases h : n < 7
    · simp only [Thread.setP, if_pos h]
    · simp only [Thread.setP, if_neg h]
  unfold crossWrite
  dsimp only
  split
  · exact hput _ _ _
  · split
    · exact hpred _ _
    · exact hpred _ _
    · exact hpred _ _
    · exact hput _ _ _
  · exact hput _ _ _
  · split
    · exact hput _ _ _
    · exact ⟨th.v, th.tags, th.p, th.flaws, fun _ => rfl⟩
  · exact hpred _ _

/-- A member of a complete instance: its result, past its word, at the next instance (06 R123, R124). -/
def Thread.crossed (th : Thread) (act : List Arrival) (a : Arrival) : Thread :=
  { (if a.active then crossWrite act a th else th) with
    pc := (nextWord th.pc false).getD 0
    wait := .none
    since := none
    xseq := th.xseq + 1 }

/-- The same from a thread that waits at the instance. -/
theorem advance_crossWrite (act : List Arrival) (a : Arrival) (th : Thread) (w : Wait) :
    { (if a.active then crossWrite act a { th with wait := w } else { th with wait := w }).advance with
      xseq := th.xseq + 1 } = th.crossed act a := by
  obtain ⟨v, tags, p, flaws, h⟩ := crossWrite_registers act a th
  have hown := h th.wait
  unfold Thread.crossed
  cases a.active with
  | true =>
    simp only [if_true, h w]
    rw [show crossWrite act a th = _ from hown]
    rfl
  | false => rfl

theorem crossed_isOver (act : List Arrival) (a : Arrival) (th : Thread) : (th.crossed act a).isOver = th.isOver := by
  obtain ⟨v, tags, p, flaws, h⟩ := crossWrite_registers act a th
  unfold Thread.crossed
  cases a.active with
  | true =>
    rw [if_pos rfl, show crossWrite act a th = _ from h th.wait]
    rfl
  | false => rfl

/-- What a complete instance leaves: each member with its result, the flags in FPST, all else as before. -/
theorem completeInstance_spec (ht : s.teams[team]? = some tm) (hn : (i.arrivals.map Arrival.tid).Nodup) :
    let act := i.arrivals.filter (·.active)
    let t := completeInstance s team i
    t.mem = s.mem ∧
    (∃ u, t.teams[team]? = some u ∧ u.bare = { tm with fpst := tm.fpst ||| crossFlags act }.bare) ∧
    (∀ a ∈ i.arrivals, ∀ th, s.thread ⟨team, a.tid⟩ = some th → t.thread ⟨team, a.tid⟩ = some (th.crossed act a)) ∧
    ∀ q, (∀ n ∈ i.arrivals.map Arrival.tid, q ≠ ⟨team, n⟩) → t.thread q = s.thread q := by
  intro act t
  let g (u : State) (a : Arrival) : State := u.modThread ⟨team, a.tid⟩ fun th =>
    { (if a.active then crossWrite act a th else th).advance with xseq := th.xseq + 1 }
  let k (a : Arrival) : TRef := ⟨team, a.tid⟩
  have ht' : t = (i.arrivals.foldl g s).modTeam team fun tm => { tm with fpst := tm.fpst ||| crossFlags act } := rfl
  have hothers (u : State) (x : Arrival) (q : TRef) (hne : q ≠ k x) : (g u x).thread q = u.thread q :=
    modThread_other _ hne
  have hthread (q : TRef) : t.thread q = (i.arrivals.foldl g s).thread q := modTeam_thread (fun _ => by rfl) q
  have hk : i.arrivals.map k = (i.arrivals.map Arrival.tid).map fun n => ⟨team, n⟩ := (List.map_map).symm
  obtain ⟨tu, htu, hbare⟩ := exists_team_of_bareTeam
    (foldl_keeps (fun u => u.bareTeam team) (fun u x => bareTeam_modThread _ _ team) i.arrivals s) ht
  refine ⟨?_, ⟨_, modTeam_self _ htu, ?_⟩, fun a ha th hth => ?_, fun q hq => ?_⟩
  · exact foldl_keeps (g := g) State.mem (fun _ _ => rfl) i.arrivals s
  · have hfpst : tu.fpst = tm.fpst := (congrArg Team.fpst hbare :)
    rw [hfpst]
    exact congrArg (fun x : Team => { x with fpst := tm.fpst ||| crossFlags act }) hbare
  · have hnodup : (i.arrivals.map k).Nodup := by
      rw [hk]
      exact hn.map fun x y h => (TRef.mk.inj h).2
    obtain ⟨u, hu, hres⟩ := foldl_once hothers s hnodup ha
    rw [hthread, show (i.arrivals.foldl g s).thread ⟨team, a.tid⟩ = _ from hres]
    rw [show (g u a).thread (k a) = _ from modThread_self _ (hu.trans hth)]
    exact congrArg some (advance_crossWrite act a th th.wait)
  · rw [hthread]
    refine foldl_other hothers s ?_
    rw [hk, List.mem_map]
    rintro ⟨n, hmem, rfl⟩
    exact hq n hmem rfl

/-! ### Arrivals -/

/-- The instance of a thread's lane group at its count. -/
def Cx.hasInstance (c : Cx) (j : Instance) : Bool := j.group == c.r.tid / 32 && j.count == c.th.xseq

/-- The instance to which the thread comes: that of its group at its count, or a new one. -/
def Cx.crossInstance (c : Cx) : Instance :=
  (c.t.instances.find? c.hasInstance).getD { group := c.r.tid / 32, count := c.th.xseq }

theorem hasInstance_iff : c.hasInstance j = true ↔ j.group = c.r.tid / 32 ∧ j.count = c.th.xseq := by
  rw [Cx.hasInstance, Bool.and_eq_true, beq_iff_eq, beq_iff_eq]

/-- It is of the thread's group at the thread's count. -/
theorem crossInstance_place (c : Cx) : c.crossInstance.group = c.r.tid / 32 ∧ c.crossInstance.count = c.th.xseq := by
  rw [Cx.crossInstance]
  cases h : c.t.instances.find? c.hasInstance with
  | none => exact ⟨rfl, rfl⟩
  | some j => exact hasInstance_iff.mp (List.find?_some h)

theorem putInstance_thread (q : TRef) : (putInstance s team i).thread q = s.thread q := modTeam_thread (fun _ => by rfl) q

/-- The instances of a team in which the thread's own is replaced: that one first, then those that are not at its place. -/
theorem putInstance_team (ht : s.teams[c.r.team]? = some c.t) (hg : i.group = c.r.tid / 32) (hc : i.count = c.th.xseq) :
    (putInstance s c.r.team i).teams[c.r.team]? =
      some { c.t with instances := i :: c.t.instances.filter fun j => !c.hasInstance j } := by
  rw [putInstance, modTeam_self _ ht, hg, hc]
  rfl

/-- No instance of the team at another place is settled. -/
def Cx.othersUnsettled (c : Cx) : Prop := ∀ j ∈ c.t.instances, c.hasInstance j = false → c.t.unsettled j

theorem unsettled_of_kept (h : c.othersUnsettled) : ∀ j ∈ c.t.instances.filter (fun j => !c.hasInstance j), c.t.unsettled j :=
  fun j hj => h j (List.mem_of_mem_filter hj) (by simpa using (List.mem_filter.mp hj).2)

/-- An arrival at an instance, by what that instance is (06 R123-R125). -/
theorem crossArrive_eq (s : State) (c : Cx) (a : Arrival) : crossArrive s c a =
    match c.crossInstance.failed with
    | some sub =>
      if c.th.quiet then
        settleCross (raiseCollective sub
          (putInstance s c.r.team { c.crossInstance with raised := c.r.tid :: c.crossInstance.raised }) c.r) c.r.team
      else s
    | none =>
      if c.crossInstance.arrivals.all (a.sameKey ·) then
        settleCross ((putInstance s c.r.team
          { c.crossInstance with arrivals := insertArrival a c.crossInstance.arrivals }).modThread c.r
            fun th => { th with wait := .cross }) c.r.team
      else
        let sub := if c.crossInstance.arrivals.all (a.sameOp ·) then 2 else 1
        let here := c.crossInstance.arrivals.map (·.tid) ++ [c.r.tid]
        let ready := here.filter fun n => (s.thread ⟨c.r.team, n⟩).any Thread.quiet
        settleCross (here.foldl (fun u n => raiseCollective sub u ⟨c.r.team, n⟩)
          (putInstance s c.r.team { c.crossInstance with arrivals := [], failed := some sub, raised := ready })) c.r.team :=
  rfl

/-- An arrival at a failed instance raises COLLECTIVE with its sub-cause. -/
theorem crossArrive_failed {sub : Nat} (ht : s.teams[c.r.team]? = some c.t) (hth : s.thread c.r = some c.th)
    (ho : c.othersUnsettled) (hf : c.crossInstance.failed = some sub) (hq : c.th.quiet = true) :
    (crossArrive s c a).mem = s.mem ∧ (∃ fid, (crossArrive s c a).thread c.r = some (c.th.raised sub fid)) ∧
    ∀ q, q ≠ c.r → (crossArrive s c a).thread q = s.thread q := by
  obtain ⟨hg, hc⟩ := crossInstance_place c
  have hput := putInstance_team (i := { c.crossInstance with raised := c.r.tid :: c.crossInstance.raised }) ht hg hc
  obtain ⟨hmem, hothers, hself⟩ := settle_raised hput rfl hf
    (fun j hj => (unsettled_of_kept ho j hj).mono fun n th h1 h2 => ⟨th, h1, h2⟩) (List.nodup_singleton c.r)
  simp only [List.foldl_cons, List.foldl_nil] at hmem hothers hself
  rw [crossArrive_eq, hf]
  simp only [hq, if_true]
  refine ⟨hmem, (hself c.r (List.mem_singleton.mpr rfl) c.th ((putInstance_thread _).trans hth)).1 hq, fun q hne => ?_⟩
  exact (hothers q (by simpa using hne)).trans (putInstance_thread _)

/-- An arrival whose key differs makes the instance fail: every member that had arrived, and the newcomer, raises. -/
theorem crossArrive_differs (ht : s.teams[c.r.team]? = some c.t) (ho : c.othersUnsettled)
    (hf : c.crossInstance.failed = none) (hk : c.crossInstance.arrivals.all (a.sameKey ·) = false)
    (hn : (c.crossInstance.arrivals.map Arrival.tid ++ [c.r.tid]).Nodup) :
    let sub := if c.crossInstance.arrivals.all (a.sameOp ·) then 2 else 1
    let here := c.crossInstance.arrivals.map Arrival.tid ++ [c.r.tid]
    let t := crossArrive s c a
    t.mem = s.mem ∧
    (∀ n ∈ here, ∀ th, s.thread ⟨c.r.team, n⟩ = some th →
      (th.quiet = true → ∃ fid, t.thread ⟨c.r.team, n⟩ = some (th.raised sub fid)) ∧
      (th.quiet = false → t.thread ⟨c.r.team, n⟩ = some { th with wait := .none })) ∧
    ∀ q, (∀ n ∈ here, q ≠ ⟨c.r.team, n⟩) → t.thread q = s.thread q := by
  intro sub here t
  obtain ⟨hg, hc⟩ := crossInstance_place c
  let ready := here.filter fun n => (s.thread ⟨c.r.team, n⟩).any Thread.quiet
  have hput := putInstance_team (i := { c.crossInstance with arrivals := [], failed := some sub, raised := ready }) ht hg hc
  have hmembers : (here.map fun n => (⟨c.r.team, n⟩ : TRef)).Nodup := hn.map fun x y h => (TRef.mk.inj h).2
  obtain ⟨hmem, hothers, hself⟩ := settle_raised hput rfl rfl
    (fun j hj => (unsettled_of_kept ho j hj).mono fun n th h1 h2 => ⟨th, h1, h2⟩) hmembers
  have heq : t = settleCross ((here.map fun n => (⟨c.r.team, n⟩ : TRef)).foldl (raiseCollective sub)
      (putInstance s c.r.team { c.crossInstance with arrivals := [], failed := some sub, raised := ready })) c.r.team := by
    rw [List.foldl_map]
    simp only [t, crossArrive_eq, hf, hk, Bool.false_eq_true, if_false]
    rfl
  rw [← heq] at hmem hothers hself
  refine ⟨hmem, fun n hmem th hth => ?_, fun q hq => ?_⟩
  · exact hself _ (List.mem_map_of_mem hmem) th ((putInstance_thread _).trans hth)
  · refine (hothers q fun hq' => ?_).trans (putInstance_thread _)
    obtain ⟨n, hn', rfl⟩ := List.mem_map.mp hq'
    exact hq n hn' rfl

/-- The state in which an arrival whose key agrees stands at its instance, before that is settled. -/
def crossArrived (s : State) (c : Cx) (a : Arrival) : State :=
  (putInstance s c.r.team { c.crossInstance with arrivals := insertArrival a c.crossInstance.arrivals }).modThread c.r
    fun th => { th with wait := .cross }

theorem crossArrive_agrees (hf : c.crossInstance.failed = none)
    (hk : c.crossInstance.arrivals.all (a.sameKey ·) = true) :
    crossArrive s c a = settleCross (crossArrived s c a) c.r.team := by
  rw [crossArrive_eq, hf]
  exact if_pos hk

theorem crossArrived_team (ht : s.teams[c.r.team]? = some c.t) :
    (crossArrived s c a).teams[c.r.team]? = some { c.t with
      instances := { c.crossInstance with arrivals := insertArrival a c.crossInstance.arrivals } ::
        c.t.instances.filter fun j => !c.hasInstance j
      threads := c.t.threads.modify c.r.tid fun th => { th with wait := .cross } } := by
  obtain ⟨hg, hc⟩ := crossInstance_place c
  exact modTeam_self _
    (putInstance_team (i := { c.crossInstance with arrivals := insertArrival a c.crossInstance.arrivals }) ht hg hc)

theorem crossArrived_self (hth : s.thread c.r = some c.th) :
    (crossArrived s c a).thread c.r = some { c.th with wait := .cross } :=
  modThread_self _ ((putInstance_thread _).trans hth)

theorem crossArrived_other (h : q ≠ c.r) : (crossArrived s c a).thread q = s.thread q :=
  (modThread_other _ h).trans (putInstance_thread _)

/-- A thread that waits at an instance has exited no more than before. -/
theorem crossArrived_live {tu : Team} (hth : s.thread c.r = some c.th) (ht : s.teams[c.r.team]? = some c.t)
    (htu : (crossArrived s c a).teams[c.r.team]? = some tu) :
    (∀ (n : Nat) (th : Thread), c.t.threads[n]? = some th → th.isOver = false →
      ∃ th' : Thread, tu.threads[n]? = some th' ∧ th'.isOver = false) ∧
    ∀ (n : Nat) (th' : Thread), tu.threads[n]? = some th' → th'.isOver = false →
      ∃ th : Thread, c.t.threads[n]? = some th ∧ th.isOver = false := by
  have hcross (n : Nat) : tu.threads[n]? =
      if n = c.r.tid then some { c.th with wait := .cross } else c.t.threads[n]? := by
    rw [← thread_of_team htu, ← thread_of_team ht]
    split
    · next h => rw [h]; exact crossArrived_self hth
    · next h => exact crossArrived_other fun e => h (congrArg TRef.tid e)
  have hown : c.t.threads[c.r.tid]? = some c.th := (thread_of_team ht).symm.trans hth
  refine ⟨fun n th h hover => ?_, fun n th h hover => ?_⟩
  · by_cases hn : n = c.r.tid
    · obtain rfl : th = c.th := Option.some.inj (h.symm.trans (hn ▸ hown))
      exact ⟨_, (hcross n).trans (if_pos hn), hover⟩
    · exact ⟨th, ((hcross n).trans (if_neg hn)).trans h, hover⟩
  · rw [hcross] at h
    split at h
    · next hn =>
      obtain rfl := Option.some.inj h
      exact ⟨c.th, hn ▸ hown, hover⟩
    · exact ⟨th, h, hover⟩

/-- While a member is missing the thread waits. -/
theorem crossArrive_waits (ht : s.teams[c.r.team]? = some c.t) (hth : s.thread c.r = some c.th) (ho : c.othersUnsettled)
    (hf : c.crossInstance.failed = none) (hk : c.crossInstance.arrivals.all (a.sameKey ·) = true)
    (hmissing : ∃ n ∈ c.t.groupAlive (c.r.tid / 32), n ∉ (insertArrival a c.crossInstance.arrivals).map Arrival.tid) :
    crossArrive s c a = crossArrived s c a := by
  have htu := crossArrived_team (a := a) ht
  obtain ⟨hlive, -⟩ := crossArrived_live hth ht htu
  obtain ⟨hg, -⟩ := crossInstance_place c
  have hself : c.t.unsettled { c.crossInstance with arrivals := insertArrival a c.crossInstance.arrivals } := by
    obtain ⟨n, hn, hnot⟩ := hmissing
    exact ⟨n, by rw [hg]; exact hn, by simpa only [hf, Option.isSome_none, Bool.false_eq_true, if_false] using hnot⟩
  rw [crossArrive_agrees hf hk]
  exact settleCross_first htu rfl (settleInstance_unsettled htu (hself.mono hlive)) htu
    fun j hj => (unsettled_of_kept ho j hj).mono hlive

/-- The arrival of the last member completes the instance. -/
theorem crossArrive_completes (ht : s.teams[c.r.team]? = some c.t) (hth : s.thread c.r = some c.th) (ho : c.othersUnsettled)
    (hf : c.crossInstance.failed = none) (hk : c.crossInstance.arrivals.all (a.sameKey ·) = true)
    (ha : a.tid = c.r.tid) (hall : ∀ n ∈ c.t.groupAlive (c.r.tid / 32), n ∈ (insertArrival a c.crossInstance.arrivals).map Arrival.tid)
    (hn : ((insertArrival a c.crossInstance.arrivals).map Arrival.tid).Nodup) :
    let arrived := insertArrival a c.crossInstance.arrivals
    let act := arrived.filter (·.active)
    let t := crossArrive s c a
    t.mem = s.mem ∧
    (∃ u, t.teams[c.r.team]? = some u ∧ u.fpst = c.t.fpst ||| crossFlags act ∧ u.x = c.t.x ∧ u.xpend = c.t.xpend) ∧
    (∀ b ∈ arrived, ∀ th, s.thread ⟨c.r.team, b.tid⟩ = some th → t.thread ⟨c.r.team, b.tid⟩ = some (th.crossed act b)) ∧
    ∀ q, (∀ n ∈ arrived.map Arrival.tid, q ≠ ⟨c.r.team, n⟩) → t.thread q = s.thread q := by
  intro arrived act t
  let i : Instance := { c.crossInstance with arrivals := arrived }
  have htu := crossArrived_team (a := a) ht
  obtain ⟨hlive, hback⟩ := crossArrived_live hth ht htu
  obtain ⟨hg, -⟩ := crossInstance_place c
  have hne : i.arrivals ≠ [] := List.ne_nil_of_mem (mem_insertArrival.mpr (.inl rfl))
  have hcomplete := settleInstance_complete (i := i) htu hf hne fun n h => by
    obtain ⟨hgn, th', hth', hover⟩ := mem_groupAlive.mp h
    exact hall n (mem_groupAlive.mpr ⟨hgn.trans hg, hback n th' hth' hover⟩)
  obtain ⟨hmem, ⟨u, hu, hbare⟩, hmembers, hothers⟩ :=
    completeInstance_spec (i := i) (dropInstance_team (i := i) htu) hn
  have hthread (q : TRef) : (dropInstance (crossArrived s c a) c.r.team i).thread q = (crossArrived s c a).thread q :=
    dropInstance_thread q
  have hres (b : Arrival) (hb : b ∈ arrived) (th : Thread) (h : s.thread ⟨c.r.team, b.tid⟩ = some th) :
      (completeInstance (dropInstance (crossArrived s c a) c.r.team i) c.r.team i).thread ⟨c.r.team, b.tid⟩ =
        some (th.crossed act b) := by
    by_cases hr : (⟨c.r.team, b.tid⟩ : TRef) = c.r
    · rw [hmembers b hb { th with wait := .cross }]
      · exact congrArg some ((advance_crossWrite act b { th with wait := .cross } .cross).symm.trans
          (advance_crossWrite act b th .cross))
      · rw [hthread, hr, crossArrived_self hth]
        rw [hr, hth] at h
        rw [Option.some.inj h]
    · exact hmembers b hb th (by rw [hthread, crossArrived_other hr, h])
  have hrest (q : TRef) (hq : ∀ n ∈ arrived.map Arrival.tid, q ≠ ⟨c.r.team, n⟩) :
      (completeInstance (dropInstance (crossArrived s c a) c.r.team i) c.r.team i).thread q = s.thread q := by
    have hself : c.r.tid ∈ arrived.map Arrival.tid := List.mem_map.mpr ⟨a, mem_insertArrival.mpr (.inl rfl), ha⟩
    rw [hothers q hq, hthread, crossArrived_other (hq _ hself)]
  have hlast (n : Nat) (th : Thread) (h : c.t.threads[n]? = some th) (hover : th.isOver = false) :
      ∃ th', u.threads[n]? = some th' ∧ th'.isOver = false := by
    rw [← thread_of_team hu]
    rw [← thread_of_team ht] at h
    by_cases hn' : n ∈ arrived.map Arrival.tid
    · obtain ⟨b, hb, rfl⟩ := List.mem_map.mp hn'
      exact ⟨_, hres b hb th h, (crossed_isOver act b th).trans hover⟩
    · exact ⟨th, (hrest ⟨c.r.team, n⟩ fun m hm e => hn' ((TRef.mk.inj e).2 ▸ hm)).trans h, hover⟩
  have heq : t = completeInstance (dropInstance (crossArrived s c a) c.r.team i) c.r.team i :=
    (crossArrive_agrees hf hk).trans
      (settleCross_first htu rfl hcomplete hu fun j hj => (unsettled_of_kept ho j hj).mono hlast)
  rw [heq]
  exact ⟨hmem, ⟨u, hu, (congrArg Team.fpst hbare :), (congrArg Team.x hbare :), (congrArg Team.xpend hbare :)⟩, hres, hrest⟩

end
end Sys2Proof.Machine
end

section
/-! SUPPORT. The cycle of a cross-thread word: COLLECTIVE stands before an error of the registers it reads (15 R317). -/

namespace Sys2Proof.Machine

section
variable {s : State} {c : Cx} {g : Guard} {f : Fields} {fn : Nat}

/-- What a thread brings to its instance (06 R123, R124). -/
def Cx.arrival (c : Cx) (fn : Nat) (g : Guard) (f : Fields) : Arrival :=
  { tid := c.r.tid, active := c.guard g, op := 0x30, fn := fn, fields := f, val := c.v f.a.toNat, lane := c.v f.b.toNat,
    bit := xor (c.p (f.a.toNat % 8)) (f.a.getLsbD 3), tag := c.tag f.a.toNat }

theorem crossFails_eq (c : Cx) (a : Arrival) :
    crossFails c a = (c.crossInstance.failed.isSome || !(c.crossInstance.arrivals.all (a.sameKey ·))) := by
  unfold crossFails Cx.crossInstance
  rw [show (fun i : Instance => i.group == c.r.tid / 32 && i.count == c.th.xseq) = c.hasInstance from rfl]
  cases c.t.instances.find? c.hasInstance <;> rfl

/-- At its guard a cross-thread word arrives, unless it takes part and a register that it reads holds an error; an arrival
that raises COLLECTIVE does not look at those. -/
theorem runCross_arrives (h : AtGuard 0x30 fn 0 false false g f s c)
    (hs : crossFails c (c.arrival fn g f) = false → c.guard g = true →
      c.flawTrap (sourceVecs 0x30 fn f) (sourceXs 0x30 fn f) 0 = none) :
    runCross fn g f s = .next (crossArrive s c (c.arrival fn g f)) := by
  have ha : ({ tid := c.r.tid, active := c.guard g, op := 0x30, fn := fn, fields := f, val := c.v f.a.toNat,
               lane := c.v f.b.toNat, bit := c.p (lowBits f.a 0 3) != bitAt f.a.toNat 3, tag := c.tag f.a.toNat } : Arrival) =
      c.arrival fn g f := by
    rw [Cx.arrival, lowBits_zero, bitAt_eq_testBit]
    rfl
  have hflaw : (if c.guard g && !crossFails c (c.arrival fn g f) then
      c.flawTrap (sourceVecs 0x30 fn f) (sourceXs 0x30 fn f) 0 else none) = none := by
    split
    · next hc =>
      rw [Bool.and_eq_true, Bool.not_eq_true'] at hc
      exact hs hc.2 hc.1
    · rfl
  rw [runCross, runChecked_atGuard h]
  simp only [ha, hflaw, Eff.unless_none, finish]

end
end Sys2Proof.Machine
end

section

open Sys2Proof Sys2Proof.Machine

/-- Settles O25: an arrival finds its instance failed, differs from its key, leaves a member missing, or completes it; as
no other instance is settled, settling the team touches that instance alone. -/
theorem crossArrival : Obligations.CrossArrival := by
  unfold Obligations.CrossArrival
  intro g f s c w hw h group here inst mine arrived tids control agrees member missing act sound raises unsettled ho
  have ht := view_team h.view
  have hth := view_thread h.view
  have hexec : exec w.2 s = runCross w.1 g f s := by
    simp only [List.mem_cons, List.not_mem_nil, or_false] at hw
    rcases hw with rfl | rfl | rfl | rfl | rfl <;> rfl
  have hagrees (a : Arrival) : mine.sameKey a = true ↔ agrees a := sameKey_iff
  have hkeys : inst.arrivals.all (mine.sameKey ·) = true ↔ ∀ a ∈ inst.arrivals, agrees a := by
    simp only [List.all_eq_true, hagrees]
  have harrives (hs : crossFails c mine = false → sound) : exec w.2 s = .next (crossArrive s c mine) :=
    hexec.trans (runCross_arrives h hs)
  have hfails : crossFails c mine = (inst.failed.isSome || !(inst.arrivals.all (mine.sameKey ·))) := crossFails_eq c mine
  refine ⟨fun sub hf hq => ?_, fun hf hn => ⟨fun hs hk hm => ?_, fun hs hk hm => ?_, fun hk => ?_⟩⟩
  · obtain ⟨hmem, ⟨fid, hself⟩, hothers⟩ := crossArrive_failed (a := mine) ht hth ho hf hq
    exact ⟨_, fid, harrives fun he => (by simp [hfails, hf] at he), hmem, hself, hothers⟩
  · have heq := crossArrive_waits ht hth ho hf (hkeys.mpr hk) hm
    refine ⟨_, _, (harrives fun _ => hs).trans (congrArg _ heq), ⟨crossArrived_self hth, fun q => crossArrived_other, rfl⟩,
      crossArrived_team ht, List.mem_cons_self⟩
  · have hall : ∀ n ∈ c.t.groupAlive group, n ∈ tids := fun n hin => not_not.mp fun hnot => hm ⟨n, hin, hnot⟩
    obtain ⟨hmem, ⟨u, hu, hfpst, hx, hxpend⟩, hmembers, hothers⟩ :=
      crossArrive_completes ht hth ho hf (hkeys.mpr hk) rfl hall hn
    exact ⟨_, u, harrives fun _ => hs, hmem, hu, hfpst, hx, hxpend, hmembers, hothers⟩
  · intro sub
    have hdiffer : inst.arrivals.all (mine.sameKey ·) = false := by
      rw [← Bool.not_eq_true, hkeys]
      exact fun hall => hk.elim fun a ha => ha.2 (hall a ha.1)
    have hsub : (if inst.arrivals.all (mine.sameOp ·) then 2 else 1) = sub := by
      have hop : inst.arrivals.all (mine.sameOp ·) = true ↔ ¬ ∃ a ∈ inst.arrivals, ¬ (a.op = 0x30 ∧ a.fn = w.1) := by
        refine ⟨fun hall ⟨a, ha, hne⟩ => hne (sameOp_iff.mp (List.all_eq_true.mp hall a ha)), fun hnone => ?_⟩
        exact List.all_eq_true.mpr fun a ha => sameOp_iff.mpr (not_not.mp fun hne => hnone ⟨a, ha, hne⟩)
      simp only [sub, hop, ite_not]
    have hhere (n : Nat) : n ∈ inst.arrivals.map Arrival.tid ++ [c.r.tid] ↔ n ∈ tids :=
      (mem_tids_insertArrival (a := mine)).symm
    have hnodup : (inst.arrivals.map Arrival.tid ++ [c.r.tid]).Nodup := by
      have hperm := (insertArrival_perm mine inst.arrivals).map Arrival.tid
      rw [List.map_append] at hperm
      exact hperm.nodup_iff.mp hn
    obtain ⟨hmem, hmembers, hothers⟩ := crossArrive_differs (a := mine) ht ho hf hdiffer hnodup
    rw [show (if c.crossInstance.arrivals.all (mine.sameOp ·) then 2 else 1) = sub from hsub] at hmembers
    refine ⟨_, harrives fun he => (by simp [hfails, hdiffer] at he), hmem, fun n hin th h => ?_, fun q hq => ?_⟩
    · exact hmembers n ((hhere n).mpr hin) th h
    · exact hothers q fun n hin => hq n ((hhere n).mp hin)

end

section
/-! SUPPORT. Hardware barriers (06 R132-R135): what the operations on the machine leave of a barrier and its members, the
settling of a phase, and an arrival. -/

namespace Sys2Proof.Machine

section
variable {s t : State} {c : Cx} {r q : TRef} {th : Thread} {tm : Team} {n team scope num core : Nat} {b : HwBar}
  {teams : List Nat}

/-! ### A release (06 R135) -/

/-- Making x writes visible changes the x registers and the writes that wait, and nothing else of the team. -/
theorem flushX_registers (t : Team) (tid : Nat) :
    ∃ x xflaws xpend, t.flushX tid = { t with x := x, xflaws := xflaws, xpend := xpend } := by
  have hput (l : List XWrite) (t : Team) :
      ∃ x xflaws, l.foldl (fun u w => u.putX w.reg w.val) t = { t with x := x, xflaws := xflaws } := by
    induction l generalizing t with
    | nil => exact ⟨t.x, t.xflaws, rfl⟩
    | cons w l ih =>
      obtain ⟨x, xflaws, h⟩ := ih (t.putX w.reg w.val)
      exact ⟨x, xflaws, h⟩
  obtain ⟨x, xflaws, h⟩ := hput ((t.xpend.filter fun w => w.tid == tid).takeWhile fun w => w.of.isNone) t
  exact ⟨x, xflaws, _, by rw [Team.flushX, h]⟩

theorem flushX_kept (t : Team) (tid : Nat) : (t.flushX tid).seq = t.seq ∧ (t.flushX tid).index = t.index ∧
    (t.flushX tid).hbars = t.hbars ∧ (t.flushX tid).threads = t.threads := by
  obtain ⟨x, xflaws, xpend, h⟩ := flushX_registers t tid
  rw [h]
  exact ⟨rfl, rfl, rfl, rfl⟩

theorem releaseTeam_thread (q : TRef) : (s.releaseTeam c).thread q = s.thread q :=
  modTeam_thread (fun x => (flushX_kept x c.r.tid).2.2.2) q

/-! ### Members (06 R133) -/

theorem teams_modTeam (n m : Nat) (f : Team → Team) :
    (s.modTeam n f).teams[m]? = (s.teams[m]?).map fun x => if n = m then f x else x := List.getElem?_modify ..

/-- The member teams are those of a launch and its places. -/
theorem barTeams_modTeam {f : Team → Team} (h : ∀ x, (f x).seq = x.seq ∧ (f x).index = x.index) :
    (s.modTeam n f).barTeams team scope = s.barTeams team scope := by
  have hkept (x : Team) (m : Nat) : (if n = m then f x else x).seq = x.seq ∧ (if n = m then f x else x).index = x.index := by
    split
    · exact h x
    · exact ⟨rfl, rfl⟩
  have hlen : (s.modTeam n f).teams.length = s.teams.length := List.length_modify ..
  unfold State.barTeams
  rw [teams_modTeam, hlen]
  cases s.teams[team]? with
  | none => rfl
  | some tm =>
    simp only [Option.map_some]
    split
    · rfl
    · refine List.filter_congr fun m _ => ?_
      rw [teams_modTeam]
      cases s.teams[m]? with
      | none => rfl
      | some u => simp only [Option.map_some, (hkept u m).1, (hkept u m).2, (hkept tm team).1, (hkept tm team).2]

theorem barExpected_modTeam {f : Team → Team} (h : ∀ x, (f x).seq = x.seq ∧ (f x).index = x.index) :
    (s.modTeam n f).barExpected team scope = s.barExpected team scope := by
  unfold State.barExpected
  rw [teams_modTeam]
  cases s.teams[team]? with
  | none => rfl
  | some tm =>
    by_cases hn : n = team
    · simp only [Option.map_some, if_pos hn, (h tm).1, (h tm).2]
      rfl
    · simp only [Option.map_some, if_neg hn]
      rfl

/-- A team is a member of its own barriers. -/
theorem self_mem_barTeams (ht : s.teams[team]? = some tm) : team ∈ s.barTeams team scope := by
  unfold State.barTeams
  simp only [ht]
  split
  · exact List.mem_singleton.mpr rfl
  · exact List.mem_filter.mpr ⟨List.mem_range.mpr (List.getElem?_eq_some_iff.mp ht).1, by simp [ht]⟩

/-! ### The barrier of a scope (06 R132) -/

theorem hwBar_modTeam {f : Team → Team} (h : ∀ x, (f x).seq = x.seq ∧ (f x).index = x.index ∧ (f x).hbars = x.hbars) :
    (s.modTeam n f).hwBar team scope num = s.hwBar team scope num := by
  unfold State.hwBar
  rw [teams_modTeam]
  cases s.teams[team]? with
  | none => rfl
  | some tm =>
    by_cases hn : n = team
    · simp only [Option.map_some, if_pos hn, (h tm).1, (h tm).2.1, (h tm).2.2]
      rfl
    · simp only [Option.map_some, if_neg hn]
      rfl

theorem launch?_modLaunch {f : Launch → Launch} (h : ∀ l, (f l).seq = l.seq) (seq m : Nat) :
    (s.modLaunch seq f).launch? m = (s.launch? m).map fun l => if l.seq = seq then f l else l := by
  simp only [State.launch?, State.modLaunch, List.find?_map]
  congr 2
  funext l
  rw [Function.comp_apply]
  split
  · rw [h]
  · rfl

theorem launch_modLaunch_self {f : Launch → Launch} (h : ∀ l, (f l).seq = l.seq) {seq : Nat}
    (hs : (s.launch? seq).isSome = true) : (s.modLaunch seq f).launch seq = f (s.launch seq) := by
  obtain ⟨l, hl⟩ := Option.isSome_iff_exists.mp hs
  have hseq : l.seq = seq := by simpa using List.find?_some hl
  simp only [State.launch, launch?_modLaunch h, hl, Option.map_some, Option.getD_some, if_pos hseq]

/-- A team has the barrier with this number, and its launch is on record. -/
def State.hasBar (s : State) (team num : Nat) : Prop :=
  ∃ tm, s.teams[team]? = some tm ∧ num < tm.hbars.length ∧ (s.launch? tm.seq).isSome = true

theorem hasBar_modTeam {f : Team → Team} (h : ∀ x, (f x).seq = x.seq ∧ (f x).hbars.length = x.hbars.length)
    (hb : s.hasBar team num) : (s.modTeam n f).hasBar team num := by
  obtain ⟨tm, ht, hnum, hs⟩ := hb
  refine ⟨_, (teams_modTeam n team f).trans (congrArg _ ht), ?_, ?_⟩
  · split
    · rw [(h tm).2]; exact hnum
    · exact hnum
  · split
    · rw [(h tm).1]; exact hs
    · exact hs

theorem hasBar_modLaunch {f : Launch → Launch} (h : ∀ l, (f l).seq = l.seq) {seq : Nat} (hb : s.hasBar team num) :
    (s.modLaunch seq f).hasBar team num := by
  obtain ⟨tm, ht, hnum, hs⟩ := hb
  exact ⟨tm, ht, hnum, by rw [launch?_modLaunch h, Option.isSome_map]; exact hs⟩

/-- What replaces the barrier of a scope is the barrier of that scope. -/
theorem hwBar_putHwBar (h : s.hasBar team num) : (s.putHwBar team scope num b).hwBar team scope num = b := by
  obtain ⟨tm, ht, hnum, hs⟩ := h
  have hbarOf {f : Launch → Launch} (hf : ∀ l, (f l).seq = l.seq) (h0 : scope ≠ 0) :
      (s.modLaunch tm.seq f).hwBar team scope num = if scope = 1 then
        ((f (s.launch tm.seq)).cbars.find? fun b => b.1 == tm.index / 4).elim {} Prod.snd else (f (s.launch tm.seq)).lbar := by
    unfold State.hwBar
    rw [show (s.modLaunch tm.seq f).teams = s.teams from rfl, ht]
    simp only [if_neg h0, launch_modLaunch_self hf hs]
  unfold State.putHwBar
  simp only [ht]
  split
  · next h0 =>
    unfold State.hwBar
    rw [modTeam_self _ ht]
    simp only [if_pos h0, List.getD_eq_getElem?_getD, List.getElem?_set_self hnum, Option.getD_some]
  · next h0 =>
    split
    · next h1 => rw [hbarOf (by exact fun _ => rfl) h0, if_pos h1, List.find?_cons_of_pos (by simp)]; rfl
    · next h1 => rw [hbarOf (by exact fun _ => rfl) h0, if_neg h1]

/-- Replacing a barrier changes a team's barriers or a launch's, and no thread, no memory and no membership. -/
theorem putHwBar_cases (s : State) (team scope num : Nat) (b : HwBar) :
    s.putHwBar team scope num b = s ∨
    (∃ f : Team → Team, s.putHwBar team scope num b = s.modTeam team f ∧
      ∀ x, (f x).seq = x.seq ∧ (f x).index = x.index ∧ (f x).threads = x.threads ∧ (f x).hbars.length = x.hbars.length) ∨
    ∃ (seq : Nat) (f : Launch → Launch), s.putHwBar team scope num b = s.modLaunch seq f ∧
      ∀ l, (f l).seq = l.seq ∧ (f l).tuple = l.tuple := by
  unfold State.putHwBar
  cases s.teams[team]? with
  | none => exact .inl rfl
  | some tm =>
    dsimp only
    split
    · exact .inr (.inl ⟨_, rfl, fun _ => ⟨rfl, rfl, rfl, List.length_set⟩⟩)
    · split
      · exact .inr (.inr ⟨_, _, rfl, fun _ => ⟨rfl, rfl⟩⟩)
      · exact .inr (.inr ⟨_, _, rfl, fun _ => ⟨rfl, rfl⟩⟩)

theorem hasBar_putHwBar (h : s.hasBar team num) (n m k : Nat) : (s.putHwBar n m k b).hasBar team num := by
  rcases putHwBar_cases s n m k b with he | ⟨f, he, hf⟩ | ⟨seq, f, he, hf⟩ <;> rw [he]
  · exact h
  · exact hasBar_modTeam (fun x => ⟨(hf x).1, (hf x).2.2.2⟩) h
  · exact hasBar_modLaunch (fun l => (hf l).1) h

theorem putHwBar_thread (q : TRef) : (s.putHwBar team scope num b).thread q = s.thread q := by
  rcases putHwBar_cases s team scope num b with h | ⟨f, h, hf⟩ | ⟨seq, f, h, -⟩ <;> rw [h]
  · exact modTeam_thread (fun x => (hf x).2.2.1) q
  · rfl

theorem putHwBar_mem : (s.putHwBar team scope num b).mem = s.mem := by
  rcases putHwBar_cases s team scope num b with h | ⟨f, h, -⟩ | ⟨seq, f, h, -⟩ <;> rw [h] <;> rfl

theorem barTeams_putHwBar (n m : Nat) : (s.putHwBar team scope num b).barTeams n m = s.barTeams n m := by
  rcases putHwBar_cases s team scope num b with h | ⟨f, h, hf⟩ | ⟨seq, f, h, -⟩ <;> rw [h]
  · exact barTeams_modTeam fun x => ⟨(hf x).1, (hf x).2.1⟩
  · rfl

theorem barExpected_putHwBar (n m : Nat) : (s.putHwBar team scope num b).barExpected n m = s.barExpected n m := by
  rcases putHwBar_cases s team scope num b with h | ⟨f, h, hf⟩ | ⟨seq, f, h, hf⟩ <;> rw [h]
  · exact barExpected_modTeam fun x => ⟨(hf x).1, (hf x).2.1⟩
  · have hteams (m : Nat) : ((s.modLaunch seq f).launch m).nteams = (s.launch m).nteams := by
      simp only [State.launch, launch?_modLaunch fun l => (hf l).1]
      cases s.launch? m with
      | none => rfl
      | some l =>
        simp only [Option.map_some, Option.getD_some, Launch.nteams]
        split
        · rw [(hf l).2]
        · rfl
    unfold State.barExpected
    simp only [hteams]
    rfl

/-! ### The end of a phase (06 R133, R135) -/

/-- The thread past its word, if it waits for the phase. -/
def Thread.wokenBy (scope num : Nat) (old : Bool) (th : Thread) : Thread :=
  if th.wait = .bar scope num old then th.advance else th

theorem wokenBy_wokenBy (old : Bool) (th : Thread) :
    (th.wokenBy scope num old).wokenBy scope num old = th.wokenBy scope num old := by
  unfold Thread.wokenBy
  split
  · exact if_neg (by simp [Thread.advance])
  · rfl

theorem foldl_modThreads_thread {f : Thread → Thread} (hf : ∀ x, f (f x) = f x) (l : List Nat) (s : State) (q : TRef) :
    (l.foldl (fun u n => u.modThreads n f) s).thread q = if q.team ∈ l then (s.thread q).map f else s.thread q := by
  induction l generalizing s with
  | nil => simp
  | cons n l ih =>
    rw [List.foldl_cons, ih, modThreads_thread]
    by_cases hn : q.team = n <;> by_cases hl : q.team ∈ l <;> simp [hn, hl, Function.comp_def, hf]

/-- The waiters of a phase in the member teams go on, and every other thread stands. -/
theorem wakeBar_thread (old : Bool) (q : TRef) : (wakeBar s teams scope num old).thread q =
    if q.team ∈ teams then (s.thread q).map (Thread.wokenBy scope num old) else s.thread q := by
  rw [← foldl_modThreads_thread (wokenBy_wokenBy old) teams s q]
  unfold wakeBar
  dsimp only
  split
  · rfl
  · exact foldl_keeps (fun u => u.thread q) (fun _ _ => by rfl) _ _

theorem wakeBar_mem (old : Bool) : (wakeBar s teams scope num old).mem = s.mem := by
  unfold wakeBar
  dsimp only
  split
  · exact foldl_keeps State.mem (fun _ _ => by rfl) _ _
  · exact (foldl_keeps State.mem (fun _ _ => by rfl) _ _).trans (foldl_keeps State.mem (fun _ _ => by rfl) _ _)

theorem hwBar_wakeBar (old : Bool) (n m k : Nat) : (wakeBar s teams scope num old).hwBar n m k = s.hwBar n m k := by
  have hthreads (s : State) (l : List Nat) (f : Thread → Thread) :
      (l.foldl (fun u n => u.modThreads n f) s).hwBar n m k = s.hwBar n m k :=
    foldl_keeps (fun u => u.hwBar n m k) (fun u x => hwBar_modTeam (by exact fun _ => ⟨rfl, rfl, rfl⟩)) l s
  unfold wakeBar
  dsimp only
  split
  · exact hthreads s teams _
  · exact (foldl_keeps (fun u => u.hwBar n m k) (fun _ _ => by rfl) _ _).trans (hthreads s teams _)

/-- Every member that has not exited has arrived in the phase. -/
def State.phaseOver (s : State) (team scope num : Nat) : Prop :=
  (s.hwBar team scope num).arrived ≠ [] ∧ (s.barTeams team scope).length = s.barExpected team scope ∧
    ∀ m ∈ s.barAlive (s.barTeams team scope), m ∈ (s.hwBar team scope num).arrived

theorem phaseOver_iff : (!(s.hwBar team scope num).arrived.isEmpty &&
    (s.barTeams team scope).length == s.barExpected team scope &&
    (s.barAlive (s.barTeams team scope)).all ((s.hwBar team scope num).arrived.contains ·)) = true ↔
    s.phaseOver team scope num := by
  simp [State.phaseOver, and_assoc]

theorem settleBar_open (h : ¬ s.phaseOver team scope num) : settleBar s team scope num = s :=
  if_neg fun hc => h (phaseOver_iff.mp hc)

theorem settleBar_over (h : s.phaseOver team scope num) : settleBar s team scope num =
    wakeBar (s.putHwBar team scope num { arrived := [], phase := !(s.hwBar team scope num).phase })
      (s.barTeams team scope) scope num (s.hwBar team scope num).phase := if_pos (phaseOver_iff.mpr h)

/-! ### An arrival (06 R134) -/

theorem checkBarScope_ok (h1 : scope = 1 → c.t.rdw.getLsbD 61 = true) (h2 : scope = 2 → c.t.rdw.getLsbD 62 = true) :
    checkBarScope c scope = .ok () := by
  have hbits : (declOf c.t.rdw).clus = c.t.rdw.getLsbD 61 ∧ (declOf c.t.rdw).coop = c.t.rdw.getLsbD 62 :=
    ⟨bitAt_eq_testBit _ _, bitAt_eq_testBit _ _⟩
  simp only [checkBarScope, hbits]
  have hcluster : ¬ (scope = 1 ∧ (!c.t.rdw.getLsbD 61) = true) := fun ⟨h, hb⟩ => by rw [h1 h] at hb; cases hb
  have hlaunch : ¬ (scope = 2 ∧ (!c.t.rdw.getLsbD 62) = true) := fun ⟨h, hb⟩ => by rw [h2 h] at hb; cases hb
  rw [if_neg hcluster, if_neg hlaunch]

theorem checkBarScope_cluster (h : c.t.rdw.getLsbD 61 = false) : checkBarScope c 1 = stopTrap 9 3 := by
  have hbit : (declOf c.t.rdw).clus = false := (bitAt_eq_testBit _ _).trans h
  simp [checkBarScope, hbit, cCollective]

theorem checkBarScope_launch (h : c.t.rdw.getLsbD 62 = false) : checkBarScope c 2 = stopTrap 9 4 := by
  have hbit : (declOf c.t.rdw).coop = false := (bitAt_eq_testBit _ _).trans h
  simp [checkBarScope, hbit, cCollective]

/-- The thread can arrive, and what its core has queued before its word has been performed (06 R134, R135, log 105). -/
structure CanEnter (s : State) (c : Cx) (scope : Nat) (b : HwBar) : Prop where
  new : c.r ∉ b.arrived
  known : ∀ w ∈ c.t.xpend, w.tid = c.r.tid → w.of = none
  performed : scope ≠ 0 → ∀ e ∈ s.queue, e.core = c.t.core → c.th.since.getD s.uid ≤ e.uid
  linked : c.th.linkFail = none

theorem arriveAfter_enters {k : Eff} (h : CanEnter s c scope b) : arriveAfter s c scope b k = k := by
  have hcan : canArrive c b = true := by
    rw [canArrive, Bool.and_eq_true, List.all_eq_true]
    refine ⟨by simpa using h.new, fun w hw => ?_⟩
    rw [Bool.or_eq_true, bne_iff_ne, Option.isNone_iff_eq_none, ← imp_iff_not_or]
    exact h.known w hw
  have hbefore (h0 : scope ≠ 0) : c.queuedBefore s = false := by
    rw [Cx.queuedBefore, List.any_eq_false]
    intro e he hc
    rw [Bool.and_eq_true, beq_iff_eq, decide_eq_true_eq] at hc
    exact absurd (h.performed h0 e he hc.1) (Nat.not_le.mpr hc.2)
  rw [arriveAfter, hcan]
  simp only [Bool.not_true, Bool.false_eq_true, if_false]
  split
  · rfl
  · next h0 => rw [afterQueue, hbefore h0, if_neg (by decide)]

theorem arriveAfter_again {k : Eff} (h : c.r ∈ b.arrived) : arriveAfter s c scope b k = .wait := by
  have hcan : canArrive c b = false := by simp [canArrive, h]
  rw [arriveAfter, hcan]
  rfl

theorem linkStop_linked {k : Eff} (h : c.th.linkFail = none) : linkStop s c k = k := by rw [linkStop, h]

theorem arriveBar_thread (q : TRef) : (arriveBar s c scope num b).thread q = s.thread q :=
  (putHwBar_thread q).trans (releaseTeam_thread q)

theorem arriveBar_mem : (arriveBar s c scope num b).mem = s.mem := putHwBar_mem

theorem barTeams_arriveBar (n m : Nat) : (arriveBar s c scope num b).barTeams n m = s.barTeams n m :=
  (barTeams_putHwBar n m).trans
    (barTeams_modTeam (s := s.leaveQueue c.t.core) fun x => ⟨(flushX_kept x c.r.tid).1, (flushX_kept x c.r.tid).2.1⟩)

theorem barExpected_arriveBar (n m : Nat) : (arriveBar s c scope num b).barExpected n m = s.barExpected n m :=
  (barExpected_putHwBar n m).trans
    (barExpected_modTeam (s := s.leaveQueue c.t.core) fun x => ⟨(flushX_kept x c.r.tid).1, (flushX_kept x c.r.tid).2.1⟩)

theorem hasBar_releaseTeam (h : s.hasBar team num) : (s.releaseTeam c).hasBar team num :=
  hasBar_modTeam (s := s.leaveQueue c.t.core)
    (fun x => ⟨(flushX_kept x c.r.tid).1, congrArg List.length (flushX_kept x c.r.tid).2.2.1⟩) h

theorem hwBar_arriveBar (h : s.hasBar c.r.team num) :
    (arriveBar s c scope num b).hwBar c.r.team scope num = { b with arrived := b.arrived ++ [c.r] } :=
  hwBar_putHwBar (hasBar_releaseTeam h)

/-- The arrival of the last member that has not exited. -/
def Cx.lastAt (c : Cx) (s : State) (scope : Nat) (b : HwBar) : Prop :=
  (s.barTeams c.r.team scope).length = s.barExpected c.r.team scope ∧
    ∀ m ∈ s.barAlive (s.barTeams c.r.team scope), m ∈ b.arrived ++ [c.r]

section
variable {f : Thread → Thread}

/-- The state in which a thread, changed by its word, has arrived, before the phase is settled. -/
def arrivedBar (s : State) (c : Cx) (scope num : Nat) (f : Thread → Thread) : State :=
  (arriveBar s c scope num (s.hwBar c.r.team scope num)).modThread c.r f

theorem arrivedBar_self (hth : s.thread c.r = some c.th) : (arrivedBar s c scope num f).thread c.r = some (f c.th) :=
  modThread_self f ((arriveBar_thread c.r).trans hth)

theorem arrivedBar_other (h : q ≠ c.r) : (arrivedBar s c scope num f).thread q = s.thread q :=
  (modThread_other f h).trans (arriveBar_thread q)

theorem arrivedBar_mem : (arrivedBar s c scope num f).mem = s.mem := arriveBar_mem

theorem barTeams_arrivedBar (n m : Nat) : (arrivedBar s c scope num f).barTeams n m = s.barTeams n m :=
  (barTeams_modTeam (by exact fun _ => ⟨rfl, rfl⟩)).trans (barTeams_arriveBar n m)

theorem hasBar_arrivedBar (h : s.hasBar team num) : (arrivedBar s c scope n f).hasBar team num :=
  hasBar_modTeam (by exact fun _ => ⟨rfl, rfl⟩) (hasBar_putHwBar (hasBar_releaseTeam h) _ _ _)

theorem hwBar_arrivedBar (h : s.hasBar c.r.team num) : (arrivedBar s c scope num f).hwBar c.r.team scope num =
      { s.hwBar c.r.team scope num with arrived := (s.hwBar c.r.team scope num).arrived ++ [c.r] } :=
  (hwBar_modTeam (by exact fun _ => ⟨rfl, rfl, rfl⟩)).trans (hwBar_arriveBar h)

/-- The arrival ends the phase just when it is that of the last member. -/
theorem arrivedBar_phaseOver (hb : s.hasBar c.r.team num) (hth : s.thread c.r = some c.th) (hf : (f c.th).isOver = c.th.isOver) :
    (arrivedBar s c scope num f).phaseOver c.r.team scope num ↔ c.lastAt s scope (s.hwBar c.r.team scope num) := by
  have hexpected : (arrivedBar s c scope num f).barExpected c.r.team scope = s.barExpected c.r.team scope :=
    (barExpected_modTeam (by exact fun _ => ⟨rfl, rfl⟩)).trans (barExpected_arriveBar _ _)
  have halive (m : TRef) : m ∈ (arrivedBar s c scope num f).barAlive (s.barTeams c.r.team scope) ↔
      m ∈ s.barAlive (s.barTeams c.r.team scope) := by
    rw [mem_barAlive, mem_barAlive]
    by_cases hm : m = c.r
    · rw [hm, arrivedBar_self hth, hth]
      simp [hf]
    · rw [arrivedBar_other hm]
  rw [State.phaseOver, hwBar_arrivedBar hb, barTeams_arrivedBar, hexpected, Cx.lastAt]
  simp [halive]

/-- An arrival that is not the last leaves the phase open. -/
theorem settleBar_arrived_open (hb : s.hasBar c.r.team num) (hth : s.thread c.r = some c.th) (hf : (f c.th).isOver = c.th.isOver)
    (hl : ¬ c.lastAt s scope (s.hwBar c.r.team scope num)) :
    let t := settleBar (arrivedBar s c scope num f) c.r.team scope num
    Became s t c.r (f c.th) ∧ t.hwBar c.r.team scope num =
      { s.hwBar c.r.team scope num with arrived := (s.hwBar c.r.team scope num).arrived ++ [c.r] } := by
  intro t
  have heq : t = arrivedBar s c scope num f := settleBar_open fun h => hl ((arrivedBar_phaseOver hb hth hf).mp h)
  rw [heq]
  exact ⟨⟨arrivedBar_self hth, fun q => arrivedBar_other, arrivedBar_mem⟩, hwBar_arrivedBar hb⟩

/-- The last arrival ends the phase: the bit inverts and the waiters go on. -/
theorem settleBar_arrived_over (hb : s.hasBar c.r.team num) (hth : s.thread c.r = some c.th) (hf : (f c.th).isOver = c.th.isOver)
    (hl : c.lastAt s scope (s.hwBar c.r.team scope num)) :
    let t := settleBar (arrivedBar s c scope num f) c.r.team scope num
    let old := (s.hwBar c.r.team scope num).phase
    t.mem = s.mem ∧ t.hwBar c.r.team scope num = { arrived := [], phase := !old } ∧
    t.thread c.r = some ((f c.th).wokenBy scope num old) ∧
    ∀ q th, q ≠ c.r → s.thread q = some th → t.thread q = some
      (if q.team ∈ s.barTeams c.r.team scope ∧ th.wait = .bar scope num old then th.advance else th) := by
  intro t old
  have heq := settleBar_over ((arrivedBar_phaseOver hb hth hf).mpr hl)
  rw [hwBar_arrivedBar hb, barTeams_arrivedBar] at heq
  obtain ⟨tm, ht, -⟩ := id hb
  have hthread (q : TRef) : t.thread q = if q.team ∈ s.barTeams c.r.team scope then
      ((arrivedBar s c scope num f).thread q).map (Thread.wokenBy scope num old) else
      (arrivedBar s c scope num f).thread q := by
    rw [show t = _ from heq, wakeBar_thread, putHwBar_thread]
  refine ⟨?_, ?_, ?_, fun q th hq h => ?_⟩
  · rw [show t = _ from heq, wakeBar_mem, putHwBar_mem, arrivedBar_mem]
  · rw [show t = _ from heq, hwBar_wakeBar]
    exact hwBar_putHwBar (hasBar_arrivedBar hb)
  · rw [hthread, if_pos (self_mem_barTeams ht), arrivedBar_self hth, Option.map_some]
  · rw [hthread, arrivedBar_other hq, h, Option.map_some, Thread.wokenBy]
    split <;> simp [*]

end
end
end Sys2Proof.Machine
end

section
/-! SUPPORT. The three barrier words (06 R134), by the scope that the word names and the barrier as the team has it. -/

namespace Sys2Proof.Machine

section
variable {s : State} {c : Cx} {g : Guard} {f : Fields}

theorem hwBar_past (u : State) (n m k : Nat) : (c.past u).hwBar n m k = u.hwBar n m k :=
  hwBar_modTeam (by exact fun _ => ⟨rfl, rfl, rfl⟩)

/-- A predicate written before or after the PC moves. -/
theorem setP_past (h : c.th.wait = .none) (n : Nat) (x : Bool) :
    { c.th.setP n x with pc := (nextWord c.th.pc false).getD 0, since := none } = c.gone.setP n x := by
  unfold Thread.setP Cx.gone
  split
  · exact congrArg (fun w => { c.th with
      pc := (nextWord c.th.pc false).getD 0
      p := if x then c.th.p ||| ((1 : BitVec 7) <<< n) else c.th.p &&& ~~~((1 : BitVec 7) <<< n)
      wait := w
      since := none }) h
  · exact congrArg (fun w => { c.th with pc := (nextWord c.th.pc false).getD 0, wait := w, since := none }) h

theorem setP_kept (th : Thread) (n : Nat) (x : Bool) :
    (th.setP n x).pc = th.pc ∧ (th.setP n x).wait = th.wait ∧ (th.setP n x).isOver = th.isOver := by
  unfold Thread.setP
  split <;> exact ⟨rfl, rfl, rfl⟩

/-- The scope of the word is one that the launch has (06 R134). -/
def scopeGiven (f : Fields) (c : Cx) : Prop := checkBarScope c (barScope f) = .ok ()

/-- BAR arrives and waits for the end of the phase, which its own arrival may bring. -/
theorem execBar_arrives (h : Acts 0x30 5 g f s c) (hs : scopeGiven f c)
    (he : CanEnter s c (barScope f) (s.hwBar c.r.team (barScope f) (barNumber f))) :
    execBar g f s = .next (settleBar (arrivedBar s c (barScope f) (barNumber f) fun th =>
      { th with wait := .bar (barScope f) (barNumber f) (s.hwBar c.r.team (barScope f) (barNumber f)).phase })
      c.r.team (barScope f) (barNumber f)) := by
  refine runFull_stays h ?_
  dsimp only
  rw [show checkBarScope c (barScope f) = _ from hs]
  exact (arriveAfter_enters he).trans (linkStop_linked he.linked)

/-- BARA arrives and notes the phase. -/
theorem execBara_arrives (h : Acts 0x30 6 g f s c) (hs : scopeGiven f c)
    (he : CanEnter s c (barScope f) (s.hwBar c.r.team (barScope f) (barNumber f))) :
    execBara g f s = c.completes (settleBar (arrivedBar s c (barScope f) (barNumber f) fun th =>
      th.setP f.d.toNat (s.hwBar c.r.team (barScope f) (barNumber f)).phase) c.r.team (barScope f) (barNumber f)) := by
  refine runFull_completes h ?_
  dsimp only
  rw [show checkBarScope c (barScope f) = _ from hs]
  exact (arriveAfter_enters he).trans (linkStop_linked he.linked)

/-- A second arrival in one phase waits for its end. -/
theorem execBar_again (hs : scopeGiven f c) (hr : c.r ∈ (s.hwBar c.r.team (barScope f) (barNumber f)).arrived) :
    (Acts 0x30 5 g f s c → execBar g f s = .next s) ∧ (Acts 0x30 6 g f s c → execBara g f s = .next s) := by
  refine ⟨fun h => ?_, fun h => ?_⟩
  · refine runFull_waits h ?_
    dsimp only
    rw [show checkBarScope c (barScope f) = _ from hs]
    exact arriveAfter_again hr
  · refine runFull_waits h ?_
    dsimp only
    rw [show checkBarScope c (barScope f) = _ from hs]
    exact arriveAfter_again hr

/-- BARW goes on when the phase differs from the one noted. -/
theorem execBarw_returns (h : Acts 0x30 7 g f s c) (hs : scopeGiven f c)
    (hp : (s.hwBar c.r.team (barScope f) (barNumber f)).phase ≠ c.p f.d.toNat) :
    execBarw g f s = c.completes (if barScope f = 0 then s else s.dropL1 c.t.core) := by
  refine runFull_completes h ?_
  dsimp only
  rw [show checkBarScope c (barScope f) = _ from hs]
  exact if_pos (bne_iff_ne.mpr hp)

theorem execBarw_waits (h : Acts 0x30 7 g f s c) (hs : scopeGiven f c)
    (hp : (s.hwBar c.r.team (barScope f) (barNumber f)).phase = c.p f.d.toNat) :
    execBarw g f s = .next (s.modThread c.r fun th =>
      { th with wait := .bar (barScope f) (barNumber f) (s.hwBar c.r.team (barScope f) (barNumber f)).phase }) := by
  refine runFull_stays h ?_
  dsimp only
  rw [show checkBarScope c (barScope f) = _ from hs]
  exact if_neg (by simp [hp])

/-- A barrier word of a scope that the launch has not traps. -/
theorem exec_bar_traps {w : Nat × Instr} {sub : Nat} (hw : w ∈ [(5, Instr.bar g f), (6, .bara g f), (7, .barw g f)])
    (h : Acts 0x30 w.1 g f s c) (hs : checkBarScope c (barScope f) = stopTrap 9 sub) :
    exec w.2 s = .next (s.trapIn s c { cause := 9, sub := sub }) := by
  simp only [List.mem_cons, List.not_mem_nil, or_false] at hw
  rcases hw with rfl | rfl | rfl <;> refine runFull_traps h ?_ <;> dsimp only <;> rw [hs] <;> rfl

end
end Sys2Proof.Machine
end

section

open Sys2Proof Sys2Proof.Machine

/-- Settles O27: an arrival changes no membership and no thread but its own, so that the phase ends just at the last one. -/
theorem hardwareBarriers : Obligations.HardwareBarriers := by
  unfold Obligations.HardwareBarriers
  refine ⟨fun g f s c => ?_, fun g f s c w hw h => ?_⟩
  · intro imm scope num team b teams last bar enters arrives noted hlen hlaunch h1 h2
    have hscope : scopeGiven f c := checkBarScope_ok h1 h2
    have henter (he : enters) : CanEnter s c (barScope f) (s.hwBar c.r.team (barScope f) (barNumber f)) :=
      ⟨he.1, he.2.1, he.2.2.1, he.2.2.2⟩
    have hbar (hv : s.view = some c) : s.hasBar c.r.team num :=
      ⟨c.t, view_team hv, by rw [hlen]; exact Nat.mod_lt _ (by decide), hlaunch⟩
    refine ⟨fun h he => ⟨fun hl => ?_, fun hl => ?_⟩, fun h he => ⟨fun hl => ?_, fun hl => ?_⟩,
      fun hr => execBar_again hscope hr, fun h => ⟨execBarw_returns h hscope, execBarw_waits h hscope⟩⟩
    · obtain ⟨hbecame, hnow⟩ := settleBar_arrived_open (f := fun th => { th with wait := .bar scope num b.phase })
        (hbar h.view) (view_thread h.view) rfl hl
      exact ⟨_, execBar_arrives h hscope (henter he), hbecame, hnow⟩
    · obtain ⟨hmem, hnow, hself, hothers⟩ := settleBar_arrived_over (f := fun th => { th with wait := .bar scope num b.phase })
        (hbar h.view) (view_thread h.view) rfl hl
      exact ⟨_, execBar_arrives h hscope (henter he), hmem, hnow, hself.trans (congrArg some (if_pos rfl)), hothers⟩
    · obtain ⟨hbecame, hnow⟩ := settleBar_arrived_open (f := fun th => th.setP f.d.toNat b.phase)
        (hbar h.view) (view_thread h.view) (setP_kept c.th _ _).2.2 hl
      have hpast := hbecame.past
      rw [setP_past (wait_of_acts h)] at hpast
      exact ⟨_, execBara_arrives h hscope (henter he), hpast, (hwBar_past _ _ _ _).trans hnow⟩
    · obtain ⟨hmem, hnow, hself, hothers⟩ := settleBar_arrived_over (f := fun th => th.setP f.d.toNat b.phase)
        (hbar h.view) (view_thread h.view) (setP_kept c.th _ _).2.2 hl
      have hwait : (c.th.setP f.d.toNat b.phase).wait ≠ .bar scope num b.phase := by
        rw [(setP_kept c.th _ _).2.1, wait_of_acts h]
        exact Wait.noConfusion
      rw [Thread.wokenBy, if_neg hwait] at hself
      have hpast := (past_self hself).trans (congrArg some (setP_past (wait_of_acts h) _ _))
      exact ⟨_, execBara_arrives h hscope (henter he), hmem, (hwBar_past _ _ _ _).trans hnow, hpast,
        fun q th hq hth => (past_other hq).trans (hothers q th hq hth)⟩
  · intro scope
    refine ⟨fun h1 hb => exec_bar_traps hw h ?_, fun h2 hb => exec_bar_traps hw h ?_⟩
    · exact (congrArg (checkBarScope c) h1).trans (checkBarScope_cluster hb)
    · exact (congrArg (checkBarScope c) h2).trans (checkBarScope_launch hb)

end

section
/-! SUPPORT. The operands of a signature (12 R263-R266): what the specifiers and the tile-set word say, and the checks of
R266 in their order. -/

namespace Sys2Proof.Machine

/-! ### Operand specifiers (12 R264) -/

/-- The encoding, the planes, the layout, the scale source and the group size that a specifier names. -/
def spEnc (x : Nat) : Nat := x % 16
def spPlanes (x : Nat) : Nat := x / 2 ^ 4 % 32
def spLay (x : Nat) : Nat := x / 2 ^ 10 % 4
def spScs (x : Nat) : Nat := x / 2 ^ 12 % 4
def spGroup (x : Nat) : Nat := 32 * 2 ^ (x / 2 ^ 14 % 4)

/-- A malformed specifier (12 R266). -/
def SpMalformed (x : Nat) : Prop := 2 ^ 17 ≤ x ∨ 4 < spEnc x ∨ spLay x = 3 ∨ spScs x = 3 ∨ x / 2 ^ 14 % 4 = 3 ∨
  (spEnc x < 3 ∧ x / 2 ^ 12 ≠ 0) ∨ (spEnc x ≠ 2 ∧ x / 2 ^ 4 % 64 ≠ 0) ∨ 16 < spPlanes x ∨ (spLay x ≠ 0 ∧ 2 ≤ spEnc x)

/-- The lines and the depth of an operand tile. -/
def spLines (x : Nat) (g : TileGeo) : Nat := if spLay x = 1 then g.cols else g.rows
def spDepth (x : Nat) (g : TileGeo) : Nat := if spLay x = 1 then g.rows else g.cols

/-- The tile is of the encoding's kind; its scale tile, where it has one, is of the right kind and size (12 R265); its depth
is whole groups; its planes are loaded. -/
def SpKind (x : Nat) (g : TileGeo) : Prop := g.pt = decide (spEnc x = 2) ∧
  (spEnc x ≠ 2 → g.ew = if spEnc x = 3 then 4 else if spEnc x = 4 then 8 else 16)
def SpScaled (x : Nat) (g scales : TileGeo) : Prop := spScs x = 1 → scales.pt = false ∧ scales.ew = 32 ∧
  spLines x g ≤ scales.rows ∧ spDepth x g / spGroup x ≤ scales.cols
def SpParts (x : Nat) (g : TileGeo) : Prop := 3 ≤ spEnc x → spDepth x g % spGroup x = 0
def SpLoaded (x : Nat) (tag : Tag) : Prop := spEnc x = 2 → tag.pval = true ∧ spPlanes x ≤ tag.pcnt.toNat

section
variable {x : Nat} {g scales : TileGeo} {tag : Tag}

theorem specOf_fields (x : Nat) : (specOf x).enc = spEnc x ∧ (specOf x).npl = spPlanes x ∧ (specOf x).lay = spLay x ∧
    (specOf x).scs = spScs x ∧ (specOf x).group = spGroup x :=
  ⟨rfl, bitField_eq _ _ _, bitField_eq _ _ _, bitField_eq _ _ _, congrArg (fun n => 32 * 2 ^ n) (bitField_eq _ _ _)⟩

theorem specBad_iff (hx : x < 2 ^ 32) : specBad x = true ↔ SpMalformed x := by
  obtain ⟨henc, hnpl, hlay, hscs, -⟩ := specOf_fields x
  have hgs : (specOf x).gs = x / 2 ^ 14 % 4 := bitField_eq _ _ _
  have hzp : (specOf x).zp = true ↔ x / 2 ^ 16 % 2 = 1 := by simp [specOf, bitAt, Nat.shiftRight_eq_div_pow]
  have hmid : (specOf x).mid = true ↔ x / 2 ^ 9 % 2 = 1 := by simp [specOf, bitAt, Nat.shiftRight_eq_div_pow]
  have hhigh : bitField x 17 15 = x / 2 ^ 17 % 2 ^ 15 := bitField_eq _ _ _
  simp only [specBad, Spec.grouped, Bool.or_eq_true, Bool.and_eq_true, Bool.not_eq_true', Bool.or_eq_false_iff, beq_iff_eq,
    beq_eq_false_iff_ne, bne_iff_ne, decide_eq_true_eq, hzp, hmid, hgs, hhigh, henc, hnpl, hlay, hscs, SpMalformed, spEnc,
    spPlanes, spLay, spScs]
  omega

theorem kindOk_iff : (specOf x).kindOk g = true ↔ SpKind x g := by
  obtain ⟨henc, -⟩ := specOf_fields x
  unfold Spec.kindOk SpKind
  rw [henc]
  by_cases h2 : spEnc x = 2
  · simp [h2]
  · by_cases h3 : spEnc x = 3
    · simp [h3]
    · by_cases h4 : spEnc x = 4
      · simp [h4]
      · simp [h2, h3, h4]

theorem lines_eq : (specOf x).lines g = spLines x g := by rw [Spec.lines, (specOf_fields x).2.2.1, spLines]

theorem depth_eq : (specOf x).depth g = spDepth x g := by rw [Spec.depth, (specOf_fields x).2.2.1, spDepth]

theorem scaleOk_iff : (specOf x).scaleOk g scales = true ↔ scales.pt = false ∧ scales.ew = 32 ∧
    spLines x g ≤ scales.rows ∧ spDepth x g / spGroup x ≤ scales.cols := by
  simp [Spec.scaleOk, lines_eq, depth_eq, (specOf_fields x).2.2.2.2, and_assoc]

theorem parts_iff (h : spEnc x ≤ 4) :
    ((specOf x).grouped = true ∧ (specOf x).depth g % (specOf x).group ≠ 0) ↔ ¬ SpParts x g := by
  have hgrouped : (specOf x).grouped = true ↔ 3 ≤ spEnc x := by
    rw [Spec.grouped, Bool.or_eq_true, beq_iff_eq, beq_iff_eq, (specOf_fields x).1]
    omega
  rw [hgrouped, depth_eq, (specOf_fields x).2.2.2.2, SpParts, Classical.not_imp]

theorem loaded_iff :
    ((specOf x).enc == 2 && (!tag.pval || decide (tag.pcnt.toNat < (specOf x).npl))) = true ↔ ¬ SpLoaded x tag := by
  rw [(specOf_fields x).1, (specOf_fields x).2.1, SpLoaded, Classical.not_imp, not_and_or]
  simp

end

/-! ### The record of a signature (12 R263) -/

/-- The tile register in field `i` of the tile-set word: C, A, B, the scales of A and of B, and the bitmap. -/
def ConvRec.tileNo (r : ConvRec) (i : Nat) : Nat := r.a.toNat / 64 ^ i % 64

/-- The specifiers of A and of B. -/
def ConvRec.specA (r : ConvRec) : Nat := r.b.toNat % 2 ^ 32
def ConvRec.specB (r : ConvRec) : Nat := r.b.toNat / 2 ^ 32

/-- The fields of the tile-set word that the operation uses, and whether scale records stand in memory. -/
def ConvRec.Uses (r : ConvRec) (i : Nat) : Prop :=
  i < 3 ∨ (i = 3 ∧ spScs r.specA = 1) ∨ (i = 4 ∧ spScs r.specB = 1) ∨ (i = 5 ∧ r.mmas = true)
def ConvRec.FromMemory (r : ConvRec) : Prop := spScs r.specA = 2 ∨ spScs r.specB = 2

/-- The tile in a field of the tile-set word, as its team has described it. -/
def Team.signTile (t : Team) (r : ConvRec) (i : Nat) : TileGeo := tileGeo (t.tdesc.getD (r.tileNo i) 0)

/-- The operand checks of 12 R266, each as what it asks for. -/
def ConvRec.Formed (r : ConvRec) : Prop :=
  r.a.toNat < 2 ^ 37 ∧ (∀ i, i < 6 → ¬ r.Uses i → r.tileNo i = 0) ∧ ¬ SpMalformed r.specA ∧ ¬ SpMalformed r.specB ∧
    ¬ (spScs r.specA = 2 ∧ spScs r.specB = 2) ∧ (¬ r.FromMemory → r.c = 0)
def Team.SignValid (t : Team) (r : ConvRec) : Prop := ∀ i, i < 6 → r.Uses i → (t.signTile r i).valid = true
def Team.SignKinds (t : Team) (r : ConvRec) : Prop :=
  (t.signTile r 0).pt = false ∧ (t.signTile r 0).ew = 32 ∧ SpKind r.specA (t.signTile r 1) ∧ SpKind r.specB (t.signTile r 2) ∧
    SpScaled r.specA (t.signTile r 1) (t.signTile r 3) ∧ SpScaled r.specB (t.signTile r 2) (t.signTile r 4)
def Team.SignShaped (t : Team) (r : ConvRec) : Prop :=
  spLines r.specA (t.signTile r 1) = (t.signTile r 0).rows ∧ spLines r.specB (t.signTile r 2) = (t.signTile r 0).cols ∧
    spDepth r.specA (t.signTile r 1) = spDepth r.specB (t.signTile r 2) ∧ SpParts r.specA (t.signTile r 1) ∧
    SpParts r.specB (t.signTile r 2)
def Team.SignTagged (t : Team) (r : ConvRec) : Prop :=
  SpLoaded r.specA (t.ttag.getD (r.tileNo 1) {}) ∧ SpLoaded r.specB (t.ttag.getD (r.tileNo 2) {})
def ConvRec.Aligned (r : ConvRec) : Prop := r.FromMemory → r.c.toNat % 4 = 0

/-- The bits of a tile. -/
def tileBits (g : TileGeo) : Nat :=
  if g.pt then g.rows * (g.cols / 16) * (g.pcap + 2) * 16 else g.rows * g.cols * g.ew / 8 * 8

theorem tileBits_eq (g : TileGeo) : tileBits g = 8 * g.bytes := by
  unfold tileBits TileGeo.bytes
  split
  · ring
  · exact Nat.mul_comm _ _

theorem tileGeo_bounds (d : Word) : 16 ≤ (tileGeo d).rows ∧ (tileGeo d).rows ≤ 128 ∧ 16 ≤ (tileGeo d).cols ∧
    (tileGeo d).cols ≤ 128 ∧ 4 ≤ (tileGeo d).ew := by
  have hrows : bitField d.toNat 19 3 < 8 := Nat.mod_lt _ (by decide)
  have hcols : bitField d.toNat 16 3 < 8 := Nat.mod_lt _ (by decide)
  have hew : 0 < 2 ^ bitField d.toNat 22 2 := Nat.two_pow_pos _
  simp only [tileGeo]
  omega

/-- No tile is too short for the bitmap of an operation, which has a bit for each block of 64 elements of B. -/
theorem bitmap_fits (x : Nat) (da dc dm : Word) :
    spDepth x (tileGeo da) / 8 * ((tileGeo dc).cols / 8) ≤ tileBits (tileGeo dm) := by
  obtain ⟨-, hra, -, hca, -⟩ := tileGeo_bounds da
  obtain ⟨-, -, -, hcc, -⟩ := tileGeo_bounds dc
  obtain ⟨hrm, -, hcm, -, hew⟩ := tileGeo_bounds dm
  have hdepth : spDepth x (tileGeo da) ≤ 128 := by unfold spDepth; split <;> assumption
  calc spDepth x (tileGeo da) / 8 * ((tileGeo dc).cols / 8)
      ≤ 16 * 16 := Nat.mul_le_mul (by omega) (by omega)
    _ ≤ tileBits (tileGeo dm) := by
      unfold tileBits
      split
      · calc 16 * 16 ≤ 16 * 1 * 2 * 16 := by decide
          _ ≤ _ := by gcongr <;> omega
      · calc 16 * 16 ≤ 16 * 16 * 4 / 8 * 8 := by decide
          _ ≤ _ := by gcongr

section
variable {t : Team} {r : ConvRec}

theorem tileSet_fields (r : ConvRec) : tsTC r.a.toNat = r.tileNo 0 ∧ tsTA r.a.toNat = r.tileNo 1 ∧
    tsTB r.a.toNat = r.tileNo 2 ∧ tsTSA r.a.toNat = r.tileNo 3 ∧ tsTSB r.a.toNat = r.tileNo 4 ∧ tsTM r.a.toNat = r.tileNo 5 := by
  simp only [tsTC, tsTA, tsTB, tsTSA, tsTSB, tsTM, bitField_eq, ConvRec.tileNo]
  norm_num

theorem forall_lt_six {p : Nat → Prop} : (∀ i, i < 6 → p i) ↔ p 0 ∧ p 1 ∧ p 2 ∧ p 3 ∧ p 4 ∧ p 5 := by
  refine ⟨fun h => ⟨h 0 (by decide), h 1 (by decide), h 2 (by decide), h 3 (by decide), h 4 (by decide), h 5 (by decide)⟩, ?_⟩
  rintro ⟨h0, h1, h2, h3, h4, h5⟩ i hi
  interval_cases i <;> assumption

theorem uses_iff : r.Uses 0 ∧ r.Uses 1 ∧ r.Uses 2 ∧ (r.Uses 3 ↔ spScs r.specA = 1) ∧ (r.Uses 4 ↔ spScs r.specB = 1) ∧
    (r.Uses 5 ↔ r.mmas = true) := by
  simp [ConvRec.Uses]

/-- The first check of 12 R266, as the model makes it. -/
theorem formed_iff : (bitField r.a.toNat 37 27 ≠ 0 ∨ (!r.mmas && tsTM r.a.toNat != 0) = true ∨
    ((specOf r.specA).scs ≠ 1 ∧ tsTSA r.a.toNat ≠ 0) ∨ ((specOf r.specB).scs ≠ 1 ∧ tsTSB r.a.toNat ≠ 0) ∨
    specBad r.specA = true ∨ specBad r.specB = true ∨ ((specOf r.specA).scs = 2 ∧ (specOf r.specB).scs = 2) ∨
    (!((specOf r.specA).scs == 2 || (specOf r.specB).scs == 2) && r.c != 0) = true) ↔ ¬ r.Formed := by
  obtain ⟨-, -, -, h3, h4, h5⟩ := tileSet_fields r
  obtain ⟨u0, u1, u2, u3, u4, u5⟩ := uses_iff (r := r)
  have hb := r.b.isLt
  have ha := r.a.isLt
  have hspecA : r.specA < 2 ^ 32 := Nat.mod_lt _ (by decide)
  have hspecB : r.specB < 2 ^ 32 := Nat.div_lt_of_lt_mul (by simpa using hb)
  have hhigh : bitField r.a.toNat 37 27 ≠ 0 ↔ ¬ r.a.toNat < 2 ^ 37 := by rw [bitField_eq]; omega
  have hbitmap : (!r.mmas && r.tileNo 5 != 0) = true ↔ ¬ (¬ r.Uses 5 → r.tileNo 5 = 0) := by
    rw [Classical.not_imp, u5]
    simp
  have hscalesA : (spScs r.specA ≠ 1 ∧ r.tileNo 3 ≠ 0) ↔ ¬ (¬ r.Uses 3 → r.tileNo 3 = 0) := by rw [Classical.not_imp, u3]
  have hscalesB : (spScs r.specB ≠ 1 ∧ r.tileNo 4 ≠ 0) ↔ ¬ (¬ r.Uses 4 → r.tileNo 4 = 0) := by rw [Classical.not_imp, u4]
  have hrecords : (!(spScs r.specA == 2 || spScs r.specB == 2) && r.c != 0) = true ↔ ¬ (¬ r.FromMemory → r.c = 0) := by
    rw [Classical.not_imp, ConvRec.FromMemory]
    simp
  rw [hhigh, h3, h4, h5, specBad_iff hspecA, specBad_iff hspecB, (specOf_fields r.specA).2.2.2.1,
    (specOf_fields r.specB).2.2.2.1, hbitmap, hscalesA, hscalesB, hrecords, ConvRec.Formed, forall_lt_six]
  simp only [u0, u1, u2, not_true_eq_false, false_implies, true_and]
  generalize (spScs r.specA = 2 ∧ spScs r.specB = 2) = both
  simp only [not_and_or, not_not, or_assoc, or_left_comm]

theorem valid_iff : (!((t.geo (tsTC r.a.toNat)).valid && (t.geo (tsTA r.a.toNat)).valid && (t.geo (tsTB r.a.toNat)).valid &&
    ((specOf r.specA).scs != 1 || (t.geo (tsTSA r.a.toNat)).valid) &&
    ((specOf r.specB).scs != 1 || (t.geo (tsTSB r.a.toNat)).valid) && (!r.mmas || (t.geo (tsTM r.a.toNat)).valid))) = true ↔
    ¬ t.SignValid r := by
  obtain ⟨h0, h1, h2, h3, h4, h5⟩ := tileSet_fields r
  obtain ⟨u0, u1, u2, u3, u4, u5⟩ := uses_iff (r := r)
  rw [h0, h1, h2, h3, h4, h5, (specOf_fields r.specA).2.2.2.1, (specOf_fields r.specB).2.2.2.1, Team.SignValid, forall_lt_six,
    u3, u4, u5]
  simp only [u0, u1, u2, true_implies, Bool.not_eq_true', ← Bool.not_eq_true, Bool.and_eq_true, Bool.or_eq_true, bne_iff_ne,
    ne_eq, ← imp_iff_not_or, and_assoc]
  rfl

theorem kinds_iff : ((t.geo (tsTC r.a.toNat)).pt = true ∨ (t.geo (tsTC r.a.toNat)).ew ≠ 32 ∨
    (!(specOf r.specA).kindOk (t.geo (tsTA r.a.toNat))) = true ∨ (!(specOf r.specB).kindOk (t.geo (tsTB r.a.toNat))) = true ∨
    ((specOf r.specA).scs = 1 ∧ (!(specOf r.specA).scaleOk (t.geo (tsTA r.a.toNat)) (t.geo (tsTSA r.a.toNat))) = true) ∨
    ((specOf r.specB).scs = 1 ∧ (!(specOf r.specB).scaleOk (t.geo (tsTB r.a.toNat)) (t.geo (tsTSB r.a.toNat))) = true)) ↔
    ¬ t.SignKinds r := by
  obtain ⟨h0, h1, h2, h3, h4, -⟩ := tileSet_fields r
  have hgeo (i : Nat) : t.geo (r.tileNo i) = t.signTile r i := rfl
  simp only [h0, h1, h2, h3, h4, hgeo, (specOf_fields r.specA).2.2.2.1, (specOf_fields r.specB).2.2.2.1, Bool.not_eq_true',
    ← Bool.not_eq_true, kindOk_iff, scaleOk_iff, Team.SignKinds, SpScaled]
  tauto

theorem shaped_iff (hf : r.Formed) : ((specOf r.specA).lines (t.geo (tsTA r.a.toNat)) ≠ (t.geo (tsTC r.a.toNat)).rows ∨
    (specOf r.specB).lines (t.geo (tsTB r.a.toNat)) ≠ (t.geo (tsTC r.a.toNat)).cols ∨
    (specOf r.specA).depth (t.geo (tsTA r.a.toNat)) ≠ (specOf r.specB).depth (t.geo (tsTB r.a.toNat)) ∨
    ((specOf r.specA).grouped = true ∧ (specOf r.specA).depth (t.geo (tsTA r.a.toNat)) % (specOf r.specA).group ≠ 0) ∨
    ((specOf r.specB).grouped = true ∧ (specOf r.specB).depth (t.geo (tsTB r.a.toNat)) % (specOf r.specB).group ≠ 0)) ↔
    ¬ t.SignShaped r := by
  obtain ⟨-, -, hsa, hsb, -⟩ := hf
  have henc {x : Nat} (h : ¬ SpMalformed x) : spEnc x ≤ 4 := Nat.not_lt.mp fun hlt => h (.inr (.inl hlt))
  obtain ⟨h0, h1, h2, -⟩ := tileSet_fields r
  rw [parts_iff (henc hsa), parts_iff (henc hsb), lines_eq, lines_eq, depth_eq, depth_eq, h0, h1, h2, Team.SignShaped]
  simp only [not_and_or, ne_eq]
  rfl

/-- The checks of a signature before its scale address, in the order of 12 R266. -/
theorem signChecks_eq [Decidable r.Formed] [Decidable (t.SignValid r)] [Decidable (t.SignKinds r)]
    [Decidable (t.SignShaped r)] [Decidable (t.SignTagged r)] [Decidable r.Aligned] : signChecks t r.mmas r.a r.b r.c =
      if ¬ r.Formed then stopTrap cTile 7
      else if ¬ t.SignValid r then stopTrap cTile 1
      else if ¬ t.SignKinds r then stopTrap cTile 5
      else if ¬ t.SignShaped r then stopTrap cTile 6
      else if ¬ t.SignTagged r then stopTrap cTile 8
      else if ¬ r.Aligned then stopTrap cAlign 0 r.c 4
      else .ok () := by
  obtain ⟨h0, h1, h2, -, -, h5⟩ := tileSet_fields r
  unfold signChecks
  refine ite_congr (propext formed_iff) (fun _ => rfl) fun hf => ?_
  refine ite_congr (propext valid_iff) (fun _ => rfl) fun _ => ?_
  refine ite_congr (propext kinds_iff) (fun _ => rfl) fun _ => ?_
  refine ite_congr (propext (shaped_iff (not_not.mp hf))) (fun _ => rfl) fun _ => ?_
  refine ite_congr (propext ?_) (fun _ => rfl) fun _ => ?_
  · rw [Bool.or_eq_true, Team.SignTagged, not_and_or, ← h1, ← h2]
    exact or_congr loaded_iff loaded_iff
  · have hmapped : ¬ (r.mmas && decide (8 * (t.geo (tsTM r.a.toNat)).bytes <
        (specOf r.specA).depth (t.geo (tsTA r.a.toNat)) / 8 * ((t.geo (tsTC r.a.toNat)).cols / 8))) = true := by
      rw [Bool.and_eq_true, decide_eq_true_eq, depth_eq, ← tileBits_eq]
      exact fun h => Nat.not_lt.mpr (bitmap_fits _ _ _ _) h.2
    refine (if_neg hmapped).trans (ite_congr (propext ?_) (fun _ => rfl) fun _ => rfl)
    show (((specOf r.specA).scs == 2 || (specOf r.specB).scs == 2) && r.c.toNat % 4 != 0) = true ↔ ¬ r.Aligned
    rw [(specOf_fields r.specA).2.2.2.1, (specOf_fields r.specB).2.2.2.1, ConvRec.Aligned, ConvRec.FromMemory,
      Classical.not_imp]
    simp

/-- The trap of a refused signature (12 R266). -/
def tileTrap (sub : Nat) : Trap := { cause := 0x0C, sub := sub }

open Classical in
/-- The same by the first check that fails. -/
theorem signChecks_cases :
    (¬ r.Formed → signChecks t r.mmas r.a r.b r.c = .error (.trap (tileTrap 7))) ∧
    (r.Formed → ¬ t.SignValid r → signChecks t r.mmas r.a r.b r.c = .error (.trap (tileTrap 1))) ∧
    (r.Formed → t.SignValid r → ¬ t.SignKinds r → signChecks t r.mmas r.a r.b r.c = .error (.trap (tileTrap 5))) ∧
    (r.Formed → t.SignValid r → t.SignKinds r → ¬ t.SignShaped r →
      signChecks t r.mmas r.a r.b r.c = .error (.trap (tileTrap 6))) ∧
    (r.Formed → t.SignValid r → t.SignKinds r → t.SignShaped r → ¬ t.SignTagged r →
      signChecks t r.mmas r.a r.b r.c = .error (.trap (tileTrap 8))) ∧
    (r.Formed → t.SignValid r → t.SignKinds r → t.SignShaped r → t.SignTagged r → ¬ r.Aligned →
      signChecks t r.mmas r.a r.b r.c = .error (.trap { cause := 4, sub := 0, va := r.c, ak := 4 })) ∧
    (r.Formed → t.SignValid r → t.SignKinds r → t.SignShaped r → t.SignTagged r → r.Aligned →
      signChecks t r.mmas r.a r.b r.c = .ok ()) := by
  rw [signChecks_eq]
  refine ⟨fun h7 => if_pos h7, fun hf h1 => ?_, fun hf hv h5 => ?_, fun hf hv hk h6 => ?_, fun hf hv hk hs h8 => ?_,
    fun hf hv hk hs ht h4 => ?_, fun hf hv hk hs ht ha => ?_⟩ <;>
    simp only [*, not_true_eq_false, not_false_eq_true, if_true, if_false] <;> rfl

/-- The bytes of the scale records in memory (12 R265). -/
def Team.signRecords (t : Team) (r : ConvRec) (x i : Nat) : Nat :=
  spLines x (t.signTile r i) * (spDepth x (t.signTile r i) / spGroup x) * 4

theorem scaleBytes_eq : scaleBytes t r.a r.b = if spScs r.specA = 2 then t.signRecords r r.specA 1
    else if spScs r.specB = 2 then t.signRecords r r.specB 2 else 0 := by
  obtain ⟨-, h1, h2, -⟩ := tileSet_fields r
  have hsize (x n : Nat) : (specOf x).lines (t.geo n) * ((specOf x).depth (t.geo n) / (specOf x).group) * 4 =
      spLines x (t.geo n) * (spDepth x (t.geo n) / spGroup x) * 4 := by
    rw [lines_eq, depth_eq, (specOf_fields x).2.2.2.2]
  unfold scaleBytes
  dsimp only
  rw [h1, h2, hsize, hsize, (specOf_fields _).2.2.2.1, (specOf_fields _).2.2.2.1]
  rfl

end
end Sys2Proof.Machine
end

section
/-! SUPPORT. KINIT, and the word of a signature (06 R137, R138): what the convergence register admits, what is recorded, and
the operation that the last signature issues. -/

namespace Sys2Proof.Machine

/-! ### KINIT (06 R137) -/

/-- A descriptor that KINIT refuses. -/
def KinitMalformed (w size : Nat) : Prop := 2 ^ 21 ≤ w ∨ w / 1024 % 2048 = 0 ∨ size < w % 1024 + w / 1024 % 2048

/-- The register that KINIT leaves. -/
def ConvReg.reset (k : ConvReg) (w : Nat) : ConvReg :=
  { k with valid := true, first := w % 1024, count := w / 1024 % 2048, signed := [], opRec := none }

section
variable {s : State} {c : Cx} {g : Guard} {f : Fields} {n m : Nat} {k new : ConvReg} {r : ConvRec}

theorem kinitMalformed_iff (w : Word) (size : Nat) :
    (bitField w.toNat 21 43 ≠ 0 ∨ bitField w.toNat 10 11 = 0 ∨ size < bitField w.toNat 0 10 + bitField w.toNat 10 11) ↔
      KinitMalformed w.toNat size := by
  have hw := w.isLt
  have hhigh : bitField w.toNat 21 43 ≠ 0 ↔ 2 ^ 21 ≤ w.toNat := by rw [bitField_eq]; omega
  have hfirst : bitField w.toNat 0 10 = w.toNat % 1024 := by simp [bitField_eq]
  have hcount : bitField w.toNat 10 11 = w.toNat / 1024 % 2048 := bitField_eq _ _ _
  rw [hhigh, hfirst, hcount, KinitMalformed]

theorem execKinit_malformed (h : Acts 0x40 9 g f s c)
    (hb : KinitMalformed (c.x f.a.toNat).toNat (declOf c.t.rdw).size) :
    execKinit g f s = .next (s.trapIn s c { cause := 0x0C, sub := 0x23 }) :=
  runFull_traps h (if_pos ((kinitMalformed_iff _ _).mpr hb))

theorem execKinit_pending (h : Acts 0x40 9 g f s c)
    (hb : ¬ KinitMalformed (c.x f.a.toNat).toNat (declOf c.t.rdw).size) (hs : (c.t.convs.getD f.d.toNat {}).signed ≠ []) :
    execKinit g f s = .next (s.trapIn s c { cause := 0x0C, sub := 0x22 }) :=
  runFull_traps h ((if_neg (mt (kinitMalformed_iff _ _).mp hb)).trans (if_pos (by simpa using hs)))

theorem execKinit_sets (h : Acts 0x40 9 g f s c)
    (hb : ¬ KinitMalformed (c.x f.a.toNat).toNat (declOf c.t.rdw).size) (hs : (c.t.convs.getD f.d.toNat {}).signed = []) :
    execKinit g f s = c.completes (s.modTeam c.r.team fun t =>
      { t with convs := t.convs.set f.d.toNat ((c.t.convs.getD f.d.toNat {}).reset (c.x f.a.toNat).toNat) }) := by
  refine runFull_completes h ((if_neg (mt (kinitMalformed_iff _ _).mp hb)).trans ((if_neg (by simpa using hs)).trans ?_))
  have hfirst : bitField (c.x f.a.toNat).toNat 0 10 = (c.x f.a.toNat).toNat % 1024 := by simp [bitField_eq]
  have hcount : bitField (c.x f.a.toNat).toNat 10 11 = (c.x f.a.toNat).toNat / 1024 % 2048 := bitField_eq _ _ _
  dsimp only
  rw [hfirst, hcount]
  rfl

/-! ### The convergence registers of a team -/

/-- The thread's team has these convergence registers, the thread has become `th`, and nothing else of threads or memory
has changed. -/
structure Signs (s t : State) (c : Cx) (th : Thread) (convs : List ConvReg) : Prop where
  became : Became s t c.r th
  team : ∃ u, t.teams[c.r.team]? = some u ∧ u.convs = convs

/-- What a team has beside its threads stands past the word. -/
theorem Signs.past {t : State} {th : Thread} {convs : List ConvReg} (h : Signs s t c th convs) :
    Signs s (c.past t) c { th with pc := (nextWord c.th.pc false).getD 0, since := none } convs := by
  obtain ⟨u, hu, hconvs⟩ := h.team
  obtain ⟨v, hv, hbare⟩ := exists_team_of_bareTeam (bareTeam_modThread c.r _ c.r.team) hu
  exact ⟨h.became.past, v, hv, (congrArg Team.convs hbare :).trans hconvs⟩

/-- The thread past its word, that waited for nothing, with this count of signatures. -/
theorem counted_past (h : c.th.wait = .none) (m : Nat) :
    { { c.th with cntMx := m } with pc := (nextWord c.th.pc false).getD 0, since := none } = { c.gone with cntMx := m } :=
  congrArg (fun w => { c.th with pc := (nextWord c.th.pc false).getD 0, wait := w, since := none, cntMx := m }) h

theorem setConv_signs (hv : s.view = some c) (n : Nat) (new : ConvReg) :
    Signs s (s.modTeam c.r.team fun t => { t with convs := t.convs.set n new }) c c.th (c.t.convs.set n new) :=
  ⟨⟨(modTeam_thread (fun _ => by rfl) _).trans (view_thread hv), fun q _ => modTeam_thread (fun _ => by rfl) q, rfl⟩,
    _, modTeam_self _ (view_team hv), rfl⟩

/-! ### What the register admits (06 R138) -/

/-- The record of a signer's operands. -/
def Cx.signRec (c : Cx) (f : Fields) (mmas : Bool) : ConvRec := ⟨mmas, c.x f.a.toNat, c.x f.b.toNat, c.x f.c.toNat⟩

/-- The thread is a member of the register. -/
def ConvReg.Member (k : ConvReg) (tid : Nat) : Prop := k.first ≤ tid ∧ tid < k.first + k.count

/-- The register admits a signature of these operands by the thread. -/
structure Admits (c : Cx) (k : ConvReg) (r : ConvRec) : Prop where
  room : c.th.cntMx < 63
  valid : k.valid = true
  member : k.Member c.r.tid
  new : c.r.tid ∉ k.signed
  agrees : ∀ r', k.opRec = some r' → r' = r

/-- The register with one signature more. -/
def ConvReg.sign (k : ConvReg) (c : Cx) (r : ConvRec) (runs : List Extent) : ConvReg :=
  { k with signed := k.signed ++ [c.r.tid], opRec := some r, scale := runs, priv := c.th.priv }

/-- The signature of a thread, recorded. -/
def State.signed (s : State) (c : Cx) (n : Nat) (new : ConvReg) : State :=
  (s.modTeam c.r.team fun t => { t with convs := t.convs.set n new }).modThread c.r fun th =>
    { th with cntMx := th.cntMx + 1 }

/-- Every member but the thread itself has signed or exited. -/
def ConvReg.LastOf (k : ConvReg) (c : Cx) : Prop :=
  ∀ m ∈ c.t.alive, k.first ≤ m → m < k.first + k.count → m = c.r.tid ∨ m ∈ k.signed

/-- The translation of the scale records in memory, where the operands have some. -/
def scaleRuns (s : State) (c : Cx) (r : ConvRec) : Chk (List Extent) :=
  if scaleBytes c.t r.a r.b = 0 then .ok [] else translateRange s c .scaleLoad r.c (scaleBytes c.t r.a r.b)

/-- The signature recorded, or kept waiting where it would issue into a full table. -/
def recordSignature (s : State) (c : Cx) (n : Nat) (r : ConvRec) (runs : List Extent) : Eff :=
  if (convAlive c.t (c.t.convs.getD n {})).all (fun m => m == c.r.tid || (c.t.convs.getD n {}).signed.contains m) &&
      !tableRoom s (coreCluster c.t.core) then .wait
  else .next (settleConv (s.signed c n ((c.t.convs.getD n {}).sign c r runs)) c.r.team n)

/-- What follows the admission: the operand checks, the scale address, and the record. -/
def signOperands (s : State) (c : Cx) (n : Nat) (r : ConvRec) : Eff :=
  Eff.ofChk (signChecks c.t r.mmas r.a r.b r.c) fun _ =>
    if scaleBytes c.t r.a r.b != 0 && (c.held || awaitsAcquire s c) then .wait
    else Eff.ofChk (scaleRuns s c r) (recordSignature s c n r)

theorem mem_convAlive {t : Team} : m ∈ convAlive t k ↔ m ∈ t.alive ∧ k.Member m := by
  simp [convAlive, ConvReg.Member]

section
variable {mmas : Bool} {runs : List Extent}

/-- The checks of the register, in their order. -/
theorem signConv_eq (hroom : c.th.cntMx < 63) :
    let k := c.t.convs.getD f.d.toNat {}
    signConv s c f mmas =
      if !k.valid then .trap { cause := cTile, sub := 0x24 }
      else if c.r.tid < k.first ∨ k.first + k.count ≤ c.r.tid then .trap { cause := cTile, sub := 0x20 }
      else if k.signed.contains c.r.tid then .wait
      else if k.opRec.any (· != c.signRec f mmas) then .trap { cause := cTile, sub := 0x21 }
      else signOperands s c f.d.toNat (c.signRec f mmas) := if_neg (Nat.not_le.mpr hroom)

section
variable (hroom : c.th.cntMx < 63) (hv : (c.t.convs.getD f.d.toNat {}).valid = true)
  (hm : (c.t.convs.getD f.d.toNat {}).Member c.r.tid)
include hroom

theorem signConv_invalid (h : (c.t.convs.getD f.d.toNat {}).valid = false) :
    signConv s c f mmas = .trap { cause := 0x0C, sub := 0x24 } :=
  (signConv_eq hroom).trans (if_pos (by rw [h]; rfl))

include hv

theorem signConv_stranger (hm : ¬ (c.t.convs.getD f.d.toNat {}).Member c.r.tid) :
    signConv s c f mmas = .trap { cause := 0x0C, sub := 0x20 } := by
  rw [ConvReg.Member, not_and_or, Nat.not_le, Nat.not_lt] at hm
  exact (signConv_eq hroom).trans ((if_neg (by rw [hv]; decide)).trans (if_pos hm))

include hm

/-- What a valid register answers one of its members. -/
theorem signConv_member :
    let k := c.t.convs.getD f.d.toNat {}
    signConv s c f mmas =
      if k.signed.contains c.r.tid then .wait
      else if k.opRec.any (· != c.signRec f mmas) then .trap { cause := cTile, sub := 0x21 }
      else signOperands s c f.d.toNat (c.signRec f mmas) :=
  (signConv_eq hroom).trans ((if_neg (by rw [hv]; decide)).trans
    (if_neg (not_or.mpr ⟨Nat.not_lt.mpr hm.1, Nat.not_le.mpr hm.2⟩)))

theorem signConv_again (hs : c.r.tid ∈ (c.t.convs.getD f.d.toNat {}).signed) : signConv s c f mmas = .wait :=
  (signConv_member hroom hv hm).trans (if_pos (List.contains_iff_mem.mpr hs))

theorem signConv_differs (hs : c.r.tid ∉ (c.t.convs.getD f.d.toNat {}).signed)
    (hr : ∃ r', (c.t.convs.getD f.d.toNat {}).opRec = some r' ∧ r' ≠ c.signRec f mmas) :
    signConv s c f mmas = .trap { cause := 0x0C, sub := 0x21 } := by
  obtain ⟨r', hr, hne⟩ := hr
  refine (signConv_member hroom hv hm).trans ((if_neg (mt List.contains_iff_mem.mp hs)).trans (if_pos ?_))
  rw [hr, Option.any_some]
  exact bne_iff_ne.mpr hne

end

theorem signConv_admitted (h : Admits c (c.t.convs.getD f.d.toNat {}) (c.signRec f mmas)) :
    signConv s c f mmas = signOperands s c f.d.toNat (c.signRec f mmas) := by
  refine (signConv_member h.room h.valid h.member).trans ((if_neg (mt List.contains_iff_mem.mp h.new)).trans (if_neg ?_))
  rw [Option.any_eq_true]
  rintro ⟨r', hr, hne⟩
  exact bne_iff_ne.mp hne (h.agrees r' hr)

/-! ### A signature that is admitted (12 R266) -/

theorem signOperands_refused {e : Trap} (h : signChecks c.t r.mmas r.a r.b r.c = .error (.trap e)) :
    signOperands s c n r = .trap e := by rw [signOperands, h]; rfl

/-- Scale records in memory are loads, which nothing of the thread holds back (10 R227). -/
theorem signOperands_translates (h : signChecks c.t r.mmas r.a r.b r.c = .ok ())
    (hfree : scaleBytes c.t r.a r.b = 0 ∨ (c.held = false ∧ awaitsAcquire s c = false)) :
    signOperands s c n r = Eff.ofChk (scaleRuns s c r) (recordSignature s c n r) := by
  have hgo : ¬ (scaleBytes c.t r.a r.b != 0 && (c.held || awaitsAcquire s c)) = true := by
    rcases hfree with h0 | ⟨hh, ha⟩
    · simp [h0]
    · simp [hh, ha]
  rw [signOperands, h]
  exact if_neg hgo

theorem signOperands_faults {e : Trap} (h : signChecks c.t r.mmas r.a r.b r.c = .ok ())
    (h0 : scaleBytes c.t r.a r.b ≠ 0) (hh : c.held = false) (ha : awaitsAcquire s c = false)
    (he : translateRange s c .scaleLoad r.c (scaleBytes c.t r.a r.b) = .error (.trap e)) :
    signOperands s c n r = .trap e := by
  rw [signOperands_translates h (.inr ⟨hh, ha⟩), scaleRuns, if_neg h0, he]
  rfl

theorem last_iff : (convAlive c.t k).all (fun m => m == c.r.tid || k.signed.contains m) = true ↔ k.LastOf c := by
  simp [mem_convAlive, ConvReg.LastOf, ConvReg.Member]

theorem signOperands_records (h : signChecks c.t r.mmas r.a r.b r.c = .ok ())
    (hfree : scaleBytes c.t r.a r.b = 0 ∨ (c.held = false ∧ awaitsAcquire s c = false))
    (hruns : scaleRuns s c r = .ok runs)
    (hroom : (c.t.convs.getD n {}).LastOf c → tableRoom s (coreCluster c.t.core) = true) :
    signOperands s c n r = .next (settleConv (s.signed c n ((c.t.convs.getD n {}).sign c r runs)) c.r.team n) := by
  rw [signOperands_translates h hfree, hruns]
  refine if_neg fun hfull => ?_
  rw [Bool.and_eq_true, last_iff] at hfull
  rw [hroom hfull.1] at hfull
  exact Bool.noConfusion hfull.2

/-! ### The state of a recorded signature -/

theorem signed_team (hv : s.view = some c) : (s.signed c n new).teams[c.r.team]? = some
    { c.t with convs := c.t.convs.set n new, threads := c.t.threads.modify c.r.tid fun th => { th with cntMx := th.cntMx + 1 } } :=
  modTeam_self _ (modTeam_self _ (view_team hv))

theorem signed_signs (hv : s.view = some c) :
    Signs s (s.signed c n new) c { c.th with cntMx := c.th.cntMx + 1 } (c.t.convs.set n new) := by
  obtain ⟨hbecame, -⟩ := setConv_signs hv n new
  exact ⟨⟨modThread_self _ hbecame.thread, fun q hq => (modThread_other _ hq).trans (hbecame.others q hq), rfl⟩,
    _, signed_team hv, rfl⟩

/-- A change of counts makes no thread exit. -/
theorem alive_modify {t : Team} {g : Thread → Thread} (hg : ∀ th, (g th).isOver = th.isOver) (i : Nat) :
    m ∈ ({ t with threads := t.threads.modify i g } : Team).alive ↔ m ∈ t.alive := by
  rw [mem_alive, mem_alive, List.getElem?_modify]
  cases t.threads[m]? with
  | none => rfl
  | some th =>
    have hover : (if i = m then g th else th).isOver = th.isOver := by split <;> simp only [hg]
    exact ⟨fun ⟨_, hth, h⟩ => ⟨th, rfl, by rwa [← Option.some.inj hth, hover] at h⟩,
      fun ⟨_, hth, h⟩ => ⟨_, rfl, by rwa [← Option.some.inj hth, ← hover] at h⟩⟩

/-- The register with a new phase. -/
def ConvReg.issued (k : ConvReg) : ConvReg := { k with phase := !k.phase, signed := [], opRec := none, scale := [], priv := false }

theorem settleConv_open {t : Team} (ht : s.teams[c.r.team]? = some t) {m : Nat} (hm : m ∈ convAlive t (t.convs.getD n {}))
    (hs : m ∉ (t.convs.getD n {}).signed) : settleConv s c.r.team n = s := by
  have hopen : ((t.convs.getD n {}).signed.isEmpty || !(convAlive t (t.convs.getD n {})).all
      ((t.convs.getD n {}).signed.contains ·) || !tableRoom s (coreCluster t.core)) = true := by
    have hall : (convAlive t (t.convs.getD n {})).all ((t.convs.getD n {}).signed.contains ·) = false :=
      List.all_eq_false.mpr ⟨m, hm, mt List.contains_iff_mem.mp hs⟩
    rw [hall]
    simp
  unfold settleConv
  rw [ht]
  dsimp only
  split
  · rfl
  · exact if_pos hopen

/-- The operation issues: one command more, and the register in its new phase. -/
theorem settleConv_issues {t : Team} (ht : s.teams[c.r.team]? = some t) (hr : (t.convs.getD n {}).opRec = some r)
    (h0 : (t.convs.getD n {}).signed ≠ []) (hall : ∀ m ∈ convAlive t (t.convs.getD n {}), m ∈ (t.convs.getD n {}).signed)
    (hroom : tableRoom s (coreCluster t.core) = true) :
    ∃ x : TileCmd, settleConv s c.r.team n = { s with uid := s.uid + 1, tiles := s.tiles ++ [x] }.modTeam c.r.team (fun u =>
        { u with convs := u.convs.set n (t.convs.getD n {}).issued }) ∧
      x.fn = (if r.mmas then 11 else 10) ∧ x.words = [r.a, r.b, r.c] ∧ x.signers = (t.convs.getD n {}).signed ∧
      x.extents = [(t.convs.getD n {}).scale] ∧ x.passes = 0 := by
  have hgo : ¬ ((t.convs.getD n {}).signed.isEmpty || !(convAlive t (t.convs.getD n {})).all
      ((t.convs.getD n {}).signed.contains ·) || !tableRoom s (coreCluster t.core)) = true := by
    have hsigned : (convAlive t (t.convs.getD n {})).all ((t.convs.getD n {}).signed.contains ·) = true :=
      List.all_eq_true.mpr fun m hm => List.contains_iff_mem.mpr (hall m hm)
    rw [hsigned, hroom]
    simpa using h0
  unfold settleConv
  rw [ht]
  dsimp only
  rw [hr]
  dsimp only
  rw [if_neg hgo]
  exact ⟨_, rfl, rfl, rfl, rfl, rfl, rfl⟩

theorem signed_getD (hn : n < c.t.convs.length) : (c.t.convs.set n new).getD n {} = new := by
  rw [List.getD_eq_getElem?_getD, List.getElem?_set_self hn, Option.getD_some]

/-- A member that has not signed keeps the operation waiting. -/
theorem signed_open (hv : s.view = some c) (hn : n < c.t.convs.length) (hl : ¬ (c.t.convs.getD n {}).LastOf c) :
    settleConv (s.signed c n ((c.t.convs.getD n {}).sign c r runs)) c.r.team n =
      s.signed c n ((c.t.convs.getD n {}).sign c r runs) := by
  simp only [ConvReg.LastOf, not_forall, not_or] at hl
  obtain ⟨m, halive, hfirst, hcount, hself, hsigned⟩ := hl
  refine settleConv_open (m := m) (signed_team hv) ?_ ?_ <;> dsimp only <;> rw [signed_getD hn]
  · exact mem_convAlive.mpr ⟨(alive_modify (by exact fun _ => rfl) c.r.tid).mpr halive, hfirst, hcount⟩
  · rw [ConvReg.sign, List.mem_append, List.mem_singleton, not_or]
    exact ⟨hsigned, hself⟩

/-- The last signature issues the operation. -/
theorem signed_issues (hv : s.view = some c) (hn : n < c.t.convs.length) (hl : (c.t.convs.getD n {}).LastOf c)
    (hroom : tableRoom s (coreCluster c.t.core) = true) :
    let t := settleConv (s.signed c n ((c.t.convs.getD n {}).sign c r runs)) c.r.team n
    Signs s t c { c.th with cntMx := c.th.cntMx + 1 } (c.t.convs.set n ((c.t.convs.getD n {}).sign c r runs).issued) ∧
    ∃ x : TileCmd, t.tiles = s.tiles ++ [x] ∧ x.fn = (if r.mmas then 11 else 10) ∧ x.words = [r.a, r.b, r.c] ∧
      x.signers = (c.t.convs.getD n {}).signed ++ [c.r.tid] ∧ x.extents = [runs] ∧ x.passes = 0 := by
  intro t
  obtain ⟨x, ht, hx⟩ := settleConv_issues (r := r) (n := n) (signed_team (n := n) (new := (c.t.convs.getD n {}).sign c r runs) hv)
    (by dsimp only; rw [signed_getD hn]; rfl) (by dsimp only; rw [signed_getD hn]; simp [ConvReg.sign]) (fun m hm => by
      dsimp only at hm ⊢
      rw [signed_getD hn] at hm ⊢
      obtain ⟨halive, hfirst, hcount⟩ := mem_convAlive.mp hm
      have hlast := hl m ((alive_modify (by exact fun _ => rfl) c.r.tid).mp halive) hfirst hcount
      simpa [ConvReg.sign, or_comm] using hlast) hroom
  dsimp only at ht hx
  rw [signed_getD hn] at ht hx
  obtain ⟨hbecame, -⟩ := signed_signs (n := n) (new := (c.t.convs.getD n {}).sign c r runs) hv
  refine ⟨?_, x, ?_, hx⟩
  · rw [show t = _ from ht]
    refine ⟨⟨(modTeam_thread (fun _ => by rfl) _).trans hbecame.thread, fun q hq =>
      (modTeam_thread (fun _ => by rfl) q).trans (hbecame.others q hq), rfl⟩, _, modTeam_self _ (signed_team hv), ?_⟩
    exact List.set_set ..
  · rw [show t = _ from ht]
    rfl

/-! ### The words MMA and MMAS -/

/-- The two words differ in their function and in what the record says of it. -/
theorem exec_signs {w : Nat × Instr} (hw : w ∈ [(10, Instr.mma g f), (11, .mmas g f)]) :
    (exec w.2 s = runFull 0x40 w.1 g f s fun c => signConv s c f (w.1 == 11)) ∧
      w.1 = if (w.1 == 11) = true then 11 else 10 := by
  simp only [List.mem_cons, List.not_mem_nil, or_false] at hw
  rcases hw with rfl | rfl <;> exact ⟨rfl, rfl⟩

end
end
end Sys2Proof.Machine
end

section

open Sys2Proof Sys2Proof.Machine

/-- Settles O35: the helper predicates are the statement's own conditions; a signature is admitted, checked, recorded. -/
theorem signingWords : Obligations.SigningWords := by
  classical
  unfold Obligations.SigningWords
  intro g f s c n k tid team tile hn
  refine ⟨fun h => ?_, fun w hw h hroom => ?_⟩
  · intro word first count bad
    refine ⟨execKinit_malformed h, execKinit_pending h, fun hb hs => ?_⟩
    obtain ⟨hbecame, u, hu, hconvs⟩ := (setConv_signs h.view n (k.reset word)).past
    rw [show { c.th with pc := (nextWord c.th.pc false).getD 0, since := none } = c.gone from
      counted_past (wait_of_acts h) c.th.cntMx] at hbecame
    have hnew : u.convs.getD n {} = k.reset word := by rw [hconvs, signed_getD hn]
    refine ⟨_, u, execKinit_sets h hb hs, hbecame, hu, ?_, ?_, ?_, ?_, ?_, fun m hm => ?_⟩
    · rw [hnew]; rfl
    · rw [hnew]; rfl
    · rw [hnew]; rfl
    · rw [hnew]; rfl
    · rw [hnew]; rfl
    · rw [hconvs, List.getElem?_set_ne hm.symm]
  · intro r member last set no geo a b enc npl lay scs grp badSpec lines deep kind scaled parts loaded memory bits used formed
      valid kinds shaped tagged mapped aligned records size signs sound counted holds
    obtain ⟨hexec, hfn⟩ := exec_signs (s := s) hw
    have htraps {e : Trap} (hb : signConv s c f (w.1 == 11) = .trap e) : exec w.2 s = .next (s.trapIn s c e) :=
      hexec.trans (runFull_traps h hb)
    have hadmits (hs : signs) : signConv s c f (w.1 == 11) = signOperands s c n r :=
      signConv_admitted ⟨hroom, hs.1, hs.2.1, hs.2.2.1, hs.2.2.2⟩
    have hsize : scaleBytes c.t r.a r.b = size := scaleBytes_eq
    obtain ⟨h7, h1, h5, h6, h8, h4, hok⟩ := signChecks_cases (t := c.t) (r := r)
    have hsound (hs : sound) : signChecks c.t r.mmas r.a r.b r.c = .ok () :=
      hok hs.1 hs.2.1 hs.2.2.1 hs.2.2.2.1 hs.2.2.2.2.1 hs.2.2.2.2.2
    have hrefused {e : Trap} (hs : signs) (he : signChecks c.t r.mmas r.a r.b r.c = .error (.trap e)) :
        exec w.2 s = .next (s.trapIn s c e) := htraps ((hadmits hs).trans (signOperands_refused he))
    refine ⟨fun hv => htraps (signConv_invalid hroom hv), fun hv hm => htraps (signConv_stranger hroom hv hm),
      fun hv hm hs => hexec.trans (runFull_waits h (signConv_again hroom hv hm hs)),
      fun hv hm hs hr => htraps (signConv_differs hroom hv hm hs hr), fun hs => ?_, fun runs hs hsd hfree hruns => ?_⟩
    · refine ⟨fun hf => hrefused hs (h7 hf), fun hf hv => hrefused hs (h1 hf hv), fun hf hv hk => hrefused hs (h5 hf hv hk),
        fun hf hv hk hsh => hrefused hs (h6 hf hv hk hsh), fun hf hv hk hsh ht => hrefused hs (h8 hf hv hk hsh ht),
        fun _ => bitmap_fits a _ _ _, fun hf hv hk hsh ht ha => hrefused hs (h4 hf hv hk hsh ht ha),
        fun e hsd h0 hheld hacq he => ?_⟩
      refine htraps ((hadmits hs).trans (signOperands_faults (hsound hsd) ?_ hheld hacq ?_)) <;> rw [hsize]
      · exact h0
      · exact he
    · rw [← hsize] at hfree hruns
      have hdone (hr : last → tableRoom s (coreCluster c.t.core) = true) :
          exec w.2 s = c.completes (settleConv (s.signed c n (k.sign c r runs)) team n) :=
        hexec.trans (runFull_completes h ((hadmits hs).trans (signOperands_records (hsound hsd) hfree hruns hr)))
      have hpast {t : State} {convs : List ConvReg}
          (hb : Signs s t c { c.th with cntMx := c.th.cntMx + 1 } convs) : Signs s (c.past t) c counted convs := by
        rw [show counted = _ from (counted_past (wait_of_acts h) _).symm]
        exact hb.past
      refine ⟨fun hl => ?_, fun hl hr => ?_⟩
      · have hs' := hpast (signed_signs (n := n) (new := k.sign c r runs) h.view)
        rw [← signed_open h.view hn hl] at hs'
        exact ⟨_, hdone fun hl' => absurd hl' hl, hs'.became,
          (congrArg State.tiles (signed_open (r := r) (runs := runs) h.view hn hl) :), hs'.team⟩
      · obtain ⟨hs', x, htiles, hx, hwords, hsigners, hextents, hpasses⟩ :=
          signed_issues (r := r) (runs := runs) h.view hn hl (decide_eq_true hr)
        have hend := hpast hs'
        exact ⟨_, x, hdone fun _ => decide_eq_true hr, hend.became, htiles, hx.trans hfn.symm, hwords, hsigners, hextents,
          hpasses, hend.team⟩

end
